-- ==== Sys2Proof/Word.lean ====
section
/-!
DEFINITION. The words of the device: bytes, 16-, 32-, 64- and 128-bit words, and the two sparse
containers every memory of the model is held in.
-/

namespace Sys2Proof

abbrev Byte := BitVec 8
abbrev W16 := BitVec 16
abbrev W32 := BitVec 32
abbrev W64 := BitVec 64
abbrev W128 := BitVec 128

/-- A byte memory in canonical form: addresses strictly rising, no cell equal to what an unlisted
address reads as (zero). -/
abbrev Mem := List Host.Cell

/-- A sparse table of words: keys strictly rising, no entry equal to the table's default. -/
abbrev Table (α : Type) := List (Nat × α)

/-- An FP32 bit pattern. -/
abbrev F32 := BitVec 32

/-- A logical rafter number (R6). -/
abbrev RafterId := Nat

/-- A unit identifier: block type in [15:12], instance in [11:0] (R11). -/
abbrev UnitId := BitVec 16

/-- A spar identifier: truss in [15:12], index in [11:0] (R315). -/
abbrev SparId := BitVec 16

end Sys2Proof
end

