-- ==== Sys2Proof/Syntax.lean ====
section
/-!
DEFINITION. The commands of the device: one constructor of `Instr` for each row of the table of
operations and events, with its operands. The operand structures follow the field layouts of
Tables 6.4, 6.6 to 6.8, 6.11, 7.3, 7.4, 7.7 (instructions), 14.5 (host commands) and the chapters
that own the events. A value the manual reserves has no constructor here wherever the field is an
enumeration, so a reserved value cannot be written down.
-/

namespace Sys2Proof

/-! ### Enumerations -/

/-- Type codes (Table 6.13). -/
inductive ElemType where
  | fp32 | bf16 | fp16 | e4m3 | e5m2 | mxfp8 | mxfp6 | mxfp4 | int8 | int16 | int32
deriving DecidableEq, Repr

/-- Firing conditions (Table 3.1). -/
inductive Fire where
  | none | inp | out | inout | steer
deriving DecidableEq, Repr

/-- The SHP field (Table 6.3): the planned shape, or shape register `k`. -/
inductive Shp where
  | planned
  | reg (k : BitVec 3)
deriving DecidableEq, Repr

/-- Address spaces (Table 6.5). -/
inductive Space where
  | scratch | ownLoft | loft | unified
deriving DecidableEq, Repr

/-- COND of a BR (Table 6.4). -/
inductive BrCond where
  | always | pollSet | pollClear
deriving DecidableEq, Repr

/-- SRC of a UPD (Table 6.11). -/
inductive UpdSrc where
  | valley | scratch | hbm
deriving DecidableEq, Repr

/-- A vector operand specifier (Table 7.5). -/
inductive VOpnd where
  | none
  | imm
  | stream (ag : BitVec 4)
  | pass (k : BitVec 2)
  | scalar (ag : BitVec 4)
deriving DecidableEq, Repr

/-- DK of a vector instruction (Table 7.4). -/
inductive VDest where
  | stream | pass | none
deriving DecidableEq, Repr

/-- The executing units of a rafter (R89). -/
inductive ExecUnit where
  | seq | stream | tensor | vector | row | steer (u : BitVec 2) | issue
deriving DecidableEq, Repr

/-- How the hardware checks on one unit of work turned out (R519): they pass; they fail once and the
retry passes; or the retry fails as well. `code` is the fault code of the failing check, `info` the
code-specific low bits of the unit's FAULT_INFO register. A physical input of the command. -/
inductive HwCheck where
  | pass
  | once (code : Byte) (info : BitVec 24)
  | twice (code : Byte) (info : BitVec 24)
deriving DecidableEq, Repr

/-- One failing check of an instruction: an error corrected in place (R196, R286), a failure whose retry passes, or one
whose retry fails too (R519). -/
inductive HwEvent where
  | fixed (code : Byte) (info : BitVec 24)
  | once (code : Byte) (info : BitVec 24)
  | twice (code : Byte) (info : BitVec 24)
deriving DecidableEq, Repr

/-- How the hardware checks of an instruction turned out: the checks that failed in each cycle in which any did, in
order of time (R164, R198). A physical input of the command. -/
structure UnitCheck where
  cycles : List (List HwEvent)
deriving DecidableEq, Repr

/-- Every check passed. -/
def UnitCheck.pass : UnitCheck := { cycles := [] }

/-- One check failed, and its retry passed. -/
def UnitCheck.once (code : Byte) (info : BitVec 24) : UnitCheck := { cycles := [[.once code info]] }

/-- One check failed, and its retry as well. -/
def UnitCheck.twice (code : Byte) (info : BitVec 24) : UnitCheck := { cycles := [[.twice code info]] }

/-! ### Instruction operands -/

/-- The common frame of Table 6.1, without the opcode: FIRE, CHAIN, CSPAR. -/
structure Frame where
  fire : Fire
  chain : Bool
  cspar : SparId
deriving DecidableEq, Repr

structure LoopOps where
  lc : BitVec 3
  endIdx : BitVec 10
  shp : Shp
  count : BitVec 24
deriving DecidableEq, Repr

structure AgSetOps where
  ag : BitVec 4
  space : Space
  base : BitVec 43
  limit : BitVec 43
deriving DecidableEq, Repr

structure AgStrOps where
  ag : BitVec 4
  pair : BitVec 2
  lc : BitVec 3
  stride : BitVec 40
deriving DecidableEq, Repr

structure SetShOps where
  sh : BitVec 3
  src : Bool
  value : W32
  ag : BitVec 4
deriving DecidableEq, Repr

structure PollOps where
  spar : SparId
  v : W32
  wr : Bool
  ag : BitVec 4
deriving DecidableEq, Repr

/-- STEER, JOIN and FORK. `n` is the field N: 1, 2, 3 stand for 2, 3, 4 queues. -/
structure SteerOps where
  stu : BitVec 2
  n : BitVec 2
  q0 : BitVec 3
  q1 : BitVec 3
  q2 : BitVec 3
  q3 : BitVec 3
  cq : BitVec 3
  xq : BitVec 3
  steps : BitVec 24
  shp : Shp
  shw : Bool
  shwi : BitVec 3
deriving DecidableEq, Repr

structure DrainOps where
  iq : BitVec 3
  count : BitVec 24
  shp : Shp
  need : BitVec 9
deriving DecidableEq, Repr

structure StreamOps where
  sag : BitVec 4
  dag : BitVec 4
  sq : Bool
  dq : Bool
  qi : BitVec 3
  desc : BitVec 8
  shp : Shp
  dtype : ElemType
  rnd : Bool
  sat : Bool
  iag : BitVec 4
deriving DecidableEq, Repr

structure UpdOps where
  group : BitVec 8
  shard : BitVec 20
  src : UpdSrc
  vt0 : BitVec 6
  vtn : BitVec 7
  sag : BitVec 4
  shp : Shp
deriving DecidableEq, Repr

structure CollOps where
  cdesc : BitVec 10
  sag : BitVec 4
  dag : BitVec 4
  shp : Shp
  rspar : SparId
  flag : Bool
deriving DecidableEq, Repr

structure TensorOps where
  aag : BitVec 4
  bag : BitVec 4
  dag : BitVec 4
  td : BitVec 8
  atype : ElemType
  btype : ElemType
  dtype : ElemType
  auns : Bool
  buns : Bool
  ws : Bool
  buf : Bool
  drn : Bool
  dq : Bool
  qi : BitVec 3
  rnd : Bool
  sat : Bool
  shp : Shp
  vt : BitVec 6
  clr : Bool
deriving DecidableEq, Repr

structure VectorOps where
  opa : VOpnd
  opb : VOpnd
  opc : VOpnd
  dk : VDest
  dst : BitVec 4
  atype : ElemType
  btype : ElemType
  dtype : ElemType
  bf : Bool
  rnd : Bool
  sat : Bool
  shp : Shp
  count : BitVec 20
  usgn : Bool
  imm : W32
deriving DecidableEq, Repr

structure RowOps where
  xag : BitVec 4
  dyag : BitVec 4
  gag : BitVec 4
  oag : BitVec 4
  pag : BitVec 4
  pacc : Bool
  xtype : ElemType
  ptype : ElemType
  otype : ElemType
  rnd : Bool
  sat : Bool
  shp : Shp
  base : BitVec 14
  td : BitVec 8
  imm : W32
deriving DecidableEq, Repr

/-! ### Messages that events carry -/

/-- A token (R98): the 64-bit header of Table 3.2 with HPAR in bit 63, its payload, and the 64 payload parity bits, one
for each 8 B. -/
structure Token where
  hdr : W64
  data : List Byte
  par : BitVec 64
deriving DecidableEq, Repr

/-- OP of a spar operation message (Table 9.6); `other` stands for the reserved values. -/
inductive SparOp where
  | waitGe | waitEq | waitDec | signalAdd | signalSet | arrive | arriveW | read | other
deriving DecidableEq, Repr

/-- A spar operation message: its sender, the TAG that its flits carry (Table 9.4; a rafter's tag names the slot and the
index of the instruction it serves), and the fields of Table 9.6. -/
structure SparMsg where
  src : UnitId
  tag : W16
  op : SparOp
  index : BitVec 12
  t : W16
  v : W32
deriving DecidableEq, Repr

/-- A flit (R326): its 128 B of payload, its sideband (Table 9.4), and its parity bits, one for each 8 B of payload and
then one for each 32 bits of sideband. -/
structure Flit where
  data : BitVec 1024
  side : BitVec 128
  par : BitVec 20
deriving DecidableEq, Repr

/-- One 512 B access presented to a loft bank (R37, R38): port 0 to 13 in the order of R38, the
block's byte address in the loft, and for a write the bytes. -/
structure LoftReq where
  port : BitVec 4
  addr : BitVec 25
  write : Bool
  data : List Byte
deriving DecidableEq, Repr

/-- One 512 B access presented to a scratchpad port (R166): the unit in the order of R166 (0 tensor array,
1 stream engine, 2 row engine, 3 vector engine, 4 sequencer), the cycle at which it was presented, the
byte address, and for a write the bytes. -/
structure SpReq where
  unit : BitVec 3
  age : Nat
  addr : BitVec 21
  data : List Byte
deriving DecidableEq, Repr

/-- A port of a router, seen as its input or as its exit to the unit there (R331). -/
structure MeshSide where
  port : BitVec 3
  out : Bool
deriving DecidableEq, Repr

/-- An Ixerta message as received (Table 13.2), with the port-level facts that R439 to R446 check:
whether CRC and UDP checksum hold, and whether the source address is that of the peer-table entry. -/
structure IxMsg where
  last : Bool
  retx : Bool
  src : BitVec 10
  psn : W32
  apsn : W32
  xfer : W16
  rgen : Byte
  wgen : Byte
  course : W32
  offset : BitVec 48
  payload : List Byte
  crcOk : Bool
  addrOk : Bool
deriving DecidableEq, Repr

/-! ### Program images -/

/-- One route binding of a slot: queue numbered as RFT_QCFG, the peer (R99). -/
structure RouteImg where
  q : BitVec 4
  se : Bool
  peer : UnitId
  peerq : BitVec 3
deriving DecidableEq, Repr

/-- One configuration slot of a rafter's image (R113); a slot reserved for the preconditioner routine of a group
is left empty and names the group (R380). -/
structure SlotImg where
  slot : BitVec 3
  entry : BitVec 10
  next : BitVec 3
  iq : Byte
  oq : Byte
  code : List W128
  routes : List RouteImg
  routine : Option (BitVec 8)
deriving DecidableEq, Repr

/-- A latency the compiler declares for the path through an input queue (R104, R105): the longest
path, the path through the queue, the consumer's initiation interval, and the latency of the route bound to
the queue. -/
structure LatImg where
  slot : BitVec 3
  q : BitVec 4
  lLong : Nat
  lQ : Nat
  ii : Nat
  route : Nat
deriving DecidableEq, Repr

/-- The weight-gradient block that a TMMV accumulates (R313). -/
structure ValleyDecl where
  slot : BitVec 3
  index : BitVec 10
  block : Nat
deriving DecidableEq, Repr

/-- An instruction that can read a version ring, and whether it reads the entry of a stored HEADW (R606). -/
structure ReadDecl where
  slot : BitVec 3
  index : BitVec 10
  stored : Bool
deriving DecidableEq, Repr

structure RafterImg where
  rafter : RafterId
  entry : BitVec 3
  decision : Bool
  serve : Bool
  progLimit : BitVec 20
  depths : List Nat
  slots : List SlotImg
  descs : List (Nat × BitVec 512)
  lats : List LatImg
  valley : List ValleyDecl
  reads : List ReadDecl
deriving DecidableEq, Repr

/-- Kinds of output window (R494). -/
inductive WinKind where
  | decision | course | session
deriving DecidableEq, Repr

/-- An input window: control block address and size of each buffer (R492). -/
structure InWinImg where
  win : BitVec 6
  addr : W64
  size : Nat
  copyArea : W64
deriving DecidableEq, Repr

/-- An output window: kind, staging area, size, and the publish set whose PUBSTEP its records carry. -/
structure OutWinImg where
  win : BitVec 6
  kind : WinKind
  addr : W64
  size : Nat
  pubset : Option (BitVec 4)
deriving DecidableEq, Repr

/-- A publish set (R499): its groups, and for each shard the two copy areas. -/
structure PubImg where
  set : BitVec 4
  groups : List (BitVec 8)
  copies : List (BitVec 20 × W64 × W64)
deriving DecidableEq, Repr

/-- A ring descriptor (R350, R351, R360) with the schedule figures LC-25 uses (R358). -/
structure RingImg where
  group : BitVec 8
  depth : BitVec 2
  rstride : BitVec 20
  guarded : Bool
  guard : SparId
  gn : W16
  head : BitVec 2
  ver : W32
  span : Nat
  perCourse : Nat
  microBatches : Nat
deriving DecidableEq, Repr

/-- A budgeted server (R333): a router's output on a plane, an injection queue on a plane of the truss (false) or the
attachment (true) of a router, or a truss's spar table. -/
inductive Server where
  | output (router : BitVec 4) (port : BitVec 3) (plane : BitVec 3)
  | injection (router : BitVec 4) (attached : Bool) (plane : BitVec 3)
  | spars (truss : BitVec 4)
deriving DecidableEq, Repr

/-- What the image's schedule presents to a budgeted server (R333): for each flit or operation its cycle, and for an
operation that can change the COUNT of a spar with waits, the most waits that can be registered there. -/
structure BudgetImg where
  server : Server
  items : List (Nat × Option Nat)
deriving DecidableEq, Repr

/-- The body of a program image as the ridge parses it. The manual gives the signed header's bytes
(Table 16.6) and what an image declares; it does not give the byte layout of the body's sections. -/
structure Image where
  wellSized : Bool
  topology : List (BitVec 7)
  d : BitVec 20
  period : W32
  decisionCycles : Nat
  bodyCycles : Nat
  rafters : List RafterImg
  spars : List (SparId × W32)
  inWins : List InWinImg
  outWins : List OutWinImg
  maxSess : Nat
  quota : Nat
  residentBytes : Nat
  servingTokens : Nat
  pubs : List PubImg
  vboard : Option W64
  hboard : Option W64
  gtab : Option W64
  stab : Option W64
  groupTab : List Byte
  shardTab : List Byte
  rings : List RingImg
  programs : List (BitVec 5 × List W32)
  cdescs : List (BitVec 10 × List Byte)
  repdesc : Option (BitVec 10)
  expmap : Option W64
  sysGrants : List (BitVec 4 × BitVec 6)
  budgets : List BudgetImg
  sched : Option W64
  ctrBoard : Option W64
  ctrMask : W32
deriving DecidableEq, Repr

/-- The flash directory (Table 16.5). -/
structure FlashDir where
  magic : W32
  slotA : W32
  slotB : W32
  rsOff : W32
  rsLen : W32
  flags : W32
  crc : W32
deriving DecidableEq, Repr

/-- A signed element in flash: its 8 KiB header and its body (R563, R565). A slot that cannot be read has none. -/
structure Flash where
  header : List Byte
  body : List Byte
deriving DecidableEq, Repr

/-- What the management flash holds for the boot ROM: its directory and the two firmware slots (Table 16.5). -/
structure FlashArea where
  dir : FlashDir
  slotA : Flash
  slotB : Flash
deriving DecidableEq, Repr

/-- The reduced-service image that the flash directory names with AUTOSTART (R554): its bytes, the body as the
ridge parses it, and the time in µs that its checks take. -/
structure FlashImage where
  bytes : Flash
  img : Image
  time : W32
deriving DecidableEq, Repr

/-- A sample of the governor (R559): 10 ms average and 1 ms average of the package power, the projections over the
two windows, whether R44 would fail at the floor, and the readings of the 28 sensors with their validity. -/
structure GovSample where
  avg : W16
  ms1 : W16
  proj10 : W16
  proj1 : W16
  failsAtFloor : Bool
  temps : List Byte
  valid : BitVec 28
deriving DecidableEq, Repr

/-- A CXL Type 3 device as enumeration finds it (R426): RATE and WIDTH of the trained link, and its capacity in
units of 256 MiB. -/
structure CxlFound where
  rate : BitVec 2
  width : BitVec 2
  units : Nat
deriving DecidableEq, Repr

/-- What memories a scrubber reads (Table 15.4), in a unit. -/
inductive ScrubMem where
  | scratch | valley | soffit | instr | spar | loft | tierCache | ridge | hbm
deriving DecidableEq, Repr

/-- Outcome of the check of a memory word; `waitParity` is a parity error of an entry of a spar table's wait list
(R340), which no other memory has. -/
inductive EccResult where
  | clean | single | double
  | waitParity (entry : BitVec 7)
deriving DecidableEq, Repr

/-- A host read of BAR0: its size in bytes, and how the ECC of the memory behind the register answered. -/
structure HostRead where
  size : BitVec 4
  ecc : EccResult
deriving DecidableEq, Repr

/-- How a unit's turn in the self-test sweep ends (R517, R518): passed; a checker of the tensor array, the vector engine,
the row engine or any other part failed to flag; or not run within 100 ms. -/
inductive SelfTest where
  | pass | tensor | vector | row | other | overdue
deriving DecidableEq, Repr

/-- Operands of the extent-range commands of Table 12.5. -/
structure TierOps where
  tag : W16
  first : W32
  count : W32
deriving DecidableEq, Repr

structure TierAllocOps where
  tag : W16
  first : W32
  count : W32
  ro : Bool
  pin : Bool
  width : BitVec 2
  port : Bool
  stack : Byte
  owner : Byte
deriving DecidableEq, Repr

/-- Operands of LINK.EXPORT and LINK.IMPORT (Table 14.5). -/
structure LinkXferOps where
  tag : W16
  first : W32
  count : W32
  content : BitVec 4
  byRank : Bool
  rank : W16
  addr : W64
deriving DecidableEq, Repr

/-- An export record as an import reads it (Table 13.7), with whether CRC and DIGEST check. -/
structure ExportRec where
  crcOk : Bool
  digestOk : Bool
  content : BitVec 4
  typ : ElemType
  tensor : W32
  ndim : Byte
  dims : List W32
  start : List W32
  extent : List W32
  shard : BitVec 20
  data : List Byte
deriving DecidableEq, Repr

/-- A SPDM request that the responder of R504 and R569 answers. -/
inductive SpdmReq where
  | getMeasurements | getCertificate | ideKeyProg (ok : Bool)
deriving DecidableEq, Repr

/-- JTAG instructions of IEEE 1149.1 boundary scan. -/
inductive JtagOp where
  | bypass | sample | preload (bits : List Bool) | extest
deriving DecidableEq, Repr

/-- A PTP Sync as measured (R449, R450): its domain and transport (codes of LNK_PTP_CTRL.TRANS), the offset in ns that
the delay mechanism yields, and the reading of the PTP clock, in units of 10 ns, once the ridge has disciplined it. -/
structure PtpSync where
  domain : BitVec 7
  trans : BitVec 2
  offset : BitVec 24
  time : W64
deriving DecidableEq, Repr

/-- Why a frame is foreign (R437, R438, R445). -/
inductive ForeignKind where
  | notIxerta | pause | otherMac | reservedType | unknownPeer
deriving DecidableEq, Repr

/-- One row of the table of operations and events. -/
inductive Instr where
  -- sequencer, queues, spars, streams, issue (chapters 3 and 6)
  | nop (r : RafterId) (f : Frame)
  | loop (r : RafterId) (f : Frame) (o : LoopOps)
  | br (r : RafterId) (f : Frame) (cond : BrCond) (target : BitVec 10)
  | slot (r : RafterId) (f : Frame)
  | slotSwitch (r : RafterId)
  | streamEngineHipSend (r : RafterId)
  | hip (r : RafterId) (f : Frame) (oqmask : Byte)
  | halt (r : RafterId) (f : Frame) (code : W16)
  | agSet (r : RafterId) (f : Frame) (o : AgSetOps)
  | agStr (r : RafterId) (f : Frame) (o : AgStrOps)
  | setSh (r : RafterId) (f : Frame) (o : SetShOps) (hw : UnitCheck)
  | waitGe (r : RafterId) (f : Frame) (spar : SparId) (v : W32)
  | waitEq (r : RafterId) (f : Frame) (spar : SparId) (v : W32)
  | waitDec (r : RafterId) (f : Frame) (spar : SparId) (v : W32)
  | signalAdd (r : RafterId) (f : Frame) (spar : SparId) (v : W32)
  | signalSet (r : RafterId) (f : Frame) (spar : SparId) (v : W32)
  | arrive (r : RafterId) (f : Frame) (spar : SparId) (t : W16)
  | arriveW (r : RafterId) (f : Frame) (spar : SparId) (t : W16)
  | pollGe (r : RafterId) (f : Frame) (o : PollOps)
  | pollEq (r : RafterId) (f : Frame) (o : PollOps)
  | steerSelect (r : RafterId) (f : Frame) (o : SteerOps)
  | steerRoute (r : RafterId) (f : Frame) (o : SteerOps)
  | join (r : RafterId) (f : Frame) (o : SteerOps)
  | fork (r : RafterId) (f : Frame) (o : SteerOps)
  | steeringStep (r : RafterId) (stu : BitVec 2)
  | drain (r : RafterId) (f : Frame) (o : DrainOps)
  | load (r : RafterId) (f : Frame) (o : StreamOps) (hw : UnitCheck)
  | store (r : RafterId) (f : Frame) (o : StreamOps) (hw : UnitCheck)
  | xload (r : RafterId) (f : Frame) (o : StreamOps) (hw : UnitCheck)
  | gather (r : RafterId) (f : Frame) (o : StreamOps) (hw : UnitCheck)
  | scatter (r : RafterId) (f : Frame) (o : StreamOps) (hw : UnitCheck)
  | scatterAdd (r : RafterId) (f : Frame) (o : StreamOps) (hw : UnitCheck)
  | prefetch (r : RafterId) (f : Frame) (sag : BitVec 4) (next : Byte)
  | prefetchForward (r : RafterId)
  | upd (r : RafterId) (f : Frame) (o : UpdOps) (hw : UnitCheck)
  | collRs (r : RafterId) (f : Frame) (o : CollOps) (hw : UnitCheck)
  | collAg (r : RafterId) (f : Frame) (o : CollOps) (hw : UnitCheck)
  | collAr (r : RafterId) (f : Frame) (o : CollOps) (hw : UnitCheck)
  | collFr (r : RafterId) (f : Frame) (o : CollOps)
  | crsEnd (r : RafterId) (f : Frame)
  | crsEndD (r : RafterId) (f : Frame)
  | instructionComplete (r : RafterId) (u : ExecUnit)
  -- tensor array (chapters 4 and 7)
  | tld (r : RafterId) (f : Frame) (o : TensorOps) (hw : UnitCheck)
  | tmm (r : RafterId) (f : Frame) (o : TensorOps) (hw : UnitCheck)
  | tmma (r : RafterId) (f : Frame) (o : TensorOps) (hw : UnitCheck)
  | tmmv (r : RafterId) (f : Frame) (o : TensorOps) (hw : UnitCheck)
  | tchk (r : RafterId) (f : Frame) (buf : Bool) (hw : UnitCheck)
  | accumulatorScrub (r : RafterId) (buf : Bool)
  -- vector engine (chapters 5 and 7)
  | vAdd (r : RafterId) (f : Frame) (o : VectorOps) (hw : UnitCheck)
  | vSub (r : RafterId) (f : Frame) (o : VectorOps) (hw : UnitCheck)
  | vMul (r : RafterId) (f : Frame) (o : VectorOps) (hw : UnitCheck)
  | vMin (r : RafterId) (f : Frame) (o : VectorOps) (hw : UnitCheck)
  | vMax (r : RafterId) (f : Frame) (o : VectorOps) (hw : UnitCheck)
  | vFma (r : RafterId) (f : Frame) (o : VectorOps) (hw : UnitCheck)
  | vAbs (r : RafterId) (f : Frame) (o : VectorOps) (hw : UnitCheck)
  | vNeg (r : RafterId) (f : Frame) (o : VectorOps) (hw : UnitCheck)
  | vCvt (r : RafterId) (f : Frame) (o : VectorOps) (hw : UnitCheck)
  | vCmpLt (r : RafterId) (f : Frame) (o : VectorOps) (hw : UnitCheck)
  | vCmpLe (r : RafterId) (f : Frame) (o : VectorOps) (hw : UnitCheck)
  | vCmpEq (r : RafterId) (f : Frame) (o : VectorOps) (hw : UnitCheck)
  | vSel (r : RafterId) (f : Frame) (o : VectorOps) (hw : UnitCheck)
  | vExp2 (r : RafterId) (f : Frame) (o : VectorOps) (hw : UnitCheck)
  | vLog2 (r : RafterId) (f : Frame) (o : VectorOps) (hw : UnitCheck)
  | vRcp (r : RafterId) (f : Frame) (o : VectorOps) (hw : UnitCheck)
  | vSqrt (r : RafterId) (f : Frame) (o : VectorOps) (hw : UnitCheck)
  | vRsqrt (r : RafterId) (f : Frame) (o : VectorOps) (hw : UnitCheck)
  | vTanh (r : RafterId) (f : Frame) (o : VectorOps) (hw : UnitCheck)
  | vQmx (r : RafterId) (f : Frame) (o : VectorOps) (hw : UnitCheck)
  | vRedSum (r : RafterId) (f : Frame) (o : VectorOps) (hw : UnitCheck)
  | vRedMax (r : RafterId) (f : Frame) (o : VectorOps) (hw : UnitCheck)
  | vFoldSum (r : RafterId) (f : Frame) (o : VectorOps) (hw : UnitCheck)
  | vFoldMax (r : RafterId) (f : Frame) (o : VectorOps) (hw : UnitCheck)
  | vChk (r : RafterId) (f : Frame) (hw : UnitCheck)
  -- row engine (chapters 5 and 7)
  | rnLn (r : RafterId) (f : Frame) (o : RowOps) (hw : UnitCheck)
  | rnRms (r : RafterId) (f : Frame) (o : RowOps) (hw : UnitCheck)
  | rnSmx (r : RafterId) (f : Frame) (o : RowOps) (hw : UnitCheck)
  | rnLnB (r : RafterId) (f : Frame) (o : RowOps) (hw : UnitCheck)
  | rnRmsB (r : RafterId) (f : Frame) (o : RowOps) (hw : UnitCheck)
  | rnSmxB (r : RafterId) (f : Frame) (o : RowOps) (hw : UnitCheck)
  | rnSpill (r : RafterId) (f : Frame) (o : RowOps) (hw : UnitCheck)
  | rnFill (r : RafterId) (f : Frame) (o : RowOps) (hw : UnitCheck)
  | rnChk (r : RafterId) (f : Frame) (hw : UnitCheck)
  -- tokens, ports, spar tables, mesh (chapters 3, 1, 9)
  | tokenAdmission (r : RafterId) (q : BitVec 3) (tok : Token) (credit : Bool)
  | tokenAcknowledgement (r : RafterId) (q : BitVec 3) (seq : W16) (refused : Bool)
  | credit (r : RafterId) (q : BitVec 3)
  | hipTokenAtHead (r : RafterId) (q : BitVec 3)
  | scratchpadPortGrant (r : RafterId) (reads writes : List SpReq)
  | loftBankGrant (t : BitVec 4) (bank : BitVec 4) (reqs : List LoftReq)
  | sparOperation (t : BitVec 4) (ecc : EccResult)
  | sparReply (t : BitVec 4)
  | meshFlitArrival (rt : BitVec 4) (side : MeshSide) (plane : BitVec 3) (fl : Flit) (err : BitVec 20)
  | meshFlitReplay (rt : BitVec 4) (side : MeshSide) (plane : BitVec 3) (ok : Bool)
  | readRequest (src : UnitId) (tag : W16) (space : Space) (addr : W64) (len : W16) (hw : HwCheck)
  | readResponse (dst : UnitId) (tag : W16) (rgen : Byte) (addr : W64) (data : List Byte)
  | write (src : UnitId) (tag : W16) (space : Space) (addr : W64) (data : List Byte)
  | writeAcknowledgement (dst : UnitId) (tag : W16) (rgen : Byte)
  | ridgeRegisterAccess (off : BitVec 26) (wr : Bool) (v : W32)
  | ridgeRegisterResponse
  | progressLimit (r : RafterId)
  -- course (chapter 2)
  | courseStart
  | courseInEdge
  | sourceLost
  | decisionDeadlineCheck
  | closePointCheck
  | boundarySequence (snap ticks : W16)
  -- command ring and host commands (chapter 14)
  | commandRingFetch
  | cmdNop (tag : W16)
  | progLoad (tag : W16) (addr : W64) (len : W32) (reduced : Bool)
  | loadChecksComplete (img : Image) (time : W32)
  | progStart (tag : W16) (first : W64)
  | progStop (tag : W16)
  | learnStop (tag : W16)
  | learnStart (tag : W16)
  | sessionOpen (tag : W16) (sess : Byte) (iw : Byte) (ow : Byte)
  | sessionClose (tag : W16) (sess : Byte)
  | winBind (tag : W16) (win : Byte) (vec : BitVec 6) (addr : W64) (stride : W32)
  | publishPermit (tag : W16) (set : Byte) (standing : Bool) (step : W64)
  | publishRevoke (tag : W16) (set : Byte)
  | fence (tag : W16) (rafters : BitVec 96) (nmu : Byte) (bridge : BitVec 2)
  | tierAlloc (o : TierAllocOps)
  | tierAllocFrameZeroed (extent : BitVec 19)
  | tierSeal (o : TierOps)
  | tierSealComplete (extent : BitVec 19)
  | tierPin (o : TierOps) (pin : Bool)
  | tierFree (o : TierOps)
  | linkExport (o : LinkXferOps)
  | linkExportComplete (tag : W16)
  | linkImport (o : LinkXferOps)
  | portService (tag : W16) (cxl : Bool) (port : Byte) (inService : Bool)
  | ctrGrant (tag : W16) (mask : W32)
  | ctrRevoke (tag : W16) (mask : W32)
  | pwrTol (tag : W16) (tol : W32)
  -- parameter update (chapter 11)
  | updateRequest (u : UnitId) (hw : HwCheck)
  | controlWaitSatisfied (u : UnitId) (hw : HwCheck)
  | guardWaitSatisfied (u : UnitId) (hw : HwCheck)
  | flagReduceStart (g : BitVec 8)
  | agreementResult (g : BitVec 8)
  | agreementTimeout (g : BitVec 8)
  | publishStagingComplete (set : BitVec 4)
  -- memory tiers (chapter 12)
  | tierLookup (extent : BitVec 19) (ecc : Option HwEvent)
  | scheduleRecordIssue (k : BitVec 17)
  | promotionStart
  | evictionRequest (extent : BitVec 19)
  | promotionComplete (extent : BitVec 19)
  | cxlReadResponse (port : Bool) (extent : BitVec 19) (block : BitVec 12) (hw : HwCheck)
  | cxlLinkDown (port : Bool)
  -- Ixerta links (chapter 13)
  | ixertaData (port : BitVec 3) (m : IxMsg) (hw : HwCheck)
  | ixertaAck (port : BitVec 3) (m : IxMsg)
  | ixertaNak (port : BitVec 3) (m : IxMsg)
  | ixertaOpen (port : BitVec 3) (m : IxMsg)
  | ixertaOpenAck (port : BitVec 3) (m : IxMsg)
  | ixertaFlag (port : BitVec 3) (m : IxMsg)
  | ixertaDigest (port : BitVec 3) (m : IxMsg)
  | ixertaAbort (port : BitVec 3) (m : IxMsg)
  | ixertaReq (port : BitVec 3) (m : IxMsg)
  | ackTimer (port : BitVec 3) (rank : BitVec 10)
  | resendTimeout (port : BitVec 3) (rank : BitVec 10)
  | collectiveTimeout (xfer : W16) (course : W32)
  | digestPassComplete (hw : HwCheck)
  | ptpMessage (port : BitVec 3) (m : PtpSync)
  | linkUp (port : BitVec 3)
  | linkDown (port : BitVec 3)
  -- safety and recovery (chapter 15)
  | gutterRecordWrite
  | warmReset (ticks : W16) (cut : Option W32)
  | holdOnlyReleaseDeadline
  | selfTestBurst (u : UnitId) (r : SelfTest)
  | scrub (m : ScrubMem) (u : UnitId) (addr : BitVec 36) (ecc : EccResult)
  | watchdogExpiry
  | lockstepMismatch
  | clockMonitorFault (clock : BitVec 3)
  | supplyMonitorFault (rail : BitVec 4)
  | governorSample (g : GovSample)
  -- power, bring-up, security (chapter 16)
  | pwrgoodRise (railsOk tested : Bool) (flash : FlashArea) (auto : Option FlashImage) (ms : W16)
  | stageFullEntry (pass : Byte) (c0 c1 : Option CxlFound) (ms : W16)
  | powerLoss
  | perstNAssert
  | perstNDeassert (rate width : BitVec 2)
  | powerStateEntry
  | powerStateWake
  | d3hotEntry
  -- host accesses (chapters 0, 2, 14, 17)
  | hostBar2Read (off : BitVec 40) (len : W16) (hw : HwCheck)
  | hostBar2Write (off : BitVec 40) (data : List Byte) (hw : HwCheck)
  | registerWrite (off : BitVec 26) (size : BitVec 4) (v : W64)
  | registerReadClear (off : BitVec 26) (rd : HostRead)
  | crsCourseLoRead
  | crsPeriodWrite (v : W32)
  | crsCtrlWrite (v : W32)
  | crsPtpOffsetWrite (v : W32)
  | hstCrCtrlWrite (v : W32)
  | hstCqHeadWrite (v : W32)
  | fenceRegisterWrite (which : BitVec 3) (v : W32)
  | ctrCfgWrite (i : BitVec 11) (v : W32)
  | ctrValWrite (i : BitVec 11) (v : W64)
  | ctrValLoRead (i : BitVec 11)
  | pwrTolWrite (v : W32)
  | safForceWrite (v : W32)
  | secCtrlFlashrelWrite (v : W32)
  | antiRollbackAdvance (v : W32)
  | fuseBurnComplete
  | ownerProgram (v : W32)
  | ownerRevoke (v : W32)
  | secAttNonceWrite (k : BitVec 3) (v : W32)
  | attestationRequest
  | attestationReportDone
  | debugResponseCheck
  | spdmMessage (q : SpdmReq)
  | pcieCompletionTimeout (again : Bool)
  | smbDeviceId
  | smbPwrStatus
  | smbSafStatus
  | smbPwrTemp
  | smbPwrPower
  | smbStackTemperatures
  | smbAlertResponse
  | jtagBoundaryScan (op : JtagOp)
  | courseOutPulseEnd
  | foreignFrame (port : BitVec 3) (k : ForeignKind)
  | peerTableWrite (port : BitVec 3) (rank : BitVec 10) (entry : BitVec 256)
  | linkImportComplete (recs : List ExportRec)
  | msixVectorUnmask (vec : BitVec 6)
  | configurationRequest (toD0 : Bool)
  | stackTemperatureReport (stack : BitVec 3) (temp : Byte)
deriving DecidableEq, Repr

end Sys2Proof
end

