-- ==== Sys2Proof/Decode.lean ====
section
/-!
DEFINITION. The command that a table word spells (none: the table gives its rows no bits), and the 128-bit
words of Ocnen instructions (R201 to R204, Tables 6.1 to 6.8, 6.11, 7.1, 7.3, 7.4, 7.7): the decoder that the
load checks use, and an encoder written from the same tables. Last, the 64 B entries of the command ring
(Tables 14.3 and 14.5), both ways.
-/

namespace Sys2Proof

/-- The table of operations and events gives its rows no bits, so no word spells a command. -/
def decodeTableWord (_nbits _w : Nat) : Option Instr := none

/-! ### Codes -/

/-- Type codes (Table 6.13). -/
def typeCode : ElemType → Nat
  | .fp32 => 0 | .bf16 => 1 | .fp16 => 2 | .e4m3 => 3 | .e5m2 => 4 | .mxfp8 => 5 | .mxfp6 => 6
  | .mxfp4 => 7 | .int8 => 8 | .int16 => 9 | .int32 => 10

def typeOfCode (n : Nat) : Option ElemType :=
  match n with
  | 0 => some .fp32 | 1 => some .bf16 | 2 => some .fp16 | 3 => some .e4m3 | 4 => some .e5m2
  | 5 => some .mxfp8 | 6 => some .mxfp6 | 7 => some .mxfp4 | 8 => some .int8 | 9 => some .int16
  | 10 => some .int32 | _ => none

/-- Firing conditions (Table 3.1). -/
def fireCode : Fire → Nat
  | .none => 0 | .inp => 1 | .out => 2 | .inout => 3 | .steer => 4

def fireOfCode (n : Nat) : Option Fire :=
  match n with
  | 0 => some .none | 1 => some .inp | 2 => some .out | 3 => some .inout | 4 => some .steer | _ => none

/-- The SHP field (Table 6.3). -/
def shpCode : Shp → Nat
  | .planned => 0
  | .reg k => k.toNat + 1

def shpOfCode (n : Nat) : Option Shp :=
  if n = 0 then some .planned else if n ≤ 8 then some (.reg (BitVec.ofNat 3 (n - 1))) else none

/-- Address spaces (Table 6.5). -/
def spaceCode : Space → Nat
  | .scratch => 0 | .ownLoft => 1 | .loft => 2 | .unified => 3

def spaceOfCode (n : Nat) : Space :=
  match n with
  | 0 => .scratch | 1 => .ownLoft | 2 => .loft | _ => .unified

def condCode : BrCond → Nat
  | .always => 0 | .pollSet => 1 | .pollClear => 2

def condOfCode (n : Nat) : Option BrCond :=
  match n with
  | 0 => some .always | 1 => some .pollSet | 2 => some .pollClear | _ => none

def srcCode : UpdSrc → Nat
  | .valley => 0 | .scratch => 1 | .hbm => 2

def srcOfCode (n : Nat) : Option UpdSrc :=
  match n with
  | 0 => some .valley | 1 => some .scratch | 2 => some .hbm | _ => none

/-- Operand specifiers (Table 7.5). -/
def opndCode : VOpnd → Nat
  | .none => 0
  | .imm => 1
  | .stream ag => 16 + ag.toNat
  | .pass k => 32 + k.toNat
  | .scalar ag => 48 + ag.toNat

def opndOfCode (n : Nat) : Option VOpnd :=
  let lo := n % 16
  match n / 16 with
  | 0 => if lo = 0 then some .none else if lo = 1 then some .imm else none
  | 1 => some (.stream (BitVec.ofNat 4 lo))
  | 2 => some (.pass (BitVec.ofNat 2 lo))
  | _ => some (.scalar (BitVec.ofNat 4 lo))

def destCode : VDest → Nat
  | .stream => 0 | .pass => 1 | .none => 2

def destOfCode (n : Nat) : Option VDest :=
  match n with
  | 0 => some .stream | 1 => some .pass | 2 => some .none | _ => none

/-! ### Fields of a word -/

/-- The `n`-bit field of a word from bit `lo` up. -/
def fieldAt (w lo n : Nat) : Nat := w / 2 ^ lo % 2 ^ n

def bitsAt (w lo n : Nat) : BitVec n := BitVec.ofNat n (w / 2 ^ lo)

def bitAt (w lo : Nat) : Bool := w / 2 ^ lo % 2 == 1

def bit (b : Bool) : Nat := if b then 1 else 0

/-! ### Decoding -/

/-- The common frame (Table 6.1). -/
def frameOf (w : Nat) : Option Frame :=
  match fireOfCode (fieldAt w 113 3) with
  | none => none
  | some f => some { fire := f, chain := bitAt w 112, cspar := bitsAt w 96 16 }

def loopOf (w : Nat) : Option LoopOps :=
  match shpOfCode (fieldAt w 79 4) with
  | none => none
  | some s => some { lc := bitsAt w 93 3, endIdx := bitsAt w 83 10, shp := s, count := bitsAt w 55 24 }

def agSetOf (w : Nat) : AgSetOps :=
  { ag := bitsAt w 92 4, space := spaceOfCode (fieldAt w 90 2), base := bitsAt w 44 43, limit := bitsAt w 1 43 }

def agStrOf (w : Nat) : AgStrOps :=
  { ag := bitsAt w 92 4, pair := bitsAt w 90 2, lc := bitsAt w 87 3, stride := bitsAt w 47 40 }

def setShOf (w : Nat) : SetShOps :=
  { sh := bitsAt w 93 3, src := bitAt w 92, value := bitsAt w 60 32, ag := bitsAt w 56 4 }

def pollOf (w : Nat) : PollOps :=
  { spar := bitsAt w 80 16, v := bitsAt w 48 32, wr := bitAt w 47, ag := bitsAt w 43 4 }

def steerOf (w : Nat) : Option SteerOps :=
  match shpOfCode (fieldAt w 46 4) with
  | none => none
  | some s =>
    if fieldAt w 92 2 = 0 then none
    else some { stu := bitsAt w 94 2, n := bitsAt w 92 2, q0 := bitsAt w 89 3, q1 := bitsAt w 86 3
                q2 := bitsAt w 83 3, q3 := bitsAt w 80 3, cq := bitsAt w 77 3, xq := bitsAt w 74 3
                steps := bitsAt w 50 24, shp := s, shw := bitAt w 45, shwi := bitsAt w 42 3 }

def drainOf (w : Nat) : Option DrainOps :=
  match shpOfCode (fieldAt w 65 4) with
  | none => none
  | some s => some { iq := bitsAt w 93 3, count := bitsAt w 69 24, shp := s, need := bitsAt w 56 9 }

def streamOf (w : Nat) : Option StreamOps :=
  match shpOfCode (fieldAt w 71 4), typeOfCode (fieldAt w 67 4) with
  | some s, some t =>
    some { sag := bitsAt w 92 4, dag := bitsAt w 88 4, sq := bitAt w 87, dq := bitAt w 86, qi := bitsAt w 83 3
           desc := bitsAt w 75 8, shp := s, dtype := t, rnd := bitAt w 66, sat := bitAt w 65
           iag := bitsAt w 61 4 }
  | _, _ => none

def updOf (w : Nat) : Option UpdOps :=
  match srcOfCode (fieldAt w 66 2), shpOfCode (fieldAt w 45 4) with
  | some c, some s =>
    some { group := bitsAt w 88 8, shard := bitsAt w 68 20, src := c, vt0 := bitsAt w 60 6, vtn := bitsAt w 53 7
           sag := bitsAt w 49 4, shp := s }
  | _, _ => none

def collOf (w : Nat) : Option CollOps :=
  match shpOfCode (fieldAt w 74 4) with
  | none => none
  | some s => some { cdesc := bitsAt w 86 10, sag := bitsAt w 82 4, dag := bitsAt w 78 4, shp := s
                     rspar := bitsAt w 58 16, flag := bitAt w 57 }

def tensorOf (w : Nat) : Option TensorOps :=
  match typeOfCode (fieldAt w 72 4), typeOfCode (fieldAt w 68 4), typeOfCode (fieldAt w 64 4),
      shpOfCode (fieldAt w 49 4) with
  | some a, some b, some d, some s =>
    some { aag := bitsAt w 92 4, bag := bitsAt w 88 4, dag := bitsAt w 84 4, td := bitsAt w 76 8
           atype := a, btype := b, dtype := d, auns := bitAt w 63, buns := bitAt w 62, ws := bitAt w 61
           buf := bitAt w 60, drn := bitAt w 59, dq := bitAt w 58, qi := bitsAt w 55 3, rnd := bitAt w 54
           sat := bitAt w 53, shp := s, vt := bitsAt w 43 6, clr := bitAt w 42 }
  | _, _, _, _ => none

def vectorOf (w : Nat) : Option VectorOps :=
  match opndOfCode (fieldAt w 90 6), opndOfCode (fieldAt w 84 6), opndOfCode (fieldAt w 78 6),
      destOfCode (fieldAt w 76 2), shpOfCode (fieldAt w 53 4) with
  | some a, some b, some c, some k, some s =>
    match typeOfCode (fieldAt w 68 4), typeOfCode (fieldAt w 64 4), typeOfCode (fieldAt w 60 4) with
    | some ta, some tb, some td =>
      some { opa := a, opb := b, opc := c, dk := k, dst := bitsAt w 72 4, atype := ta, btype := tb, dtype := td
             bf := bitAt w 59, rnd := bitAt w 58, sat := bitAt w 57, shp := s, count := bitsAt w 33 20
             usgn := bitAt w 32, imm := bitsAt w 0 32 }
    | _, _, _ => none
  | _, _, _, _, _ => none

def rowOf (w : Nat) : Option RowOps :=
  match typeOfCode (fieldAt w 71 4), typeOfCode (fieldAt w 67 4), typeOfCode (fieldAt w 63 4),
      shpOfCode (fieldAt w 57 4) with
  | some x, some p, some o, some s =>
    some { xag := bitsAt w 92 4, dyag := bitsAt w 88 4, gag := bitsAt w 84 4, oag := bitsAt w 80 4
           pag := bitsAt w 76 4, pacc := bitAt w 75, xtype := x, ptype := p, otype := o, rnd := bitAt w 62
           sat := bitAt w 61, shp := s, base := bitsAt w 43 14, td := bitsAt w 35 8, imm := bitsAt w 0 32 }
  | _, _, _, _ => none

/-- Control, queue and issue instructions by MAJOR and MINOR (Table 6.2). -/
def decodeControl (r : RafterId) (f : Frame) (w major minor : Nat) : Option Instr :=
  match major, minor with
  | 0x00, 0 => some (.nop r f)
  | 0x01, 0 => (loopOf w).map (.loop r f)
  | 0x02, 0 => (condOfCode (fieldAt w 94 2)).map (fun c => .br r f c (bitsAt w 84 10))
  | 0x03, 0 => some (.slot r f)
  | 0x04, 0 => some (.hip r f (bitsAt w 88 8))
  | 0x05, 0 => some (.halt r f (bitsAt w 80 16))
  | 0x06, 0 => some (.agSet r f (agSetOf w))
  | 0x07, 0 => some (.agStr r f (agStrOf w))
  | 0x08, 0 => some (.setSh r f (setShOf w) .pass)
  | 0x10, 0 => some (.waitGe r f (bitsAt w 80 16) (bitsAt w 48 32))
  | 0x10, 1 => some (.waitEq r f (bitsAt w 80 16) (bitsAt w 48 32))
  | 0x10, 2 => some (.waitDec r f (bitsAt w 80 16) (bitsAt w 48 32))
  | 0x11, 0 => some (.signalAdd r f (bitsAt w 80 16) (bitsAt w 48 32))
  | 0x11, 1 => some (.signalSet r f (bitsAt w 80 16) (bitsAt w 48 32))
  | 0x12, 0 => some (.arrive r f (bitsAt w 80 16) (bitsAt w 64 16))
  | 0x12, 1 => some (.arriveW r f (bitsAt w 80 16) (bitsAt w 64 16))
  | 0x13, 0 => some (.pollGe r f (pollOf w))
  | 0x13, 1 => some (.pollEq r f (pollOf w))
  | 0x18, 0 => (steerOf w).map (.steerSelect r f)
  | 0x18, 1 => (steerOf w).map (.steerRoute r f)
  | 0x19, 0 => (steerOf w).map (.join r f)
  | 0x1A, 0 => (steerOf w).map (.fork r f)
  | 0x1B, 0 => (drainOf w).map (.drain r f)
  | 0x20, 0 => (streamOf w).map (fun o => .load r f o .pass)
  | 0x21, 0 => (streamOf w).map (fun o => .store r f o .pass)
  | 0x22, 0 => (streamOf w).map (fun o => .xload r f o .pass)
  | 0x23, 0 => (streamOf w).map (fun o => .gather r f o .pass)
  | 0x24, 0 => (streamOf w).map (fun o => .scatter r f o .pass)
  | 0x24, 1 => (streamOf w).map (fun o => .scatterAdd r f o .pass)
  | 0x25, 0 => some (.prefetch r f (bitsAt w 92 4) (bitsAt w 84 8))
  | 0x3C, 0 => (updOf w).map (fun o => .upd r f o .pass)
  | 0x3D, 0 => (collOf w).map (fun o => .collRs r f o .pass)
  | 0x3D, 1 => (collOf w).map (fun o => .collAg r f o .pass)
  | 0x3D, 2 => (collOf w).map (fun o => .collAr r f o .pass)
  | 0x3D, 3 => (collOf w).map (.collFr r f)
  | 0x3E, 0 => some (.crsEnd r f)
  | 0x3E, 1 => some (.crsEndD r f)
  | _, _ => none

/-- Vector operations by MAJOR and MINOR (Table 7.1). -/
def vectorCtor (r : RafterId) (f : Frame) (major minor : Nat) : Option (VectorOps → Instr) :=
  match major, minor with
  | 0x30, 0 => some (fun o => .vAdd r f o .pass)
  | 0x30, 1 => some (fun o => .vSub r f o .pass)
  | 0x30, 2 => some (fun o => .vMul r f o .pass)
  | 0x30, 3 => some (fun o => .vMin r f o .pass)
  | 0x30, 4 => some (fun o => .vMax r f o .pass)
  | 0x31, 0 => some (fun o => .vFma r f o .pass)
  | 0x32, 0 => some (fun o => .vAbs r f o .pass)
  | 0x32, 1 => some (fun o => .vNeg r f o .pass)
  | 0x32, 2 => some (fun o => .vCvt r f o .pass)
  | 0x33, 0 => some (fun o => .vCmpLt r f o .pass)
  | 0x33, 1 => some (fun o => .vCmpLe r f o .pass)
  | 0x33, 2 => some (fun o => .vCmpEq r f o .pass)
  | 0x33, 3 => some (fun o => .vSel r f o .pass)
  | 0x34, 0 => some (fun o => .vExp2 r f o .pass)
  | 0x34, 1 => some (fun o => .vLog2 r f o .pass)
  | 0x34, 2 => some (fun o => .vRcp r f o .pass)
  | 0x34, 3 => some (fun o => .vSqrt r f o .pass)
  | 0x34, 4 => some (fun o => .vRsqrt r f o .pass)
  | 0x34, 5 => some (fun o => .vTanh r f o .pass)
  | 0x35, 0 => some (fun o => .vQmx r f o .pass)
  | 0x36, 0 => some (fun o => .vRedSum r f o .pass)
  | 0x36, 1 => some (fun o => .vRedMax r f o .pass)
  | 0x36, 2 => some (fun o => .vFoldSum r f o .pass)
  | 0x36, 3 => some (fun o => .vFoldMax r f o .pass)
  | _, _ => none

/-- Tensor, vector and row instructions (Table 7.1). -/
def decodeCompute (r : RafterId) (f : Frame) (w major minor : Nat) : Option Instr :=
  match major, minor with
  | 0x28, 0 => (tensorOf w).map (fun o => .tld r f o .pass)
  | 0x29, 0 => (tensorOf w).map (fun o => .tmm r f o .pass)
  | 0x2A, 0 => (tensorOf w).map (fun o => .tmma r f o .pass)
  | 0x2B, 0 => (tensorOf w).map (fun o => .tmmv r f o .pass)
  | 0x2C, 0 => some (.tchk r f (bitAt w 60) .pass)
  | 0x37, 0 => some (.vChk r f .pass)
  | 0x38, 0 => (rowOf w).map (fun o => .rnLn r f o .pass)
  | 0x38, 1 => (rowOf w).map (fun o => .rnRms r f o .pass)
  | 0x38, 2 => (rowOf w).map (fun o => .rnSmx r f o .pass)
  | 0x39, 0 => (rowOf w).map (fun o => .rnLnB r f o .pass)
  | 0x39, 1 => (rowOf w).map (fun o => .rnRmsB r f o .pass)
  | 0x39, 2 => (rowOf w).map (fun o => .rnSmxB r f o .pass)
  | 0x3A, 0 => (rowOf w).map (fun o => .rnSpill r f o .pass)
  | 0x3A, 1 => (rowOf w).map (fun o => .rnFill r f o .pass)
  | 0x3B, 0 => some (.rnChk r f .pass)
  | _, _ =>
    match vectorCtor r f major minor, vectorOf w with
    | some c, some o => some (c o)
    | _, _ => none

/-- The instruction of rafter `r` that a 128-bit word spells, none for a reserved value. -/
def decodeOcnen (r : RafterId) (w : Nat) : Option Instr :=
  match frameOf w with
  | none => none
  | some f =>
    if fieldAt w 122 6 < 0x28 ∨ 0x3C ≤ fieldAt w 122 6 then
      decodeControl r f w (fieldAt w 122 6) (fieldAt w 116 6)
    else decodeCompute r f w (fieldAt w 122 6) (fieldAt w 116 6)

/-! ### Encoding -/

def loopBits (o : LoopOps) : Nat :=
  o.lc.toNat * 2 ^ 93 + o.endIdx.toNat * 2 ^ 83 + shpCode o.shp * 2 ^ 79 + o.count.toNat * 2 ^ 55

def agSetBits (o : AgSetOps) : Nat :=
  o.ag.toNat * 2 ^ 92 + spaceCode o.space * 2 ^ 90 + o.base.toNat * 2 ^ 44 + o.limit.toNat * 2 ^ 1

def agStrBits (o : AgStrOps) : Nat :=
  o.ag.toNat * 2 ^ 92 + o.pair.toNat * 2 ^ 90 + o.lc.toNat * 2 ^ 87 + o.stride.toNat * 2 ^ 47

def setShBits (o : SetShOps) : Nat :=
  o.sh.toNat * 2 ^ 93 + bit o.src * 2 ^ 92 + o.value.toNat * 2 ^ 60 + o.ag.toNat * 2 ^ 56

def pollBits (o : PollOps) : Nat :=
  o.spar.toNat * 2 ^ 80 + o.v.toNat * 2 ^ 48 + bit o.wr * 2 ^ 47 + o.ag.toNat * 2 ^ 43

def steerBits (o : SteerOps) : Nat :=
  o.stu.toNat * 2 ^ 94 + o.n.toNat * 2 ^ 92 + o.q0.toNat * 2 ^ 89 + o.q1.toNat * 2 ^ 86 + o.q2.toNat * 2 ^ 83 +
  o.q3.toNat * 2 ^ 80 + o.cq.toNat * 2 ^ 77 + o.xq.toNat * 2 ^ 74 + o.steps.toNat * 2 ^ 50 +
  shpCode o.shp * 2 ^ 46 + bit o.shw * 2 ^ 45 + o.shwi.toNat * 2 ^ 42

def drainBits (o : DrainOps) : Nat :=
  o.iq.toNat * 2 ^ 93 + o.count.toNat * 2 ^ 69 + shpCode o.shp * 2 ^ 65 + o.need.toNat * 2 ^ 56

def streamBits (o : StreamOps) : Nat :=
  o.sag.toNat * 2 ^ 92 + o.dag.toNat * 2 ^ 88 + bit o.sq * 2 ^ 87 + bit o.dq * 2 ^ 86 + o.qi.toNat * 2 ^ 83 +
  o.desc.toNat * 2 ^ 75 + shpCode o.shp * 2 ^ 71 + typeCode o.dtype * 2 ^ 67 + bit o.rnd * 2 ^ 66 +
  bit o.sat * 2 ^ 65 + o.iag.toNat * 2 ^ 61

def updBits (o : UpdOps) : Nat :=
  o.group.toNat * 2 ^ 88 + o.shard.toNat * 2 ^ 68 + srcCode o.src * 2 ^ 66 + o.vt0.toNat * 2 ^ 60 +
  o.vtn.toNat * 2 ^ 53 + o.sag.toNat * 2 ^ 49 + shpCode o.shp * 2 ^ 45

def collBits (o : CollOps) : Nat :=
  o.cdesc.toNat * 2 ^ 86 + o.sag.toNat * 2 ^ 82 + o.dag.toNat * 2 ^ 78 + shpCode o.shp * 2 ^ 74 +
  o.rspar.toNat * 2 ^ 58 + bit o.flag * 2 ^ 57

def tensorBits (o : TensorOps) : Nat :=
  o.aag.toNat * 2 ^ 92 + o.bag.toNat * 2 ^ 88 + o.dag.toNat * 2 ^ 84 + o.td.toNat * 2 ^ 76 +
  typeCode o.atype * 2 ^ 72 + typeCode o.btype * 2 ^ 68 + typeCode o.dtype * 2 ^ 64 + bit o.auns * 2 ^ 63 +
  bit o.buns * 2 ^ 62 + bit o.ws * 2 ^ 61 + bit o.buf * 2 ^ 60 + bit o.drn * 2 ^ 59 + bit o.dq * 2 ^ 58 +
  o.qi.toNat * 2 ^ 55 + bit o.rnd * 2 ^ 54 + bit o.sat * 2 ^ 53 + shpCode o.shp * 2 ^ 49 +
  o.vt.toNat * 2 ^ 43 + bit o.clr * 2 ^ 42

def vectorBits (o : VectorOps) : Nat :=
  opndCode o.opa * 2 ^ 90 + opndCode o.opb * 2 ^ 84 + opndCode o.opc * 2 ^ 78 + destCode o.dk * 2 ^ 76 +
  o.dst.toNat * 2 ^ 72 + typeCode o.atype * 2 ^ 68 + typeCode o.btype * 2 ^ 64 + typeCode o.dtype * 2 ^ 60 +
  bit o.bf * 2 ^ 59 + bit o.rnd * 2 ^ 58 + bit o.sat * 2 ^ 57 + shpCode o.shp * 2 ^ 53 +
  o.count.toNat * 2 ^ 33 + bit o.usgn * 2 ^ 32 + o.imm.toNat

def rowBits (o : RowOps) : Nat :=
  o.xag.toNat * 2 ^ 92 + o.dyag.toNat * 2 ^ 88 + o.gag.toNat * 2 ^ 84 + o.oag.toNat * 2 ^ 80 +
  o.pag.toNat * 2 ^ 76 + bit o.pacc * 2 ^ 75 + typeCode o.xtype * 2 ^ 71 + typeCode o.ptype * 2 ^ 67 +
  typeCode o.otype * 2 ^ 63 + bit o.rnd * 2 ^ 62 + bit o.sat * 2 ^ 61 + shpCode o.shp * 2 ^ 57 +
  o.base.toNat * 2 ^ 43 + o.td.toNat * 2 ^ 35 + o.imm.toNat

def sparBits (spar : SparId) (v : W32) : Nat := spar.toNat * 2 ^ 80 + v.toNat * 2 ^ 48

def arriveBits (spar : SparId) (t : W16) : Nat := spar.toNat * 2 ^ 80 + t.toNat * 2 ^ 64

/-- A word from MAJOR, MINOR, the frame and bits [95:0]. -/
def wordOf (major minor : Nat) (f : Frame) (body : Nat) : Nat :=
  major * 2 ^ 122 + minor * 2 ^ 116 + fireCode f.fire * 2 ^ 113 + bit f.chain * 2 ^ 112 +
  f.cspar.toNat * 2 ^ 96 + body

/-- The word of an instruction; none for a command that is no instruction. -/
def encodeOcnen : Instr → Option Nat
  | .nop _ f => some (wordOf 0x00 0 f 0)
  | .loop _ f o => some (wordOf 0x01 0 f (loopBits o))
  | .br _ f c t => some (wordOf 0x02 0 f (condCode c * 2 ^ 94 + t.toNat * 2 ^ 84))
  | .slot _ f => some (wordOf 0x03 0 f 0)
  | .hip _ f m => some (wordOf 0x04 0 f (m.toNat * 2 ^ 88))
  | .halt _ f c => some (wordOf 0x05 0 f (c.toNat * 2 ^ 80))
  | .agSet _ f o => some (wordOf 0x06 0 f (agSetBits o))
  | .agStr _ f o => some (wordOf 0x07 0 f (agStrBits o))
  | .setSh _ f o _ => some (wordOf 0x08 0 f (setShBits o))
  | .waitGe _ f s v => some (wordOf 0x10 0 f (sparBits s v))
  | .waitEq _ f s v => some (wordOf 0x10 1 f (sparBits s v))
  | .waitDec _ f s v => some (wordOf 0x10 2 f (sparBits s v))
  | .signalAdd _ f s v => some (wordOf 0x11 0 f (sparBits s v))
  | .signalSet _ f s v => some (wordOf 0x11 1 f (sparBits s v))
  | .arrive _ f s t => some (wordOf 0x12 0 f (arriveBits s t))
  | .arriveW _ f s t => some (wordOf 0x12 1 f (arriveBits s t))
  | .pollGe _ f o => some (wordOf 0x13 0 f (pollBits o))
  | .pollEq _ f o => some (wordOf 0x13 1 f (pollBits o))
  | .steerSelect _ f o => some (wordOf 0x18 0 f (steerBits o))
  | .steerRoute _ f o => some (wordOf 0x18 1 f (steerBits o))
  | .join _ f o => some (wordOf 0x19 0 f (steerBits o))
  | .fork _ f o => some (wordOf 0x1A 0 f (steerBits o))
  | .drain _ f o => some (wordOf 0x1B 0 f (drainBits o))
  | .load _ f o _ => some (wordOf 0x20 0 f (streamBits o))
  | .store _ f o _ => some (wordOf 0x21 0 f (streamBits o))
  | .xload _ f o _ => some (wordOf 0x22 0 f (streamBits o))
  | .gather _ f o _ => some (wordOf 0x23 0 f (streamBits o))
  | .scatter _ f o _ => some (wordOf 0x24 0 f (streamBits o))
  | .scatterAdd _ f o _ => some (wordOf 0x24 1 f (streamBits o))
  | .prefetch _ f a n => some (wordOf 0x25 0 f (a.toNat * 2 ^ 92 + n.toNat * 2 ^ 84))
  | .tld _ f o _ => some (wordOf 0x28 0 f (tensorBits o))
  | .tmm _ f o _ => some (wordOf 0x29 0 f (tensorBits o))
  | .tmma _ f o _ => some (wordOf 0x2A 0 f (tensorBits o))
  | .tmmv _ f o _ => some (wordOf 0x2B 0 f (tensorBits o))
  | .tchk _ f b _ => some (wordOf 0x2C 0 f (bit b * 2 ^ 60))
  | .vAdd _ f o _ => some (wordOf 0x30 0 f (vectorBits o))
  | .vSub _ f o _ => some (wordOf 0x30 1 f (vectorBits o))
  | .vMul _ f o _ => some (wordOf 0x30 2 f (vectorBits o))
  | .vMin _ f o _ => some (wordOf 0x30 3 f (vectorBits o))
  | .vMax _ f o _ => some (wordOf 0x30 4 f (vectorBits o))
  | .vFma _ f o _ => some (wordOf 0x31 0 f (vectorBits o))
  | .vAbs _ f o _ => some (wordOf 0x32 0 f (vectorBits o))
  | .vNeg _ f o _ => some (wordOf 0x32 1 f (vectorBits o))
  | .vCvt _ f o _ => some (wordOf 0x32 2 f (vectorBits o))
  | .vCmpLt _ f o _ => some (wordOf 0x33 0 f (vectorBits o))
  | .vCmpLe _ f o _ => some (wordOf 0x33 1 f (vectorBits o))
  | .vCmpEq _ f o _ => some (wordOf 0x33 2 f (vectorBits o))
  | .vSel _ f o _ => some (wordOf 0x33 3 f (vectorBits o))
  | .vExp2 _ f o _ => some (wordOf 0x34 0 f (vectorBits o))
  | .vLog2 _ f o _ => some (wordOf 0x34 1 f (vectorBits o))
  | .vRcp _ f o _ => some (wordOf 0x34 2 f (vectorBits o))
  | .vSqrt _ f o _ => some (wordOf 0x34 3 f (vectorBits o))
  | .vRsqrt _ f o _ => some (wordOf 0x34 4 f (vectorBits o))
  | .vTanh _ f o _ => some (wordOf 0x34 5 f (vectorBits o))
  | .vQmx _ f o _ => some (wordOf 0x35 0 f (vectorBits o))
  | .vRedSum _ f o _ => some (wordOf 0x36 0 f (vectorBits o))
  | .vRedMax _ f o _ => some (wordOf 0x36 1 f (vectorBits o))
  | .vFoldSum _ f o _ => some (wordOf 0x36 2 f (vectorBits o))
  | .vFoldMax _ f o _ => some (wordOf 0x36 3 f (vectorBits o))
  | .vChk _ f _ => some (wordOf 0x37 0 f (2 * 2 ^ 76))
  | .rnLn _ f o _ => some (wordOf 0x38 0 f (rowBits o))
  | .rnRms _ f o _ => some (wordOf 0x38 1 f (rowBits o))
  | .rnSmx _ f o _ => some (wordOf 0x38 2 f (rowBits o))
  | .rnLnB _ f o _ => some (wordOf 0x39 0 f (rowBits o))
  | .rnRmsB _ f o _ => some (wordOf 0x39 1 f (rowBits o))
  | .rnSmxB _ f o _ => some (wordOf 0x39 2 f (rowBits o))
  | .rnSpill _ f o _ => some (wordOf 0x3A 0 f (rowBits o))
  | .rnFill _ f o _ => some (wordOf 0x3A 1 f (rowBits o))
  | .rnChk _ f _ => some (wordOf 0x3B 0 f 0)
  | .upd _ f o _ => some (wordOf 0x3C 0 f (updBits o))
  | .collRs _ f o _ => some (wordOf 0x3D 0 f (collBits o))
  | .collAg _ f o _ => some (wordOf 0x3D 1 f (collBits o))
  | .collAr _ f o _ => some (wordOf 0x3D 2 f (collBits o))
  | .collFr _ f o => some (wordOf 0x3D 3 f (collBits o))
  | .crsEnd _ f => some (wordOf 0x3E 0 f 0)
  | .crsEndD _ f => some (wordOf 0x3E 1 f 0)
  | _ => none

/-! ### Command-ring entries (Tables 14.3 and 14.5) -/

/-- Operands of the extent-range commands. -/
def tierBits (o : TierOps) : Nat := o.first.toNat * 2 ^ 64 + o.count.toNat * 2 ^ 96

def tierAllocBits (o : TierAllocOps) : Nat :=
  o.first.toNat * 2 ^ 64 + o.count.toNat * 2 ^ 96 + bit o.ro * 2 ^ 128 + bit o.pin * 2 ^ 129 +
  o.width.toNat * 2 ^ 130 + bit o.port * 2 ^ 132 + o.stack.toNat * 2 ^ 136 + o.owner.toNat * 2 ^ 144

def xferBits (o : LinkXferOps) : Nat :=
  o.first.toNat * 2 ^ 64 + o.count.toNat * 2 ^ 96 + o.content.toNat * 2 ^ 128 + bit o.byRank * 2 ^ 136 +
  o.rank.toNat * 2 ^ 144 + o.addr.toNat * 2 ^ 192

/-- An entry without its PHASE. -/
def entryOf (opc : Nat) (tag : W16) (ops : Nat) : Nat := opc + tag.toNat * 2 ^ 16 + ops

/-- The entry of a host command, PHASE 0; none for what is no host command. -/
def encodeCmd : Instr → Option Nat
  | .cmdNop t => some (entryOf 0x00 t 0)
  | .progLoad t a n r => some (entryOf 0x01 t (a.toNat * 2 ^ 64 + n.toNat * 2 ^ 128 + bit r * 2 ^ 160))
  | .progStart t c => some (entryOf 0x02 t (c.toNat * 2 ^ 64))
  | .progStop t => some (entryOf 0x03 t 0)
  | .learnStop t => some (entryOf 0x04 t 0)
  | .learnStart t => some (entryOf 0x05 t 0)
  | .sessionOpen t n i o => some (entryOf 0x06 t (n.toNat * 2 ^ 64 + i.toNat * 2 ^ 72 + o.toNat * 2 ^ 80))
  | .sessionClose t n => some (entryOf 0x07 t (n.toNat * 2 ^ 64))
  | .winBind t w v a d =>
    some (entryOf 0x08 t (w.toNat * 2 ^ 64 + v.toNat * 2 ^ 72 + a.toNat * 2 ^ 128 + d.toNat * 2 ^ 192))
  | .publishPermit t p st k => some (entryOf 0x09 t (p.toNat * 2 ^ 64 + bit st * 2 ^ 72 + k.toNat * 2 ^ 128))
  | .publishRevoke t p => some (entryOf 0x0A t (p.toNat * 2 ^ 64))
  | .fence t r n b => some (entryOf 0x0B t (r.toNat * 2 ^ 64 + n.toNat * 2 ^ 160 + b.toNat * 2 ^ 168))
  | .tierAlloc o => some (entryOf 0x10 o.tag (tierAllocBits o))
  | .tierSeal o => some (entryOf 0x11 o.tag (tierBits o))
  | .tierPin o p => some (entryOf 0x12 o.tag (tierBits o + bit p * 2 ^ 129))
  | .tierFree o => some (entryOf 0x13 o.tag (tierBits o))
  | .linkExport o => some (entryOf 0x18 o.tag (xferBits o))
  | .linkImport o => some (entryOf 0x19 o.tag (xferBits o))
  | .portService t c p s => some (entryOf 0x1A t (bit c * 2 ^ 64 + p.toNat * 2 ^ 72 + bit s * 2 ^ 80))
  | .ctrGrant t m => some (entryOf 0x1C t (m.toNat * 2 ^ 64))
  | .ctrRevoke t m => some (entryOf 0x1D t (m.toNat * 2 ^ 64))
  | .pwrTol t v => some (entryOf 0x1E t (v.toNat * 2 ^ 64))
  | _ => none

def tierOf (w : Nat) : TierOps := { tag := bitsAt w 16 16, first := bitsAt w 64 32, count := bitsAt w 96 32 }

def tierAllocOf (w : Nat) : TierAllocOps :=
  { tag := bitsAt w 16 16, first := bitsAt w 64 32, count := bitsAt w 96 32, ro := bitAt w 128, pin := bitAt w 129
    width := bitsAt w 130 2, port := bitAt w 132, stack := bitsAt w 136 8, owner := bitsAt w 144 8 }

def xferOf (w : Nat) : LinkXferOps :=
  { tag := bitsAt w 16 16, first := bitsAt w 64 32, count := bitsAt w 96 32, content := bitsAt w 128 4
    byRank := bitAt w 136, rank := bitsAt w 144 16, addr := bitsAt w 192 64 }

/-- The command of an entry, by its OPC; none for a reserved OPC. -/
def decodeCmd (w : Nat) : Option Instr :=
  let t : W16 := bitsAt w 16 16
  match fieldAt w 0 8 with
  | 0x00 => some (.cmdNop t)
  | 0x01 => some (.progLoad t (bitsAt w 64 64) (bitsAt w 128 32) (bitAt w 160))
  | 0x02 => some (.progStart t (bitsAt w 64 64))
  | 0x03 => some (.progStop t)
  | 0x04 => some (.learnStop t)
  | 0x05 => some (.learnStart t)
  | 0x06 => some (.sessionOpen t (bitsAt w 64 8) (bitsAt w 72 8) (bitsAt w 80 8))
  | 0x07 => some (.sessionClose t (bitsAt w 64 8))
  | 0x08 => some (.winBind t (bitsAt w 64 8) (bitsAt w 72 6) (bitsAt w 128 64) (bitsAt w 192 32))
  | 0x09 => some (.publishPermit t (bitsAt w 64 8) (bitAt w 72) (bitsAt w 128 64))
  | 0x0A => some (.publishRevoke t (bitsAt w 64 8))
  | 0x0B => some (.fence t (bitsAt w 64 96) (bitsAt w 160 8) (bitsAt w 168 2))
  | 0x10 => some (.tierAlloc (tierAllocOf w))
  | 0x11 => some (.tierSeal (tierOf w))
  | 0x12 => some (.tierPin (tierOf w) (bitAt w 129))
  | 0x13 => some (.tierFree (tierOf w))
  | 0x18 => some (.linkExport (xferOf w))
  | 0x19 => some (.linkImport (xferOf w))
  | 0x1A => some (.portService t (bitAt w 64) (bitsAt w 72 8) (bitAt w 80))
  | 0x1C => some (.ctrGrant t (bitsAt w 64 32))
  | 0x1D => some (.ctrRevoke t (bitsAt w 64 32))
  | 0x1E => some (.pwrTol t (bitsAt w 64 32))
  | _ => none

end Sys2Proof
end

