-- ==== Sys2Proof/Config.lean ====
section
/-!
DEFINITION. What an implementation or an outside standard fixes, and the free values of the model.
Every opaque constant here has no body: no proof can see what it is, so a claim about it holds for
every value.
-/

namespace Sys2Proof.Config

/-- Free values (R16, "not guaranteed"): the `n`-th value drawn, 64 bits wide and cut to the width of
the field that takes it. -/
opaque freeValue : Nat → W64

/-- The block scale byte of the padding rows and columns of an MX product, by tile descriptor: R261 gives their elements
and no scale. -/
opaque padScale : BitVec 512 → Byte

/-- SHA3-512 of FIPS 202, used by the security chapter. Its definition lies outside the spec. -/
opaque sha3 : List Byte → BitVec 512

/-- SHAKE256 of FIPS 202 with a 256-bit output. -/
opaque shake256 : List Byte → BitVec 256

/-- ML-DSA-87 verification of FIPS 204: public key hash, message, signature. -/
opaque mldsaVerify : BitVec 512 → List Byte → List Byte → Bool

/-- The device's own ML-DSA-87 signature over a message. -/
opaque deviceSign : List Byte → List Byte

/-- The device's ML-DSA-87 public identity key, by byte. -/
opaque identityKey : Nat → Byte

/-- SHA3-512 digests of the two Skelver root keys in ROM (R563). -/
opaque rootDigest : Nat → BitVec 512

/-- The fuse array's bytes with the identity seed read as zero, from the anti-rollback counters, the owner slots
programmed, those revoked, the roots revoked and the slots' digests (R569). -/
opaque fuseArray : List Nat → BitVec 4 → BitVec 4 → BitVec 2 → List (BitVec 512) → List Byte

/-- The identity certificate chain that the SPDM responder presents (R568). -/
opaque certificate : List Byte

/-- The random debug challenge drawn at the `n`-th power-up. -/
opaque debugChallenge : Nat → BitVec 256

/-- The instruction words and the descriptors 240 to 255 of the preconditioner routine that the ridge firmware
carries (R380); the spec does not print them. -/
opaque routineWord : Nat → W128
opaque routineDesc : Nat → BitVec 512

end Sys2Proof.Config
end

