-- ==== Sys2Proof/Machine/State.lean ====
section
/-!
DEFINITION. The state of the device as plain data, grouped by the chapter that owns each part, the
reasons a step can stop, and `State.reset`.
-/

namespace Sys2Proof.Machine

/-- Faults of the model. No command of this device stops the model with a fault: what the manual
calls a fault is an effect on the state. The one constructor stands for a name that no meaning uses. -/
inductive Fault where
  /-- Raised by nothing. Safe. -/
  | none
deriving DecidableEq, Repr

/-- Refusals of the model. -/
inductive Refusal where
  /-- Raised by an arm of `exec` that has no meaning yet. Safe. -/
  | notModelled (mnemonic : String)
deriving DecidableEq, Repr

/-- The outcome of a command. -/
abbrev Out (σ : Type) := Host.Outcome σ Fault Refusal

/-! ### Fuses and parts (chapters 0 and 16) -/

/-- Grades (Table 0.1). -/
inductive Grade where
  | w96 | w90 | w84
deriving DecidableEq, Repr

/-! ### Performance counters (chapter 17) -/

/-- A counter: its configuration, a configuration held for step 3 (R575), its value, OVF, and the upper bytes
that a 4 B read of the lower ones has latched (R576). -/
structure Ctr where
  cfg : W32
  held : Option W32
  val : BitVec 48
  ovf : Bool
  /-- the upper half of a pair that has stopped at its greatest value (R578) -/
  full : Bool
  latch : Option W32
deriving DecidableEq, Repr

def Ctr.reset : Ctr := { cfg := 0, held := none, val := 0, ovf := false, full := false, latch := none }

/-- The eight counters of a unit. -/
def Ctr.eight : List Ctr := List.replicate 8 Ctr.reset

/-! ### The rafter (chapters 3 to 8 and 10) -/

/-- A queue of a rafter. For an input queue: tokens admitted, next SEQ to take, credits outstanding,
the admission slot. For an output queue: tokens kept until acknowledged (the first `sent` of them have
been sent), next SEQ to stamp, credits held for each route. -/
structure Queue where
  tokens : List Token
  seq : W16
  /-- hip tokens of each route, by the route's PEER, PEERQ and SE, modulo 16 (Table 3.2) -/
  epochs : Table (BitVec 4)
  fired : BitVec 24
  admSlot : BitVec 3
  credits : Nat
  held : Table Nat
  sent : Nat
  /-- an output queue has received its hip token in the current slot (R116) -/
  hipSent : Bool
  /-- the hip token at the head has passed its check (R120) -/
  hipOk : Bool
  /-- a token refused at admission, by the SEQ of its resend, with each failing check's code and information (R102) -/
  refused : Option (W16 × List (Byte × W32))
  /-- tokens that the stream engine has still to send into an input queue -/
  feed : List Token
  /-- data tokens of the epoch that the stream engine took from this output queue (R607) -/
  taken : BitVec 24
deriving DecidableEq, Repr

def Queue.reset : Queue :=
  { tokens := [], seq := 0, epochs := [], fired := 0, admSlot := 0, credits := 0, held := [], sent := 0,
    hipSent := false, hipOk := false, refused := none, feed := [],
    taken := 0 }

/-- A steering instruction that waits for its unit: the mode, the operands, the run-time steps and its index. -/
structure StuWait where
  mode : BitVec 3
  ops : SteerOps
  left : Nat
  place : Nat
deriving DecidableEq, Repr

/-- A steering unit (R106): mode as RFT_STU.MODE, the instruction's operands and index, the steps left, the tokens
that the step in progress has forwarded (R232), and the instructions in its issue queue that wait for it to be
idle (R233). -/
structure Stu where
  mode : BitVec 3
  ops : SteerOps
  left : Nat
  place : Nat
  part : Nat
  later : List StuWait
deriving DecidableEq, Repr

def Stu.reset : Stu :=
  { mode := 0
    ops := { stu := 0, n := 0, q0 := 0, q1 := 0, q2 := 0, q3 := 0, cq := 0, xq := 0, steps := 0,
             shp := .planned, shw := false, shwi := 0 }
    left := 0, place := 0, part := 0, later := [] }

/-- An address generator (R95, R220): space, base, limit, four pairs of stride and loop counter. -/
structure Ag where
  space : Space
  base : BitVec 43
  limit : BitVec 43
  pairs : List (BitVec 40 × BitVec 3)
deriving DecidableEq, Repr

def Ag.reset : Ag :=
  { space := .scratch, base := 0, limit := 0, pairs := List.replicate 4 (0, 0) }

/-- A loop that has been entered (R212). -/
structure LoopFrame where
  lc : BitVec 3
  first : Nat
  last : Nat
  left : Nat
deriving DecidableEq, Repr

/-- What an issued instruction still waits for. -/
inductive Await where
  | none | hips | drain | reply | steps | stream | accept
  /-- TLD that writes the shadow register, and TCHK at work -/
  | loads | checks
  /-- SLOT, until the switch (R217) -/
  | switch
  /-- data tokens of a transfer that input queue `q` has still to admit (R237) -/
  | admits (q left : Nat)
  /-- a product whose buffer then holds, or whose drain then leaves the buffer empty (R144) -/
  | holds (b : Bool)
  | empties (b : Bool)
  /-- a chained vector instruction whose chain has not run (R174) -/
  | chain
deriving DecidableEq, Repr

/-- Vector operations (Table 5.1). -/
inductive VecOp where
  | add | sub | mul | fma | min | max | abs | neg | cvt | cmpLt | cmpLe | cmpEq | sel
  | exp2 | log2 | rcp | sqrt | rsqrt | tanh | qmx | redSum | redMax | foldSum | foldMax
deriving DecidableEq, Repr

/-- A vector operand as it was resolved at issue: a stream and a scalar by their addresses. -/
inductive VSrc where
  | none
  | imm
  | stream (addr saddr : Nat)
  | pass (k : Nat)
  | scalar (addr : Nat)
deriving DecidableEq, Repr

/-- Where a vector instruction writes. -/
inductive VDst where
  | stream (addr saddr : Nat)
  | pass (k : Nat)
deriving DecidableEq, Repr

/-- A vector instruction that has issued and waits for the rest of its chain (R174). -/
structure VStep where
  op : VecOp
  a : VSrc
  b : VSrc
  c : VSrc
  dst : VDst
  atype : ElemType
  btype : ElemType
  dtype : ElemType
  bf : Bool
  rnd : Bool
  sat : Bool
  usgn : Bool
  imm : W32
  count : Nat
deriving DecidableEq, Repr

/-- What a rafter's outstanding spar request is for (R225, R229, R231). -/
inductive SparPurpose where
  | wait
  | pollGe (v : W32) (wr : Option Nat)
  | pollEq (v : W32) (wr : Option Nat)
deriving DecidableEq, Repr

/-- Where a product puts its result (R137, R265). -/
inductive ProductKind where
  | tmm | tmma | tmmv
deriving DecidableEq, Repr

/-- What an instruction that waits in an issue queue has still to begin (R89, R204). Of the sequencer: a shape register
to load from a scratchpad word, a spar message with what its reply is for, hip tokens, a count of tokens to drain,
SLOT, CRS.END.D, and CRS.END or, with a code, HALT. Of the tensor array: TLD and products with their run-time
extents and their addresses at issue (and how many earlier UPDs have still to read the product's tile, R149), and TCHK. Of the issue port: UPD with its count and source address, and COLL with its operation (3 for COLL.FR), count and
addresses. -/
inductive UnitJob where
  | setSh (k : BitVec 3) (addr : Nat) (hw : UnitCheck)
  | send (spar : SparId) (op : SparOp) (t : W16) (v : W32) (ask : Option SparPurpose)
  | hip (mask : Byte)
  | drain (q : BitVec 3) (n : Nat)
  | slot
  | endD
  | finish (halt : Option W16)
  | tld (o : TensorOps) (hw : UnitCheck) (n k : Nat) (b : Int)
  | product (kind : ProductKind) (o : TensorOps) (hw : UnitCheck) (m n k : Nat) (a b d : Int) (held : Nat)
  | tchk (buf : Bool) (hw : UnitCheck)
  | upd (o : UpdOps) (hw : UnitCheck) (count : Nat) (src : Int)
  | coll (op : Nat) (o : CollOps) (hw : UnitCheck) (n : Nat) (src dst : Int)
deriving DecidableEq, Repr

/-- An instruction that has issued to a unit and not completed (R205). `done` says its operation has
finished; `acks` write acknowledgements are still awaited under the transaction tag `tag` (R242). `job` is what
it has still to begin, `place` its index in the slot. -/
structure InFlight where
  cspar : SparId
  kind : Await
  done : Bool
  acks : Nat
  tag : W16
  job : Option UnitJob
  place : Nat
  /-- issued after a CRS.END.D that waits for every earlier instruction (R249) -/
  after : Bool
  /-- an output queue and the entries reserved on it that are not filled (R91, R262) -/
  resv : Option (Nat × Nat)
  /-- the bytes that a transfer writes: space, first and past the last (R305) -/
  span : Option (Space × Int × Int)
  /-- valley elements that a write-back replaces, with their earlier values (R287) -/
  old : List (Nat × W32)
deriving DecidableEq, Repr

/-- The sequencer (R88 to R96, R208 to R219). -/
structure Seq where
  slot : BitVec 3
  idx : Nat
  lcLeft : List (BitVec 24)
  lcDone : List (BitVec 24)
  loops : List LoopFrame
  ags : List Ag
  sh : List W32
  poll : Bool
  halted : Bool
  /-- issue is held by a WAIT or an ARRIVE.W (R225) -/
  waiting : Bool
  /-- SLOT has issued and the switch has not run (R122) -/
  slotReq : Bool
  /-- CRS.END or HALT has issued (R248) -/
  ended : Bool
  /-- the stream engine has sent its hip tokens for this switch (R607) -/
  seHips : Bool
  /-- output queues to which HIP or SLOT has still to send a hip token, and whether that of the lowest has
  entered its queue (R218) -/
  hips : Option (Byte × Bool)
  /-- CRS.END.D executed in this course (R249) -/
  decDone : Bool
  /-- when CRS.END or HALT executed in this course (R68) -/
  endedAt : Option Nat
  stall : BitVec 4
  /-- DRAIN in progress: input queue and tokens left (R235) -/
  drain : Option (BitVec 3 × Nat)
  /-- replies awaited, oldest first -/
  asks : List SparPurpose
  /-- additions resent once after an overflow reply (R228, Table 6.12), with the fault's information -/
  resent : List (SparId × W32 × W32)
deriving DecidableEq, Repr

def Seq.reset : Seq :=
  { slot := 0, idx := 0, lcLeft := List.replicate 8 0, lcDone := List.replicate 8 0, loops := [],
    ags := List.replicate 16 Ag.reset, sh := List.replicate 8 0, poll := false, halted := false,
    waiting := false, slotReq := false, ended := false, seHips := false, hips := none, decDone := false, endedAt := none,
    stall := 0, drain := none, asks := [], resent := [] }

/-- A fault kind raised by an instruction or steering step, kept to recognise it in the following
course (R127, R304). -/
structure Recur where
  code : Byte
  slot : BitVec 3
  idx : Nat
  course : W64
deriving DecidableEq, Repr

/-- An accumulator buffer (R144, R159): its state as RFT_TA_STATUS gives it, whether its elements are
INT32, the elements by 64 × row + column, and the checksum lanes. -/
structure Acc where
  st : BitVec 2
  int : Bool
  cells : Table W32
  rows : Table W32
  cols : Table W32
  corner : W32
  /-- INT32 elements that have saturated (R136) -/
  stuck : List Nat
deriving DecidableEq, Repr

def Acc.reset : Acc :=
  { st := 0, int := false, cells := [], rows := [], cols := [], corner := 0, stuck := [] }

/-- A weight block (R142, R143, R266): its types and extents, where it came from, its elements by
(64 w) × column + K, and its block scales by 16 × column + block. -/
structure WBlock where
  btype : ElemType
  buns : Bool
  n : Nat
  k : Nat
  addr : Nat
  td : Byte
  elems : Table W32
  scales : Table Byte
  /-- its parity has failed once (R162) -/
  failed : Bool
deriving DecidableEq, Repr

/-- Operations of the stream engine (Table 6.9). -/
inductive StreamOp where
  | load | store | xload | gather | scatter | scatterAdd | prefetch
deriving DecidableEq, Repr

/-- A stream instruction that has issued and not run: its generators and addresses at issue, its
run-time shape and its descriptor. -/
structure SJob where
  op : StreamOp
  o : StreamOps
  hw : UnitCheck
  sg : Ag
  dg : Ag
  src : Int
  dst : Int
  idx : Nat
  d0 : Nat
  d1 : Nat
  desc : BitVec 512
  next : Byte
  /-- the instruction's index in the slot -/
  place : Nat
  /-- bytes that a STORE has taken from its output queue -/
  got : List Byte
deriving DecidableEq, Repr

/-- A rafter at a physical position. -/
structure Rafter where
  -- memories
  scratch : Mem
  imem : Table W128
  descs : Table (BitVec 512)
  /-- valley elements by 4,096 × tile + 64 × row + column -/
  valley : Table W32
  /-- tiles written and not yet read out -/
  dirty : BitVec 64
  valleyFix : W16
  soffit : Table W128
  /-- pass registers P0 to P3, each 256 words -/
  pass : List (Table W32)
  -- tensor array
  acc : List Acc
  live : Option WBlock
  shadow : Option WBlock
  taFlags : W32
  taCount : BitVec 56
  taType : BitVec 4
  taMode : BitVec 2
  /-- next row that the accumulator scrubber checks in each buffer -/
  scrubRow : List (BitVec 6)
  -- vector and row engines
  veFlags : W32
  veCount : BitVec 56
  /-- the instructions of the current chain that have issued -/
  chain : List VStep
  reFlags : W32
  reCount : BitVec 56
  reRow : BitVec 14
  rePass : BitVec 2
  -- configuration (chapter 3 registers)
  entry : BitVec 3
  decision : Bool
  serve : Bool
  progLimit : BitVec 20
  slotDesc : List W32
  depth : List (BitVec 9)
  route : Table W32
  /-- slots that hold the preconditioner routine (R380) -/
  routine : Byte
  -- sequencing
  seq : Seq
  iq : List Queue
  oq : List Queue
  stu : List Stu
  /-- issue queues, numbered by `ExecUnit` (R89) -/
  units : List (List InFlight)
  hold : Bool
  idle : Bool
  progress : BitVec 20
  -- stream engine
  seDesc : Byte
  seXpose : Bool
  seState : BitVec 2
  seCount : BitVec 56
  seRetry : W16
  wgen : Byte
  /-- extents with the entries that their lookups returned, most recently used first (R408) -/
  tlb : List (BitVec 19 × Nat)
  prefetch : List (BitVec 19 × Byte × Byte)
  /-- transfers that the stream engine has taken and not run, oldest first -/
  jobs : List SJob
  /-- transaction tag of the last transfer that awaits an acknowledgement -/
  seTag : W16
  /-- scratchpad accesses presented and not granted, oldest first (R166) -/
  spReads : List SpReq
  spWrites : List SpReq
  /-- data of the last scratchpad read granted to each unit -/
  spOut : Table (List Byte)
  -- fault registers
  fault : W32
  faultInfo : W32
  faultExp : W32
  ixFault : W32
  ixInfo : W32
  ixAddrLo : W32
  ixAddrHi : W32
  eccFault : W32
  eccInfo : W32
  eccFix : W16
  taFault : W32
  taInfo : W32
  resRetry : W16
  accFix : W16
  vrFault : W32
  vrInfo : W32
  vrRetry : W16
  sofFix : W16
  recur : List Recur
  ctr : List Ctr
deriving DecidableEq, Repr

def Rafter.reset : Rafter :=
  { scratch := [], imem := [], descs := [], valley := [], dirty := 0, valleyFix := 0, soffit := [],
    pass := List.replicate 4 [], acc := List.replicate 2 Acc.reset, live := none, shadow := none,
    taFlags := 0, taCount := 0, taType := 0, taMode := 0, scrubRow := List.replicate 2 0, veFlags := 0,
    veCount := 0, chain := [], reFlags := 0, reCount := 0, reRow := 0, rePass := 0, entry := 0, decision := false, serve := false,
    progLimit := 0, slotDesc := List.replicate 8 0, depth := List.replicate 16 0, route := [], routine := 0,
    seq := Seq.reset, iq := List.replicate 8 Queue.reset, oq := List.replicate 8 Queue.reset,
    stu := List.replicate 4 Stu.reset, units := List.replicate 10 [], hold := false, idle := false,
    progress := 0, seDesc := 0, seXpose := false, seState := 0,
    seCount := 0, seRetry := 0, wgen := 0, tlb := [], prefetch := [], jobs := [], seTag := 0, spReads := [], spWrites := [], spOut := [], fault := 0,
    faultInfo := 0, faultExp := 0, ixFault := 0, ixInfo := 0, ixAddrLo := 0, ixAddrHi := 0,
    eccFault := 0, eccInfo := 0, eccFix := 0, taFault := 0, taInfo := 0, resRetry := 0,
    accFix := 0, vrFault := 0, vrInfo := 0, vrRetry := 0, sofFix := 0, recur := [], ctr := Ctr.eight }

/-! ### The truss (chapters 1 and 9) -/

/-- A spar-table entry (R315). -/
structure SparEntry where
  count : W32
  phase : Bool
  rest : W32
deriving DecidableEq, Repr

/-- A registered wait (R319, R320): its place in the wait list, the waiting unit, the spar index, the
condition and the PHASE it is tagged with. -/
structure SparWait where
  place : Nat
  unit : UnitId
  tag : W16
  index : BitVec 12
  op : SparOp
  v : W32
  phase : Bool
deriving DecidableEq, Repr

/-- A spar reply on its way (Table 9.6), with the spar and value of the operation it answers. -/
structure SparRep where
  dest : UnitId
  tag : W16
  spar : SparId
  op : SparOp
  v : W32
  count : W32
  phase : Bool
  ovf : Bool
deriving DecidableEq, Repr

/-- A spar operation waiting at an input of a table: its sender and the operation. -/
abbrev SparIn := SparMsg

/-- A sender's replay buffer (R338): flits sent and not acknowledged, the oldest first; `refused` while a refused one waits
to be resent. -/
structure Replay where
  refused : Bool
  flits : List Flit
deriving DecidableEq, Repr

def Replay.reset : Replay := { refused := false, flits := [] }

structure Truss where
  spars : Table SparEntry
  waits : List SparWait
  waitMax : Byte
  /-- the seven inputs, p0 to p5 and the mesh (R317) -/
  inputs : List (List SparIn)
  /-- the input served last -/
  served : Nat
  replies : List SparRep
  sparFault : W32
  sparInfo : W32
  sparFix : W16
  -- router
  meshFault : W32
  meshInfo : W32
  meshReplay : W16
  backlog : List (BitVec 6)
  sysGrant : BitVec 6
  /-- output buffers: key 8 × port + plane, port as DPORT (R331) -/
  bufs : Table (List Flit)
  /-- replay buffers, kept by the sender (R338): an output's under key 8 × port + plane, and under 40 more that of the unit
  that injects at the port -/
  replay : Table Replay
  /-- injection queues of the units at the router: key 8 × port + plane -/
  inject : Table (List Flit)
  /-- flits that wait at the sources of the truss's interface (R331): key 8 × source + plane -/
  outbound : Table (List Flit)
  /-- the source that each plane's injection queue took from last -/
  turn : Table Nat
  /-- times of the system flits admitted in the last 64 cycles (R334), the latest first -/
  sysTimes : List Nat
  /-- flits that have left by an exit, of messages that are not complete: key the port (R327) -/
  rx : Table (List Flit)
  /-- messages delivered at an exit, the latest first: port and flits -/
  got : List (Nat × List Flit)
  -- loft
  loft : Mem
  bankPtr : List (BitVec 4)
  /-- requests presented to each bank and not granted -/
  bankWait : Table (List LoftReq)
  /-- data of the last read granted to each port -/
  loftOut : Table (List Byte)
  loftFix : W16
  loftDed : Bool
  ctr : List Ctr
deriving DecidableEq, Repr

def Truss.reset : Truss :=
  { spars := [], waits := [], waitMax := 0, inputs := List.replicate 7 [], served := 6, replies := [],
    sparFault := 0, sparInfo := 0, sparFix := 0, meshFault := 0, meshInfo := 0, meshReplay := 0,
    backlog := List.replicate 5 0, sysGrant := 0, bufs := [], replay := [], inject := [],
    outbound := [], turn := [], sysTimes := [], rx := [], got := [], loft := [],
    bankPtr := List.replicate 16 0, bankWait := [], loftOut := [], loftFix := 0, loftDed := false, ctr := Ctr.eight }

/-! ### Safety (chapter 15) -/

/-- CLASS of a gutter record (Table 15.7). -/
inductive GClass where
  | event | transient | reset | lasting
deriving DecidableEq, Repr

/-- A gutter record before it is written: SEQ is given at the write (Table 15.7). -/
structure GutterRec where
  course : W64
  cycle : W32
  unit : UnitId
  cls : GClass
  code : Byte
  w0 : W32
  w1 : W32
  w2 : W32
deriving DecidableEq, Repr

/-- A warm reset that has been started and not carried out: its trigger. -/
structure ResetReq where
  trigger : GutterRec
  /-- SEQ that the trigger's record takes -/
  seq : W32
  lasting : Bool
  phase : BitVec 2
  raised : Nat
deriving DecidableEq, Repr

structure Safety where
  /-- lasting faults in force (R528) -/
  inForce : List (UnitId × Byte)
  hold : Bool
  hwSafe : Bool
  /-- the built-in self-test of the last power-up has failed (R341) -/
  untested : Bool
  resetReq : Option ResetReq
  /-- a safety-class program has had a decision end free of faults (R527) -/
  proven : Bool
  /-- a fault was raised since the current course started (R527) -/
  tainted : Bool
  last : W32
  resetsTotal : W16
  /-- courses in which the recent warm resets started (R536) -/
  resetCourses : List W64
  cause : W32
  timeLast : W16
  timeMax : W16
  seq : W32
  lost : W16
  /-- records dropped since the last GLOST record (R523) -/
  dropped : Nat
  /-- when vector 2 was last sent (R502) -/
  lastVec2 : Option Nat
  /-- captures since power-up; SAF_PM.COUNT shows the low byte (R537) -/
  pmCount : W32
  pmLast : BitVec 2
  pmValid : BitVec 4
  pmLock : BitVec 4
  sweeps : W16
  overdue : W16
  tcfg : W16
  fault : W32
  force : Bool
  gtail : Table (BitVec 256)
  queue : List GutterRec
  /-- transient faults of the last 100 ms: unit and time in ticks (R520) -/
  transients : List (UnitId × Nat)
  /-- units tested in the current 100 ms sweep (R517) -/
  swept : List UnitId
deriving DecidableEq, Repr

def Safety.reset : Safety :=
  { inForce := [], hold := false, hwSafe := false, untested := false, resetReq := none, proven := false, tainted := false,
    last := 0, resetsTotal := 0, resetCourses := [], cause := 0, timeLast := 0, timeMax := 0, seq := 0,
    lost := 0, dropped := 0, lastVec2 := none, pmCount := 0, pmLast := 0, pmValid := 0, pmLock := 0, sweeps := 0,
    overdue := 0, tcfg := 256, fault := 0, force := false, gtail := [], queue := [], transients := [],
    swept := [] }

/-! ### The course (chapter 2) -/

/-- A write to a course setting that waits for step 6 (R50); `inSlot` says it fell inside the boundary
slot and waits one boundary more. -/
structure HeldSet where
  source : Option (BitVec 2)
  period : Option W32
  offset : Option W32
  inSlot : Bool
deriving DecidableEq, Repr

structure Crs where
  courseOutEn : Bool
  source : BitVec 2
  period : W32
  ptpOffset : W32
  heldSets : List HeldSet
  cfgRej : Bool
  holdover : Bool
  locked : Bool
  delayed : Bool
  /-- PHASE: 0 no program, 1 decision, 2 body, 3 after the close point -/
  phase : BitVec 2
  running : Bool
  resetGen : Byte
  course : W64
  courseHi : W32
  step : W64
  stepHi : W32
  decBound : BitVec 20
  minPeriod : W32
  decLast : BitVec 20
  decMax : BitVec 20
  slackMin : W32
  fault : W32
  part : BitVec 96
  dec : BitVec 96
  /-- disable requests held for step 3 (R79) -/
  defer : List Instr
  /-- a program start waiting for its boundary instant -/
  starting : Bool
  /-- boundary instant of the current course, in ticks, as it happened -/
  t0 : Nat
  /-- nominal instant of the next boundary -/
  next : Nat
  /-- steps 1 to 5 of the boundary sequence are complete -/
  slotDone : Bool
  /-- the DECISION windows of the course have been released (R494, R525) -/
  decEnded : Bool
  /-- the decision phase is being re-run (R70) -/
  rerun : Bool
  /-- flags of the course record, Table 2.5 -/
  reranFlag : Bool
  heldFlag : Bool
  abandoned : Bool
  stepSkip : Bool
  closed : Bool
  lastEnd : Option Nat
  /-- consecutive good external instants in holdover, and the last of them (R54) -/
  good : Nat
  lastExt : Option Nat
  /-- an external instant that fixes the next boundary -/
  extNext : Option Nat
  /-- the last course-deadline or rest-state fault (R69) -/
  lastCourseFault : Option W64
  /-- a rafter executed HALT in this course (R219) -/
  haltStop : Bool
  /-- rafters hold until the next course after a warm reset in the body (R73) -/
  waitNext : Bool
  /-- measured decision phase of the course (Table 2.5) -/
  decLen : BitVec 20
  /-- step 2 has been performed for the course that ends: whether the step committed, and was skipped (R85) -/
  stepped : Option (Bool × Bool)
  /-- when the boundary sequence was completed, and whether R76 has been raised for it -/
  slotEnd : Nat
  slotOver : Bool
  /-- the next boundary is the return from holdover (R54) -/
  rejoin : Bool
  /-- ACLK point of the course -/
  point : BitVec 2
deriving DecidableEq, Repr

def Crs.reset : Crs :=
  { courseOutEn := false, source := 0, period := 0xF4240, ptpOffset := 0, heldSets := [],
    cfgRej := false, holdover := false, locked := false, delayed := false, phase := 0,
    running := false, resetGen := 0, course := 0, courseHi := 0, step := 0, stepHi := 0,
    decBound := 0, minPeriod := 0, decLast := 0, decMax := 0, slackMin := 0xFFFFFFFF, fault := 0,
    part := 0, dec := 0, defer := [], starting := false, t0 := 0, next := 0, slotDone := false,
    decEnded := false, rerun := false, reranFlag := false, heldFlag := false, abandoned := false,
    stepSkip := false, closed := false, lastEnd := none, good := 0, lastExt := none, extNext := none,
    lastCourseFault := none, haltStop := false, waitNext := false
    decLen := 0, stepped := none, slotEnd := 0, slotOver := false, rejoin := false, point := 0 }

/-! ### Eave units, CXL ports and the tier controller (chapters 10 to 12) -/

/-- An eave unit: its HBM3E stack (36 GiB, the reserved region from 35 GiB on) and its tier-map cache,
as the extents cached in each set, most recently used first (R407). -/
structure Eave where
  hbm : Mem
  tmc : Table (List (BitVec 19))
  tmcMiss : W16
  tmcRefused : W16
  tmcFix : W16
  wgen : Byte
  /-- the stack's refresh rate is doubled (R604) -/
  fastRefresh : Bool
  ctr : List Ctr
deriving DecidableEq, Repr

def Eave.reset : Eave :=
  { hbm := [], tmc := [], tmcMiss := 0, tmcRefused := 0, tmcFix := 0, wgen := 0, fastRefresh := false, ctr := Ctr.eight }

/-- A CXL port and the memory device attached to it. -/
structure CxlPort where
  wgen : Byte
  serve : Bool
  isPresent : Bool
  rate : BitVec 2
  width : BitVec 2
  up : Bool
  units : BitVec 18
  faultInfo : W32
  replays : W16
  rereads : W16
  dev : Mem
  /-- homes allocated, with the extent that each belongs to, plus one -/
  homes : Table Nat
  /-- CXLn_PERST_N is high -/
  perst : Bool
  ctr : List Ctr
deriving DecidableEq, Repr

def CxlPort.reset : CxlPort :=
  { wgen := 0, serve := false, isPresent := false, rate := 0, width := 0, up := false, units := 0,
    faultInfo := 0, replays := 0, rereads := 0, dev := [], homes := [], perst := false, ctr := Ctr.eight }

/-- Use of a frame (R403). -/
inductive FrameUse where
  | free | resv | used (x : BitVec 19)
deriving DecidableEq, Repr

/-- A promotion request waiting in the tier controller (R428). -/
structure PromoReq where
  extent : BitVec 19
  sched : Bool
deriving DecidableEq, Repr

/-- A promotion running on a CXL port: blocks written to the frame so far. -/
structure Promo where
  extent : BitVec 19
  port : Bool
  done : BitVec 4096
deriving DecidableEq, Repr

/-- A tier allocation whose frames are being zeroed (R414). -/
structure AllocJob where
  tag : W16
  left : List (BitVec 19)
  entries : List (BitVec 19 × W128)
deriving DecidableEq, Repr

/-- A seal in progress (R414): extents still to reach BOTH, and those that were not OPEN. -/
structure SealJob where
  tag : W16
  left : List (BitVec 19)
  ignored : Nat
  /-- the first extent that was not OPEN -/
  firstIgnored : W32
deriving DecidableEq, Repr

/-- A prefetch-schedule record (Table 12.11). -/
structure SchedRec where
  extent : BitVec 19
  phase : W16
  delay : W16
  count : Byte
  hold : Byte
deriving DecidableEq, Repr

structure Tier where
  gen : W32
  schedEn : Bool
  schedAddr : BitVec 43
  schedCycle : W16
  schedOwner : BitVec 4
  schedRecs : List SchedRec
  /-- records issued in the current course -/
  issued : List Nat
  /-- scheduled extents whose read from the home has been reported in this course -/
  lateSeen : List (BitVec 19)
  evictions : W16
  late : W16
  fault : W32
  faultInfo : W32
  /-- frames of each stack (R403) -/
  frames : List (Table FrameUse)
  resv : List (BitVec 12)
  hLimit : List (BitVec 15)
  cLimit : List (BitVec 18)
  queue : List PromoReq
  running : List Promo
  allocs : List AllocJob
  seals : List SealJob
deriving DecidableEq, Repr

def Tier.reset : Tier :=
  { gen := 0, schedEn := false, schedAddr := 0, schedCycle := 0, schedOwner := 0, schedRecs := [],
    issued := [], lateSeen := [], evictions := 0, late := 0, fault := 0, faultInfo := 0,
    frames := List.replicate 8 [], resv := List.replicate 8 0, hLimit := List.replicate 16 0x7FFF,
    cLimit := List.replicate 16 0x3FFFF, queue := [], running := [], allocs := [], seals := [] }

/-! ### Power, security, the central reader and the package (chapters 16 to 18) -/

structure Power where
  /-- STAGE: 0 ROM, 1 Reduced, 2 Full, as PWR_STATUS gives it -/
  stage : BitVec 2
  floor : BitVec 2
  aclk : BitVec 2
  skip : BitVec 4
  /-- STATE of Table 16.4 -/
  st : BitVec 3
  capped : Bool
  thermLow : Bool
  limit : BitVec 10
  /-- a limit written and not yet in effect -/
  limitNext : Option (BitVec 10)
  ceil : BitVec 2
  tol : BitVec 24
  avg : W16
  peak : W16
  /-- readings of the 28 sensors, and whether each is current -/
  temps : List Byte
  tempValid : BitVec 28
  tempHigh : Byte
  steps : W16
  caps : W16
  bootFull : W16
  bootReduced : W16
  mtFail : Byte
  mtPass : Byte
  mtPct : BitVec 7
  /-- the last command, BAR2 access or access to a compute-die block (R557) -/
  lastUse : Nat
  /-- stage Full is due at step 3 of the next boundary sequence (R548) -/
  fullDue : Option W16
  /-- highest reading of the course, and governor samples of it with and without skipping (R561) -/
  courseHigh : Byte
  samples : Nat
  skipSamples : Nat
  /-- since when the conditions for a step up have held, and when `skip` was last lowered -/
  quietSince : Option Nat
  skipAt : Nat
  stackTemps : List Byte
  pwrgood : Bool
  /-- the supply monitors hold the compute die and the ridge in reset (R602) -/
  dead : Bool
  /-- bring-up is due from its step 1 after a falling PERST_N (R546) -/
  boot : Bool
deriving DecidableEq, Repr

def Power.reset : Power :=
  { stage := 0, floor := 0, aclk := 0, skip := 0, st := 0, capped := false, thermLow := false
    limit := 600, limitNext := none, ceil := 0, tol := 0, avg := 0, peak := 0
    temps := List.replicate 28 0, tempValid := 0, tempHigh := 0, steps := 0, caps := 0, bootFull := 0
    bootReduced := 0, mtFail := 0, mtPass := 0, mtPct := 0, lastUse := 0, fullDue := none, courseHigh := 0
    samples := 0, skipSamples := 0, quietSince := none, skipAt := 0, stackTemps := List.replicate 8 0
    pwrgood := false, dead := false, boot := false }

/-- Fuses: anti-rollback counters, owner slots with their key digests, and revocations (R563 to R567). -/
structure Fuses where
  ctrs : List Nat
  owned : BitVec 4
  revoked : BitVec 4
  roots : BitVec 2
  hashes : List (BitVec 512)
deriving DecidableEq, Repr

def Fuses.reset : Fuses :=
  { ctrs := List.replicate 64 0, owned := 0, revoked := 0, roots := 0, hashes := List.replicate 4 0 }

structure Sec where
  fuses : Fuses
  fwSlot : Bool
  fwSvn : Byte
  fwDig : BitVec 512
  debug : Bool
  rbRej : Bool
  ownRej : Bool
  flashRel : Bool
  ownerHash : List W32
  /-- a burn in progress: counter and value -/
  burn : Option (Nat × Nat)
  nonce : List W32
  attGo : Bool
  attDone : Bool
  report : List Byte
  /-- challenges drawn so far; the current one is the last -/
  draws : Nat
  dbgGo : Bool
  dbgFail : Bool
  dbgResp : Mem
  /-- SPDM responses sent, latest first -/
  spdm : List (List Byte)
deriving DecidableEq, Repr

def Sec.reset : Sec :=
  { fuses := Fuses.reset, fwSlot := false, fwSvn := 0, fwDig := 0, debug := false, rbRej := false
    ownRej := false, flashRel := false, ownerHash := List.replicate 16 0, burn := none
    nonce := List.replicate 8 0, attGo := false, attDone := false, report := [], draws := 0, dbgGo := false
    dbgFail := false, dbgResp := [], spdm := [] }

/-- The central reader (R579 to R583). -/
structure Reader where
  grant : W32
  snaps : W16
  slot : BitVec 10
  last : List Byte
  timeLast : W16
  timeMax : W16
  /-- ACLK progress since the previous latch, in 1,600ths of a cycle, skipped pulses excluded (R579) -/
  cycles : Nat
  /-- the next snapshot is the first since program load -/
  first : Bool
  /-- a warm reset fell in the course -/
  hadReset : Bool
deriving DecidableEq, Repr

def Reader.reset : Reader :=
  { grant := 0, snaps := 0, slot := 0, last := [], timeLast := 0, timeMax := 0, cycles := 0, first := false
    hadReset := false }

/-- Pins and board management (chapter 18). -/
structure Pkg where
  /-- how long the source at COURSE_IN keeps the pin low before an edge and high after it, in ns (R589) -/
  courseLow : W16
  courseHigh : W16
  /-- COURSE_OUT is high since this instant -/
  courseOut : Option Nat
  /-- PERST_N is high -/
  perst : Bool
  /-- rate and width to which the host link trains -/
  hostRate : BitVec 2
  hostWidth : BitVec 2
  /-- SMB_ALERT_N stays low until an Alert Response Address read (R595) -/
  alertLow : Bool
  smbAddr : BitVec 2
  /-- SMBus replies, latest first -/
  smb : List (List Byte)
  /-- the boundary-scan register, and bits shifted out by the last JTAG operation -/
  scan : List Bool
  tdo : List Bool
  /-- EXTEST drives the outputs from the boundary-scan register -/
  extest : Bool
deriving DecidableEq, Repr

def Pkg.reset : Pkg :=
  { courseLow := 1000, courseHigh := 1000, courseOut := none, perst := false, hostRate := 0, hostWidth := 0, alertLow := false, smbAddr := 0, smb := []
    scan := [], tdo := [], extest := false }

/-! ### Parameter update and version rings (chapters 10 and 11) -/

/-- A parameter group: its ring (R350, R351, EAV_VRING) and where it stands in the step (EAV_GSTATE, R385,
R392). `st`: 0 no request, 1 in progress, 2 outcome reported, 3 skipped. -/
structure Group where
  depth : BitVec 2
  guarded : Bool
  head : BitVec 2
  lag : Byte
  guard : SparId
  gn : W16
  rstride : BitVec 20
  ver : W32
  live : Bool
  st : BitVec 2
  agw : Bool
  /-- flags of the owned shards, as collected -/
  flags : List (BitVec 20 × Bool)
  /-- when the agreement flag-reduce started -/
  reduceAt : Option Nat
  /-- the agreement result, and whether AGTO counted it -/
  result : Option Bool
  timedOut : Bool
  /-- shards that have reported PREPARED -/
  prep : List (BitVec 20)
  /-- OUTCOME at the last boundary (Table 2.6) -/
  outcome : BitVec 2
deriving DecidableEq, Repr

def Group.reset : Group :=
  { depth := 0, guarded := false, head := 0, lag := 0, guard := 0, gn := 0, rstride := 0, ver := 0
    live := false, st := 0, agw := false, flags := [], reduceAt := none, result := none
    timedOut := false, prep := [], outcome := 0 }

/-- An update request: the rafter that waits for its acceptance, or the collective instance that
delivered it (R461); the gradient elements it carries; or the ring entry of a mirror shard. -/
structure UpdReq where
  rafter : Option RafterId
  inst : Option (W16 × W32)
  group : BitVec 8
  shard : BitVec 20
  src : UpdSrc
  vals : List W32
  entry : Option (List Byte)
  wgen : Byte
  /-- the place of the UPD in its rafter's issue queue -/
  tag : W16
  /-- the guard wait of its course has been satisfied (R363) -/
  served : Bool
deriving DecidableEq, Repr

/-- A shard in progress (Table 11.8): the last stage that has ended, the results of the guard pass, and
what stage 4 decided. -/
structure UpdJob where
  req : UpdReq
  stage : Nat
  nf : Bool
  sq : W32
  maxa : W32
  skip : Bool
  groupSkip : Bool
  accepted : Bool
deriving DecidableEq, Repr

/-- A wait that a receiving unit has registered in this course (R363, R388). -/
structure UpdWait where
  spar : SparId
  need : W32
  done : Bool
  since : Nat
  guard : Bool
deriving DecidableEq, Repr

/-- A receiving unit: the NMU of an eave unit, or a link engine (Table 11.3). -/
structure UpdUnit where
  queue : List UpdReq
  jobs : List UpdJob
  waits : List UpdWait
  fault : W32
  info : W32
  eccFix : W16
  retry : W16
  skipGroup : W16
  skipShard : W16
  guardMax : W32
  /-- refused additions that have been resent: spar, tag, and the fault's information (R228) -/
  resent : List (SparId × W16 × W32)
deriving DecidableEq, Repr

def UpdUnit.reset : UpdUnit :=
  { queue := [], jobs := [], waits := [], fault := 0, info := 0, eccFix := 0, retry := 0, skipGroup := 0
    skipShard := 0, guardMax := 0, resent := [] }

structure Upd where
  groups : Table Group
  /-- NMUs 0 to 7, then link engines 0 to 7 -/
  units : List UpdUnit
  nmuFence : Byte
  /-- shards whose request has passed stage 1 in the step, and mirror shards past stage 6 (R390) -/
  taken : List (BitVec 20)
  suspects : List (BitVec 20)
  uprog : Table W32
  /-- learning has been stopped (R79) -/
  lstop : Bool
deriving DecidableEq, Repr

def Upd.reset : Upd :=
  { groups := [], units := List.replicate 16 UpdUnit.reset, nmuFence := 0, taken := [], suspects := []
    uprog := [], lstop := false }

/-! ### Ixerta links (chapter 13) -/

/-- A message on a connection, as sent or kept: its type, destination and contents. -/
structure LinkMsg where
  typ : BitVec 4
  dst : BitVec 10
  last : Bool
  retx : Bool
  psn : W32
  apsn : W32
  xfer : W16
  rgen : Byte
  wgen : Byte
  course : W32
  offset : BitVec 48
  payload : List Byte
  /-- when it was last sent -/
  sentAt : Nat
deriving DecidableEq, Repr

/-- A connection (R441 to R443). -/
structure Conn where
  isOpen : Bool
  tx : W32
  rx : W32
  /-- kept until acknowledged, and waiting for a place among the 512 -/
  kept : List LinkMsg
  waiting : List LinkMsg
  /-- a NAK has been sent for the current gap -/
  nak : Bool
  sinceAck : Nat
  ackFrom : Option Nat
  timeouts : Nat
  badPsn : Option W32
deriving DecidableEq, Repr

def Conn.reset : Conn :=
  { isOpen := false, tx := 0, rx := 0, kept := [], waiting := [], nak := false, sinceAck := 0
    ackFrom := none, timeouts := 0, badPsn := none }

structure LnkPort where
  wgen : Byte
  mtu : BitVec 14
  vlanEn : Bool
  fam : Bool
  up : Bool
  serve : Bool
  vlan : W16
  mac : BitVec 48
  ip : W128
  retry : Byte
  rto : W16
  fault : W32
  info : W32
  resent : W16
  badCrc : W16
  foreign : W16
  stale : W16
  peers : Table (BitVec 256)
  peerHold : List (BitVec 10 × BitVec 256)
  conns : Table Conn
  /-- messages held for instances that have not started here, with their sender (R467) -/
  staged : List (BitVec 10 × LinkMsg)
  ctr : List Ctr
deriving DecidableEq, Repr

def LnkPort.reset : LnkPort :=
  { wgen := 0, mtu := 9216, vlanEn := false, fam := false, up := false, serve := false, vlan := 0
    mac := 0, ip := 0, retry := 8, rto := 20, fault := 0, info := 0, resent := 0, badCrc := 0
    foreign := 0, stale := 0, peers := [], peerHold := [], conns := [], staged := [], ctr := Ctr.eight }

/-- An instance of a collective on this device (R452). `own` is its contribution as FP32 values and `acc`
the result of its own chunk; `left` counts what its own chunk still lacks (elements, or bytes when
compressed), `relay` the elements it has still to pass on, `got` and `gleft` the gathered bytes and how many
are missing, `accepts` the requests of R461 not yet accepted. `done`: its status word is written. -/
structure Inst where
  xfer : W16
  course : W32
  op : BitVec 4
  cdesc : BitVec 512
  group : List (BitVec 10)
  me : Nat
  n : Nat
  dag : Nat
  rspar : SparId
  own : List W32
  acc : Table W32
  bufs : List (BitVec 10 × Mem)
  left : Nat
  relay : Nat
  summed : Bool
  got : Mem
  gleft : Nat
  accepts : Nat
  /-- elements of the own chunk that have arrived, by first and count (R373) -/
  came : List (Nat × Nat)
  done : Bool
  flag : Bool
  start : Nat
  /-- the parameter group whose agreement it carries (R385) -/
  agree : Option (BitVec 8)
deriving DecidableEq, Repr

/-- A digest pass (R470, R471): own shard digests by shard and kind (`true` a state digest), roof digests
received, shard digests received with their byte count, and the kinds still to compare, each with whether the
shard digests have been sent. -/
structure Digest where
  running : Bool
  own : List (BitVec 20 × Bool × BitVec 512)
  roofs : List (BitVec 10 × Bool × BitVec 512)
  shards : List (BitVec 10 × Bool × Mem × Nat)
  kinds : List (Bool × Bool)
deriving DecidableEq, Repr

structure Lnk where
  rank : BitVec 10
  nd : BitVec 11
  nt : BitVec 11
  np : BitVec 11
  ns : BitVec 11
  udp : W16
  collTo : BitVec 24
  saxis : BitVec 3
  axis : BitVec 3
  every : W16
  divlist : BitVec 43
  divCount : Nat
  ptpDomain : BitVec 7
  ptpTrans : BitVec 2
  ptpPort : BitVec 3
  ptpEn : Bool
  ptpLocked : Bool
  ptpOffset : BitVec 24
  /-- consecutive Syncs within ±250 ns -/
  ptpGood : Nat
  /-- the PTP clock in units of 10 ns, and the device's time at which it read so (R449) -/
  ptpTime : Nat
  ptpAt : Nat
  cdesc : Table (BitVec 512)
  ports : List LnkPort
  insts : List Inst
  /-- instances of this course that have ended -/
  ended : List (W16 × W32)
  /-- COLLs of this course by descriptor (R452) -/
  ordinals : Table Nat
  /-- RSPAR additions held back (R246) -/
  held : List SparId
  /-- messages sent, latest first -/
  out : List (BitVec 3 × LinkMsg)
  digest : Digest
  /-- suspect shards that the divergence list holds -/
  listed : List (BitVec 20)
  /-- courses that a sender has aborted (R466) -/
  aborted : List (W32 × BitVec 10)
  /-- ring deliveries that arrive: shard, bytes so far, how many (R462) -/
  rings : List (BitVec 20 × Mem × Nat)
deriving DecidableEq, Repr

def Lnk.reset : Lnk :=
  { rank := 0, nd := 1, nt := 1, np := 1, ns := 1, udp := 0, collTo := 20000, saxis := 0, axis := 4
    every := 0, divlist := 0, divCount := 0, ptpDomain := 0, ptpTrans := 0, ptpPort := 0, ptpEn := false
    ptpLocked := false, ptpOffset := 0, ptpGood := 0, ptpTime := 0, ptpAt := 0, cdesc := [], ports := List.replicate 8 LnkPort.reset
    insts := [], ended := [], ordinals := [], held := [], out := []
    digest := { running := false, own := [], roofs := [], shards := [], kinds := [] }, listed := [], aborted := []
    rings := [] }

/-! ### The loaded program -/

/-- The program: loaded and not started, or running; its header's facts (Table 16.6) and the image as the
ridge parsed it. -/
structure Prog where
  loaded : Bool
  started : Bool
  sclass : Bool
  reduced : Bool
  resume : Bool
  imageId : W64
  floor : BitVec 2
  ctr : Byte
  svn : W32
  dig : BitVec 512
  img : Option Image
deriving DecidableEq, Repr

def Prog.reset : Prog :=
  { loaded := false, started := false, sclass := false, reduced := false, resume := false, imageId := 0
    floor := 0, ctr := 0, svn := 0, dig := 0, img := none }

/-! ### The host interface (chapter 14) -/

/-- The binding of an output window (R494). -/
structure WinBind where
  win : BitVec 6
  vec : BitVec 6
  addr : W64
  stride : W32
deriving DecidableEq, Repr

/-- An open session (R497, Table 14.7). -/
structure Session where
  num : Byte
  iw : BitVec 6
  ow : BitVec 6
  course : W64
deriving DecidableEq, Repr

/-- A publish set (R499 to R501): the pending permission is its TAG, STANDING and STEP. -/
structure PubSet where
  active : Bool
  staged : Bool
  staging : Bool
  pubStep : W64
  stageStep : W64
  perm : Option (W16 × Bool × W64)
  /-- shards still to copy, and the step being staged -/
  left : List (BitVec 20)
  toStep : W64
  /-- the set's groups with the HEAD that the commit gave each: the entry that staging copies -/
  heads : List (Byte × BitVec 2)
deriving DecidableEq, Repr

def PubSet.reset : PubSet :=
  { active := false, staged := false, staging := false, pubStep := 0, stageStep := 0, perm := none
    left := [], toStep := 0, heads := [] }

/-- A PROG.LOAD that runs: its TAG, where its image lies, and whether it is reduced. -/
structure LoadJob where
  tag : W16
  addr : Nat
  len : Nat
  reduced : Bool
deriving DecidableEq, Repr

/-- A command as one fetch took it: whether it came from the ring, OPC, TAG, the command where it is well
formed, and whether it has been dealt with at the fetch (class L, or malformed). -/
structure FetchedCmd where
  ring : Bool
  opc : Byte
  tag : W16
  cmd : Option Instr
  done : Bool
deriving DecidableEq, Repr

/-- A link export or import that runs (R475, R476). -/
structure XferJob where
  o : LinkXferOps
  imp : Bool
  /-- the connection over which a rank answers has failed (R443) -/
  failed : Bool
deriving DecidableEq, Repr

/-- The completion of a host read: its data, Unsupported Request, or Completer Abort (R479, R480, R503). -/
inductive HostReply where
  | data (bs : List Byte)
  | unsupported
  | abort
deriving DecidableEq, Repr

/-- A host access held during a warm reset (R482), or a register write that waits. -/
structure Hst where
  crBase : W64
  crEn : Bool
  crLog2 : BitVec 5
  crHead : W16
  crPhase : Bool
  cqBase : W64
  cqHead : W16
  cqTail : W16
  cqPhase : Bool
  /-- completions written and not read, and places reserved by fetched commands -/
  cqOut : Nat
  cqResv : Nat
  winBase : BitVec 43
  cfgRej : Bool
  loading : Option LoadJob
  ide : Bool
  width : BitVec 2
  rate : BitVec 2
  up : Bool
  fault : W32
  info : W32
  msixMask : BitVec 64
  msixPend : BitVec 64
  /-- MSI-X vectors sent, latest first -/
  msixSent : List (BitVec 6)
  /-- a completion has been written since vector 3 was last sent -/
  cplNew : Bool
  /-- commands fetched in this boundary sequence, applied in step 6 -/
  fetched : List FetchedCmd
  /-- commands that stand at the end of the ring and wait for step 5 -/
  queued : List Instr
  binds : List WinBind
  sessions : List Session
  /-- posts in force for the current course, and for the one that starts next (R492) -/
  posts : Table W64
  postsNext : Table W64
  pubs : List PubSet
  xfers : List XferJob
  bridgeFence : BitVec 2
  /-- host memory as the device reads and writes it -/
  mem : Mem
  /-- the reduced-service buffer, 4 MiB of ridge memory (R551) -/
  rsBuf : Mem
  /-- Z, the size of BAR2, in GiB (R480) -/
  barSize : Nat
  /-- a PROG.START that takes over from a reduced program: TAG (R555) -/
  takeover : Option W16
  /-- host accesses that wait for the end of a warm reset (R482) -/
  waiting : List Instr
  /-- how the host's reads were completed, latest first -/
  reads : List HostReply
  /-- configuration requests answered, latest first: `true` normally, `false` with Request Retry Status (R546) -/
  cfgReplies : List Bool
  d3hot : Bool
  ctr : List Ctr
deriving DecidableEq, Repr

def Hst.reset : Hst :=
  { crBase := 0, crEn := false, crLog2 := 0, crHead := 0, crPhase := false, cqBase := 0, cqHead := 0
    cqTail := 0, cqPhase := false, cqOut := 0, cqResv := 0, winBase := 0, cfgRej := false
    loading := none, ide := false, width := 0, rate := 0, up := false, fault := 0, info := 0
    msixMask := BitVec.allOnes 64, msixPend := 0, msixSent := [], cplNew := false, fetched := []
    queued := [], binds := [], sessions := [], posts := [], postsNext := [], pubs := List.replicate 16 PubSet.reset
    xfers := [], bridgeFence := 0, mem := [], rsBuf := [], barSize := 256, takeover := none, waiting := [], reads := [], cfgReplies := [], d3hot := false, ctr := Ctr.eight }

/-! ### Messages of the mesh that a unit awaits (chapter 9) -/

/-- A read that has been served: the requester, its tag and reset generation, the first byte address,
the bytes still to arrive, and those that have arrived, by address (R328). -/
structure ReadPend where
  src : UnitId
  tag : W16
  rgen : Byte
  addr : Nat
  left : Nat
  got : Mem
deriving DecidableEq, Repr

/-- A write whose acknowledgement is on its way. -/
structure AckPend where
  dst : UnitId
  tag : W16
  rgen : Byte
deriving DecidableEq, Repr

/-! ### The whole device -/

structure State where
  grade : Grade
  crs : Crs
  /-- by physical position 6 t + p -/
  rft : List Rafter
  trs : List Truss
  eav : List Eave
  cxl : List CxlPort
  tier : Tier
  saf : Safety
  pwr : Power
  sec : Sec
  cnt : Reader
  pkg : Pkg
  prog : Prog
  /-- an image accepted while a reduced program runs (R555) -/
  progNext : Option Prog
  upd : Upd
  lnk : Lnk
  hst : Hst
  /-- positions enabled at manufacture (R4, R5) -/
  enabled : BitVec 96
  /-- positions excluded by the fence mask in force (R506) -/
  fenced : BitVec 96
  /-- spar replies that have reached eave units and link engines (R225, Table 9.1) -/
  sparInbox : List SparRep
  reads : List ReadPend
  acks : List AckPend
  /-- ridge register accesses whose responses are on their way: offset, value, reset generation (R327) -/
  ridgeAsked : List (BitVec 26 × W32 × Byte)
  /-- values that such responses brought, latest first -/
  ridgeGot : List (BitVec 26 × W32)
  /-- time base of R42, in 10 ns ticks -/
  now : Nat
  /-- the model's own counter of free values drawn -/
  free : Nat
  pending : List Instr
deriving DecidableEq, Repr

def State.reset : State :=
  { grade := .w96, crs := Crs.reset, rft := List.replicate 96 Rafter.reset,
    trs := List.replicate 16 Truss.reset, eav := List.replicate 8 Eave.reset,
    cxl := List.replicate 2 CxlPort.reset, tier := Tier.reset, saf := Safety.reset, pwr := Power.reset, sec := Sec.reset, cnt := Reader.reset, pkg := Pkg.reset,
    prog := Prog.reset, progNext := none, upd := Upd.reset, lnk := Lnk.reset, hst := Hst.reset, enabled := BitVec.allOnes 96,
    fenced := 0, sparInbox := [], reads := [], acks := [], ridgeAsked := [], ridgeGot := [], now := 0, free := 0, pending := [] }

end Sys2Proof.Machine
end

