-- ==== Sys2Proof/Machine/Mem.lean ====
section
/-!
DEFINITION. The operations over the sparse containers: byte memories and tables, in canonical form.
An unlisted byte reads 0 and an unlisted entry reads its table's default.
-/

namespace Sys2Proof.Machine

/-! ### Tables -/

/-- The entry at a key, or the default. -/
def tableGet {α : Type} (d : α) : Table α → Nat → α
  | [], _ => d
  | (k, v) :: t, a => if a = k then v else if a < k then d else tableGet d t a

/-- The entries from the first key above `a` on. -/
def tableAbove {α : Type} : Table α → Nat → Table α
  | [], _ => []
  | (k, v) :: t, a => if a < k then (k, v) :: t else tableAbove t a

/-- The table with a key's entry replaced; the default is not listed. -/
def tablePut {α : Type} [DecidableEq α] (d : α) (t : Table α) (a : Nat) (v : α) : Table α :=
  match t with
  | [] => if v = d then [] else [(a, v)]
  | (k, w) :: t' =>
    if a < k then (if v = d then (k, w) :: t' else (a, v) :: (k, w) :: t')
    else if a = k then (if v = d then tableAbove t' a else (a, v) :: t')
    else (k, w) :: tablePut d t' a v

/-- Entries whose key lies in `[lo, hi)` are dropped. -/
def tableClear {α : Type} (t : Table α) (lo hi : Nat) : Table α :=
  t.filter (fun e => e.1 < lo || hi ≤ e.1)

/-- The canonical form: keys strictly rising, no entry equal to the default. -/
def tableWf {α : Type} [DecidableEq α] (d : α) : Table α → Bool
  | [] => true
  | [(_, v)] => v ≠ d
  | (k, v) :: (k', v') :: t => v ≠ d && k < k' && tableWf d ((k', v') :: t)

/-! ### Byte memories -/

/-- What a byte that nothing has written reads as. DESIGN CHOICE (log 3): zero. -/
def memBlank : Byte := 0

/-- The byte at an address. -/
def memByte (m : Mem) (a : Nat) : Byte := tableGet memBlank m a

/-- The canonical form of a byte memory. -/
def Memory.wf (m : Mem) : Bool := tableWf memBlank m

/-- One byte written. -/
def memPutByte (m : Mem) (a : Nat) (b : Byte) : Mem := tablePut memBlank m a b

/-- Cells for consecutive bytes, blanks left out, in front of `tail`. -/
def memCells : Nat → List Byte → Mem → Mem
  | _, [], tail => tail
  | a, b :: bs, tail => if b = memBlank then memCells (a + 1) bs tail
                        else (a, b) :: memCells (a + 1) bs tail

/-- Cells at or above an address. -/
def memAbove : Mem → Nat → Mem
  | [], _ => []
  | (k, v) :: t, a => if k < a then memAbove t a else (k, v) :: t

/-- Consecutive bytes written from an address. -/
def memWrite : Mem → Nat → List Byte → Mem
  | [], a, bs => memCells a bs []
  | (k, v) :: t, a, bs =>
    if k < a then (k, v) :: memWrite t a bs
    else memCells a bs (memAbove ((k, v) :: t) (a + bs.length))

/-- `n` consecutive bytes read from an address. -/
def memRead : Mem → Nat → Nat → List Byte
  | [], _, n => List.replicate n memBlank
  | (k, v) :: t, a, n =>
    if k < a then memRead t a n
    else if k < a + n then List.replicate (k - a) memBlank ++ v :: memRead t (k + 1) (a + n - (k + 1))
    else List.replicate n memBlank

/-! ### Words as bytes, little-endian (R15) -/

/-- A word of `n` bytes as its bytes, lowest first. -/
def bytesOf (n : Nat) (w : Nat) : List Byte :=
  (List.range n).map (fun i => BitVec.ofNat 8 (w >>> (8 * i)))

/-- Bytes, lowest first, as a number. -/
def natOfBytes : List Byte → Nat
  | [] => 0
  | b :: bs => b.toNat + 256 * natOfBytes bs

/-- Zero bytes. -/
def zeros (n : Nat) : List Byte := List.replicate n 0

def memWord (m : Mem) (a n : Nat) : Nat := natOfBytes (memRead m a n)

def memPutWord (m : Mem) (a n w : Nat) : Mem := memWrite m a (bytesOf n w)

/-- A field of a number: bits `lo` to `lo + w - 1`. -/
def field (x lo w : Nat) : Nat := (x >>> lo) % 2 ^ w

/-- Bits `lo` on of a number replaced by a `w`-bit value. -/
def setField (x lo w v : Nat) : Nat :=
  x - (field x lo w) * 2 ^ lo + (v % 2 ^ w) * 2 ^ lo

def b2n (b : Bool) : Nat := if b then 1 else 0

end Sys2Proof.Machine
end

