-- ==== Sys2Proof/Machine/Ops.lean ====
section
/-!
DEFINITION. Access to the parts of the device: rafters by logical number, trusses, free values, the
MSI-X vectors, and the signals that are functions of the state.
-/

namespace Sys2Proof.Machine

/-! ### Rafters (R6, R7) -/

/-- Physical positions in use, ascending: enabled and not excluded by the fence mask. -/
def positions (s : State) : List Nat :=
  (List.range 96).filter (fun p => s.enabled.getLsbD p && !s.fenced.getLsbD p)

/-- N, the number of rafters in use. -/
def rafterCount (s : State) : Nat := (positions s).length

/-- The physical position of logical rafter `n` (R6); none when there is no such rafter (R4). -/
def physOf (s : State) (n : RafterId) : Option Nat := (positions s)[n]?

/-- The logical number of a physical position. -/
def logicalOf (s : State) (p : Nat) : Nat := ((positions s).filter (· < p)).length

def rafterAt (s : State) (p : Nat) : Rafter := s.rft.getD p Rafter.reset

def setRafter (s : State) (p : Nat) (x : Rafter) : State := { s with rft := s.rft.set p x }

/-- A rafter changed in place; nothing happens when the number names no rafter (R4). -/
def updRafter (s : State) (n : RafterId) (f : Rafter → Rafter) : State :=
  match physOf s n with
  | none => s
  | some p => setRafter s p (f (rafterAt s p))

/-- Logical rafter `n`, or a rafter in its reset state where there is none. -/
def rafterOf (s : State) (n : RafterId) : Rafter :=
  match physOf s n with
  | none => Rafter.reset
  | some p => rafterAt s p

/-- Every rafter changed. -/
def allRafters (s : State) (f : Nat → Rafter → Rafter) : State :=
  { s with rft := s.rft.mapIdx f }

/-! ### Trusses -/

def trussAt (s : State) (t : Nat) : Truss := s.trs.getD t Truss.reset

def setTruss (s : State) (t : Nat) (x : Truss) : State := { s with trs := s.trs.set t x }

def updTruss (s : State) (t : Nat) (f : Truss → Truss) : State := setTruss s t (f (trussAt s t))

/-! ### Unit identifiers (Table 0.5) -/

def unitId (kind inst : Nat) : UnitId := BitVec.ofNat 16 (kind * 4096 + inst % 4096)
def rafterUnit (n : RafterId) : UnitId := unitId 0 n
def trussUnit (t : Nat) : UnitId := unitId 1 t
def eaveUnit (e : Nat) : UnitId := unitId 2 e
def bridgeUnit (b : Nat) : UnitId := unitId 3 b
def linkUnit (l : Nat) : UnitId := unitId 4 l
def hostUnit : UnitId := unitId 5 0
def cxlUnit (c : Nat) : UnitId := unitId 6 c
def ridgeUnit : UnitId := unitId 7 0
def routerUnit (t : Nat) : UnitId := unitId 8 t
def unitKind (u : UnitId) : Nat := u.toNat / 4096
def unitInst (u : UnitId) : Nat := u.toNat % 4096

/-! ### Small lists -/

def listPut {α : Type} (l : List α) (i : Nat) (x : α) : List α := l.set i x

/-- A saturating 16-bit counter (correction registers stop at 0xFFFF). -/
def satInc16 (x : W16) : W16 := if x = 0xFFFF then x else x + 1

/-- A saturating addition to a 16-bit counter. -/
def satAdd16 (x : W16) (n : Nat) : W16 := BitVec.ofNat 16 (min 0xFFFF (x.toNat + n))

/-! ### Performance counters (R573, R577, R578) -/

/-- The counter is enabled and counts this event. -/
def ctrTakes (c : Ctr) (ev : Nat) : Bool := c.cfg.getLsbD 0 && field c.cfg.toNat 16 10 == ev

/-- An unchained counter: it wraps and sets OVF. -/
def ctrBump (c : Ctr) (ev n : Nat) : Ctr :=
  if ctrTakes c ev then
    { c with val := BitVec.ofNat 48 (c.val.toNat + n), ovf := c.ovf || decide (2 ^ 48 ≤ c.val.toNat + n) }
  else c

/-- A chained pair: a carry enters the upper counter, and a carry past its end leaves both at their
greatest value, where they stay until VALUE is written. -/
def pairBump (lo hi : Ctr) (ev n : Nat) : Ctr × Ctr :=
  if ctrTakes lo ev && !hi.full then
    let v := hi.val.toNat * 2 ^ 48 + lo.val.toNat + n
    if v < 2 ^ 96 then
      ({ lo with val := BitVec.ofNat 48 v }, { hi with val := BitVec.ofNat 48 (v / 2 ^ 48) })
    else ({ lo with val := BitVec.allOnes 48 }, { hi with val := BitVec.allOnes 48, ovf := true, full := true })
  else (lo, hi)

/-- `n` occurrences of an event at a unit's counters. -/
def hitCtrs : List Ctr → Nat → Nat → List Ctr
  | a :: b :: l, ev, n =>
    if a.cfg.getLsbD 1 then (pairBump a b ev n).1 :: (pairBump a b ev n).2 :: hitCtrs l ev n
    else ctrBump a ev n :: ctrBump b ev n :: hitCtrs l ev n
  | l, _, _ => l

def hitRafter (x : Rafter) (ev n : Nat) : Rafter := { x with ctr := hitCtrs x.ctr ev n }
def hitTruss (x : Truss) (ev n : Nat) : Truss := { x with ctr := hitCtrs x.ctr ev n }
def hitEave (s : State) (e ev n : Nat) : State :=
  let v := s.eav.getD e Eave.reset
  { s with eav := s.eav.set e { v with ctr := hitCtrs v.ctr ev n } }
def hitPort (s : State) (l ev n : Nat) : State :=
  let p := s.lnk.ports.getD l LnkPort.reset
  { s with lnk := { s.lnk with ports := s.lnk.ports.set l { p with ctr := hitCtrs p.ctr ev n } } }
def hitCxl (s : State) (c ev n : Nat) : State :=
  let p := s.cxl.getD c CxlPort.reset
  { s with cxl := s.cxl.set c { p with ctr := hitCtrs p.ctr ev n } }
def hitHost (s : State) (ev n : Nat) : State :=
  { s with hst := { s.hst with ctr := hitCtrs s.hst.ctr ev n } }

/-! ### Free values -/

/-- The next free value, and the state with the counter advanced. -/
def drawFree (s : State) : W64 × State :=
  (Config.freeValue s.free, { s with free := s.free + 1 })

/-! ### Clocks (R40, R42) -/

/-- ACLK in MHz at a point, encoded as the course record gives it. -/
def aclkMHz (p : BitVec 2) : Nat :=
  match p.toNat with
  | 0 => 1250
  | 1 => 1000
  | 2 => 800
  | _ => 625

/-- ACLK cycles in a number of 10 ns ticks. -/
def ticksToCycles (s : State) (n : Nat) : Nat := n * aclkMHz s.pwr.aclk / 100

/-! ### MSI-X (R502) -/

/-- A vector is sent, or its pending bit is set while it is masked. Without the ridge's control only vector 1 is sent
(Table 15.10). -/
def sendMsix (s : State) (v : BitVec 6) : State :=
  if s.saf.hwSafe && v != 1 then s
  else if s.hst.msixMask.getLsbD v.toNat then
    { s with hst := { s.hst with msixPend := s.hst.msixPend ||| (1#64 <<< v.toNat) } }
  else hitHost { s with hst := { s.hst with msixSent := v :: s.hst.msixSent } } 0x3C4 1

/-! ### Signals -/

/-- FSAFE_N is driven low (R527). -/
def fsafeLow (s : State) : Bool :=
  !s.saf.proven || !s.prog.sclass || !s.saf.inForce.isEmpty || !s.crs.running || s.saf.force ||
  s.saf.hwSafe

/-- A program runs and no warm reset has been started: the condition under which the compute die
works (R531, step 2). -/
def working (s : State) : Bool := s.crs.running && s.saf.resetReq.isNone && !s.saf.hwSafe

end Sys2Proof.Machine
end

