-- ==== Sys2Proof/Machine/Faults.lean ====
section
/-!
DEFINITION. The gutter and the response to faults (R519 to R536): a record enters the gutter's queue,
a fault is transient, starts a warm reset, or is lasting.
-/

namespace Sys2Proof.Machine

/-! ### Slot descriptors and the state of R124 -/

def descValid (d : W32) : Bool := d.getLsbD 0
def descEntry (d : W32) : Nat := field d.toNat 1 10
def descNext (d : W32) : BitVec 3 := BitVec.ofNat 3 (field d.toNat 11 3)
def descIq (d : W32) (q : Nat) : Bool := d.getLsbD (14 + q)
def descOq (d : W32) (q : Nat) : Bool := d.getLsbD (22 + q)

def slotDescOf (x : Rafter) (s : BitVec 3) : W32 := x.slotDesc.getD s.toNat 0

/-- The first slot from `s`, following NEXT, in which input queue `q` is active (R118). -/
def firstActive (x : Rafter) (q : Nat) : Nat → BitVec 3 → BitVec 3
  | 0, s => s
  | n + 1, s =>
    if descIq (slotDescOf x s) q then s else firstActive x q n (descNext (slotDescOf x s))

/-- A rafter at the start of a course (R124, R208, R216): active slot the course entry slot, counters
at 0, queues empty, admission slots set; buffers and weight registers empty (R145, R266), stochastic
counts 0 (R156) and translations dropped (R408). -/
def atCourseStart (x : Rafter) : Rafter :=
  { x with
    seq := { Seq.reset with slot := x.entry, idx := descEntry (slotDescOf x x.entry) }
    iq := (List.range 8).map (fun q => { Queue.reset with admSlot := firstActive x q 8 x.entry })
    oq := List.replicate 8 Queue.reset
    stu := List.replicate 4 Stu.reset
    units := List.replicate 10 []
    hold := false, idle := false, progress := 0
    seState := 0, seXpose := false, seDesc := 0, spReads := [], spWrites := [], spOut := [], jobs := []
    acc := List.replicate 2 Acc.reset, live := none, shadow := none
    seCount := 0, taCount := 0, veCount := 0, reCount := 0
    taType := 0, taMode := 0, chain := [], reRow := 0, rePass := 0, tlb := [] }

/-! ### The state of a truss after a reset -/

/-- An entry of a spar that the image leaves alone (R223). -/
def sparDefault : SparEntry := { count := 0, phase := false, rest := 0 }

/-- The restore step of a warm reset (R324). -/
def restoreSpars (x : Truss) : Truss :=
  { x with spars := (x.spars.map (fun e => (e.1, { e.2 with count := e.2.rest, phase := false }))).filter
             (fun e => e.2 ≠ sparDefault)
           waits := [], inputs := List.replicate 7 [], replies := [], served := 6 }

/-- A truss is reset: its spar table is restored, and its part of the mesh is emptied (R324, R342). -/
def resetTruss (t : Truss) : Truss :=
  { restoreSpars t with
    bufs := [], replay := [], inject := [], outbound := [], turn := [], sysTimes := [], rx := [], got := [], bankWait := [] }

/-! ### The gutter (R522, R523) -/

def gutterRec (s : State) (u : UnitId) (c : GClass) (code : Byte) (w0 w1 w2 : W32) : GutterRec :=
  { course := s.crs.course, cycle := BitVec.ofNat 32 (ticksToCycles s (s.now - s.crs.t0)), unit := u,
    cls := c, code := code, w0 := w0, w1 := w1, w2 := w2 }

/-- A record offered to the gutter: accepted into the 256-place queue, or dropped and counted when
only 32 places remain and its class may be dropped. -/
def gutterPut (s : State) (g : GutterRec) : State :=
  if (g.cls = .event ∨ g.cls = .transient) ∧ 224 ≤ s.saf.queue.length then
    { s with saf := { s.saf with lost := satInc16 s.saf.lost, dropped := s.saf.dropped + 1 } }
  else { s with saf := { s.saf with queue := s.saf.queue ++ [g] } }

def event (s : State) (u : UnitId) (code : Byte) (w1 w2 : W32) : State :=
  gutterPut s (gutterRec s u .event code 0 w1 w2)

/-- SAF_LAST after a fault becomes lasting: the first since the last program load is kept (R524). -/
def latchLast (s : State) (u : UnitId) (code : Byte) : W32 :=
  if field s.saf.last.toNat 24 8 = 0 then BitVec.ofNat 32 (code.toNat * 2 ^ 24 + u.toNat)
  else s.saf.last

/-! ### Starting a warm reset (R531, R534 to R536) -/

/-- Warm resets that started within the last 16 courses. -/
def recentResets (s : State) : List W64 :=
  s.saf.resetCourses.filter (fun c => decide (s.crs.course.toNat < c.toNat + 16))

/-- A fault that starts a warm reset: one runs at a time, and the fifth within 16 courses also raises
RESETRATE, which is lasting (R536). -/
def startReset (s : State) (g : GutterRec) (lasting : Bool) : State :=
  match s.saf.resetReq with
  | some _ => s
  | none =>
    let tooMany := decide (4 ≤ (recentResets s).length)
    let saf1 := { s.saf with
      resetReq := some { trigger := g, seq := s.saf.seq + BitVec.ofNat 32 (s.saf.queue.length - 1), lasting := lasting || tooMany, phase := s.crs.phase, raised := s.now }
      resetsTotal := satInc16 s.saf.resetsTotal
      resetCourses := recentResets s ++ [s.crs.course]
      cause := BitVec.ofNat 32 (g.code.toNat * 2 ^ 24 + s.crs.phase.toNat * 2 ^ 16 + g.unit.toNat)
      tainted := true }
    let s1 := { s with saf := saf1 }
    if tooMany then
      let saf2 := { s1.saf with
        fault := s1.saf.fault ||| 0x10
        inForce := s1.saf.inForce ++ [(ridgeUnit, 0xED)], proven := false
        last := latchLast s ridgeUnit 0xED }
      let s2 := { s1 with saf := saf2, pkg := { s1.pkg with alertLow := true } }
      sendMsix (gutterPut s2 (gutterRec s2 ridgeUnit .lasting 0xED 0 0 0)) 1
    else s1

/-- The unit concerned is reset where a fault would start a warm reset and no program is loaded
(R535): a rafter, whose translations stay (R408), or a truss with its router; the others hold no work of a course (log 118). -/
def resetUnit (s : State) (u : UnitId) : State :=
  if unitKind u = 0 then updRafter s (unitInst u) (fun x => { atCourseStart x with tlb := x.tlb })
  else if unitKind u = 1 ∨ unitKind u = 8 then { s with trs := s.trs.modify (unitInst u) resetTruss }
  else s

/-- The response to a fault becoming lasting (R524): FSAFE_N, vector 1, SAF_LAST, SAF_STATUS.LASTING, SMB_ALERT_N
and, while a program runs, a warm reset. -/
def lastingResponse (s : State) (u : UnitId) (code : Byte) (info w1 w2 : W32) : State :=
  let g := gutterRec s u .lasting code info w1 w2
  let saf1 := { s.saf with
    inForce := s.saf.inForce ++ [(u, code)], proven := false, tainted := true
    last := latchLast s u code }
  let s1 := { s with saf := saf1, pkg := { s.pkg with alertLow := true } }
  let s2 := sendMsix (gutterPut s1 g) 1
  if s.crs.running then startReset s2 g true
  else if s.prog.loaded then s2 else resetUnit s2 u

/-- A fault of class RESET (Table 15.6): a warm reset while a program runs, else the unit alone. -/
def resetResponse (s : State) (u : UnitId) (code : Byte) (info w1 w2 : W32) : State :=
  let g := gutterRec s u .reset code info w1 w2
  let s1 := gutterPut s g
  let s2 := { s1 with saf := { s1.saf with tainted := true } }
  if s.crs.running then startReset s2 g false
  else if s.prog.loaded then s2 else resetUnit s2 u

/-- A reset-starting fault in a decision phase that has been re-run, or in that of a course that
started late, is lasting (Table 15.6, R72). -/
def resetIsLasting (s : State) : Bool :=
  s.crs.phase == 1 && (s.crs.reranFlag || s.crs.delayed)

/-! ### Transient faults (R519, R520) -/

def transientsOf (s : State) (u : UnitId) : Nat :=
  (s.saf.transients.filter (fun e => e.1 = u ∧ s.now < e.2 + 10000000)).length

/-- The unit has used up its transient faults, so its next fault is lasting without a retry. -/
def exhausted (s : State) (u : UnitId) : Bool :=
  s.saf.tcfg ≠ 0 && decide (s.saf.tcfg.toNat < transientsOf s u)

/-- A fault whose retry passed: counted against the unit and written with class TRANSIENT. -/
def transientFault (s : State) (u : UnitId) (code : Byte) (info w1 w2 : W32) : State :=
  let s1 := { s with saf := { s.saf with
    transients := (s.saf.transients.filter (fun e => s.now < e.2 + 10000000)) ++ [(u, s.now)]
    tainted := true } }
  gutterPut s1 (gutterRec s1 u .transient code info w1 w2)

/-- A retried fault (R519): `again` says the retry failed too. The second component says whether the
unit of work went through. -/
def retried (s : State) (u : UnitId) (code : Byte) (info w1 w2 : W32) (again : Bool) :
    State × Bool :=
  if again || exhausted s u then (lastingResponse s u code info w1 w2, false)
  else (transientFault s u code info w1 w2, true)

end Sys2Proof.Machine
end

