-- ==== Sys2Proof/Machine/Spars.lean ====
section
/-!
DEFINITION. Spars (R223 to R231, R315 to R324, R340): messages into a spar table's inputs, one
operation applied, waits tested, replies returned.
-/

namespace Sys2Proof.Machine

def sparTruss (i : SparId) : Nat := field i.toNat 12 4
def sparIndex (i : SparId) : BitVec 12 := BitVec.ofNat 12 i.toNat

def sparEntry (t : Truss) (i : BitVec 12) : SparEntry := tableGet sparDefault t.spars i.toNat

def setSpar (t : Truss) (i : BitVec 12) (e : SparEntry) : Truss :=
  { t with spars := tablePut sparDefault t.spars i.toNat e }

/-- NONREST of R323. -/
def nonRest (t : Truss) : Nat := (t.spars.filter (fun e => e.2.count ≠ e.2.rest)).length

/-- FIRST of R323. -/
def firstNonRest (t : Truss) : Nat :=
  match t.spars.filter (fun e => e.2.count ≠ e.2.rest) with
  | [] => 0
  | e :: _ => e.1

/-! ### Sending (R224, R317) -/

/-- The input of a table that a unit's message takes: its position in the table's own truss, or the
mesh. -/
def sparInput (s : State) (src : UnitId) (t : Nat) : Nat :=
  if unitKind src = 0 then
    match physOf s (unitInst src) with
    | some p => if p / 6 = t then p % 6 else 6
    | none => 6
  else 6

/-- A spar operation leaves a unit for the table that its identifier names. -/
def sendSpar (s : State) (src : UnitId) (tag : W16) (spar : SparId) (op : SparOp) (t : W16) (v : W32) : State :=
  let tn := sparTruss spar
  let i := sparInput s src tn
  let s1 := if unitKind src = 0 then updRafter s (unitInst src) (fun x => hitRafter x 0x60 1) else s
  updTruss s1 tn (fun x => { x with
    inputs := x.inputs.modify i (· ++ [{ src := src, tag := tag, op := op, index := sparIndex spar, t := t, v := v }]) })

/-- A completion addition, unless the spar is 0xFFFF (R205). -/
def signalDone (s : State) (src : UnitId) (tag : W16) (spar : SparId) : State :=
  if spar = 0xFFFF then s else sendSpar s src tag spar .signalAdd 0 1

/-- The TAG of the messages of the instruction at index `i` of the active slot. -/
def placeTag (x : Rafter) (i : Nat) : W16 := BitVec.ofNat 16 (x.seq.slot.toNat * 1024 + i)

/-! ### Waits (R318 to R320, R225, R226) -/

/-- The wait-list place of a waiter (R319); an eave unit or link engine takes its second place when the
first is in use. -/
def waitPlace (t : Truss) (u : UnitId) : Nat :=
  let base := if unitKind u = 2 then 96 + 2 * unitInst u
    else if unitKind u = 4 then 112 + 2 * unitInst u else unitInst u
  if (unitKind u = 2 ∨ unitKind u = 4) ∧ t.waits.any (fun w => w.place = base) then base + 1
  else base

/-- A wait's condition over an entry. An ARRIVE.W is satisfied by a PHASE other than its tag. -/
def waitHolds (w : SparWait) (e : SparEntry) : Bool :=
  match w.op with
  | .waitEq => e.count = w.v
  | .arriveW => e.phase != w.phase
  | _ => w.v ≤ e.count

/-- The entry after a wait has been satisfied: WAIT.DEC subtracts. -/
def waitTake (w : SparWait) (e : SparEntry) : SparEntry :=
  if w.op = .waitDec then { e with count := e.count - w.v } else e

def repOf (t : Nat) (u : UnitId) (tag : W16) (i : BitVec 12) (op : SparOp) (v : W32) (e : SparEntry) (ovf : Bool) :
    SparRep :=
  { dest := u, tag := tag, spar := BitVec.ofNat 16 (t * 4096 + i.toNat), op := op, v := v, count := e.count,
    phase := e.phase, ovf := ovf }

/-- One pass over the waits of a spar in registration order: the entry and the replies, the waits that
stay, and whether a subtraction changed COUNT. -/
def testPass (t : Nat) (i : BitVec 12) (e : SparEntry) :
    List SparWait → SparEntry × List SparWait × List SparRep × Bool
  | [] => (e, [], [], false)
  | w :: ws =>
    if w.index = i ∧ waitHolds w e then
      let e' := waitTake w e
      let r := testPass t i e' ws
      (r.1, r.2.1, repOf t w.unit w.tag i w.op w.v e' false :: r.2.2.1, r.2.2.2 || decide (e' ≠ e))
    else
      let r := testPass t i e ws
      (r.1, w :: r.2.1, r.2.2)

/-- The waits of a spar are tested until a pass changes nothing (R226). -/
def testWaits (t : Nat) (i : BitVec 12) : Nat → Truss → Truss
  | 0, x => x
  | n + 1, x =>
    let r := testPass t i (sparEntry x i) x.waits
    let x' := hitTruss { setSpar x i r.1 with waits := r.2.1, replies := x.replies ++ r.2.2.1 } 0x111
      r.2.2.1.length
    if r.2.2.2 then testWaits t i n x' else x'

def testAll (t : Nat) (i : BitVec 12) (x : Truss) : Truss := testWaits t i (x.waits.length + 1) x

/-- A wait registered and tested at once (R318). -/
def registerWait (t : Nat) (m : SparMsg) (phase : Bool) (x : Truss) : Truss :=
  let w : SparWait := { place := waitPlace x m.src, unit := m.src, tag := m.tag, index := m.index, op := m.op,
                        v := m.v, phase := phase }
  let x1 := { x with waits := x.waits ++ [w] }
  let x2 := if x1.waitMax.toNat < x1.waits.length then
      { x1 with waitMax := BitVec.ofNat 8 x1.waits.length } else x1
  testAll t m.index x2

/-! ### Applying an operation -/

/-- Table 9.1: the operations a unit may send. -/
def sparPermitted (u : UnitId) (op : SparOp) : Bool :=
  if unitKind u = 0 then op ≠ .other
  else if unitKind u = 2 ∨ unitKind u = 4 then
    op = .signalAdd || op = .waitGe || op = .waitEq || op = .read
  else false

/-- ARRIVE (R229): the arrival that reaches T returns COUNT to rest and toggles PHASE. -/
def arriveEntry (e : SparEntry) (t : W16) : SparEntry :=
  if e.count + 1 = t.zeroExtend 32 then { e with count := e.rest, phase := !e.phase }
  else { e with count := e.count + 1 }

/-- A permitted operation applied to a table (R225 to R231). -/
def applySpar (t : Nat) (m : SparMsg) (x : Truss) : Truss :=
  let e := sparEntry x m.index
  match m.op with
  | .signalAdd =>
    if e.count.toNat + m.v.toNat < 2 ^ 32 then
      testAll t m.index (setSpar x m.index { e with count := e.count + m.v })
    else { x with replies := x.replies ++ [repOf t m.src m.tag m.index m.op m.v e true] }
  | .signalSet => testAll t m.index (setSpar x m.index { e with count := m.v })
  | .arrive => testAll t m.index (setSpar x m.index (arriveEntry e m.t))
  | .arriveW =>
    let x1 := registerWait t m e.phase x
    testAll t m.index (setSpar x1 m.index (arriveEntry e m.t))
  | .waitGe | .waitEq | .waitDec => registerWait t m e.phase x
  | .read => { x with replies := x.replies ++ [repOf t m.src m.tag m.index m.op m.v e false] }
  | .other => x

/-! ### The table's inputs (R317) -/

/-- The next input in round-robin order, starting after the one served last, that holds an
operation. -/
def nextInput (x : Truss) : Option Nat :=
  ((List.range 7).map (fun k => (x.served + 1 + k) % 7)).find?
    (fun i => !(x.inputs.getD i []).isEmpty)

def setSparFault (x : Truss) (bit code : Nat) (i : Nat) : Truss :=
  { x with sparFault := x.sparFault ||| BitVec.ofNat 32 (2 ^ bit)
           sparInfo := BitVec.ofNat 32 (code * 2 ^ 24 + i) }

/-- A lasting fault of a spar table (Table 9.9). -/
def sparTableFault (s : State) (t bit code i : Nat) : State :=
  let s1 := updTruss s t (fun x => setSparFault x bit code i)
  lastingResponse s1 (trussUnit t) (BitVec.ofNat 8 code) (trussAt s1 t).sparInfo 0 0

/-- The receiving unit that a unit identifier names: NMUs 0 to 7, then link engines 0 to 7 (Table 11.3). -/
def updIndex (u : UnitId) : Option Nat :=
  if unitKind u = 2 ∧ unitInst u < 8 then some (unitInst u)
  else if unitKind u = 4 ∧ unitInst u < 8 then some (8 + unitInst u) else none

def updUnitId (k : Nat) : UnitId := if k < 8 then eaveUnit k else linkUnit (k - 8)

/-- A resent addition that the table takes: its rafter's fault was transient (Table 6.12, R519). -/
def clearResent (s : State) (t : Nat) (m : SparMsg) (before : Truss) : State :=
  if m.op = .signalAdd ∧ unitKind m.src = 0 ∧
      (sparEntry before m.index).count.toNat + m.v.toNat < 2 ^ 32 then
    match (rafterOf s (unitInst m.src)).seq.resent.find? (fun r =>
        r.1 = BitVec.ofNat 16 (t * 4096 + m.index.toNat) ∧ r.2.1 = m.v) with
    | none => s
    | some r =>
      transientFault (updRafter s (unitInst m.src) (fun x => { x with seq := { x.seq with
        resent := x.seq.resent.erase r } })) m.src 0x63 r.2.2 (r.1.zeroExtend 32) 0
  else if m.op = .signalAdd ∧ (sparEntry before m.index).count.toNat + m.v.toNat < 2 ^ 32 then
    match updIndex m.src with
    | none => s
    | some k =>
      let u := s.upd.units.getD k UpdUnit.reset
      match u.resent.find? (fun r => r.1 = BitVec.ofNat 16 (t * 4096 + m.index.toNat) ∧ r.2.1 = m.tag) with
      | none => s
      | some r =>
        transientFault { s with upd := { s.upd with units := s.upd.units.set k { u with resent := u.resent.erase r } } }
          m.src 0x94 r.2.2 (r.1.zeroExtend 32) 0
  else s

/-- SPAR_OPERATION (R317, R318, R321, R340): the head operation of the next input is applied. A
single-bit error of the entry is corrected and counted; a double-bit error, and an operation that its
sender may not send, are lasting faults and the operation is discarded. -/
def sparOperation (s : State) (t : Nat) (ecc : EccResult) : State :=
  let x := trussAt s t
  match nextInput x with
  | none => s
  | some i =>
    match x.inputs.getD i [] with
    | [] => s
    | m :: rest =>
      let x1 := { x with inputs := x.inputs.set i rest, served := i }
      if !sparPermitted m.src m.op then
        sparTableFault (setTruss s t x1) t 2 0x76 m.index.toNat
      else
        match ecc with
        | .double => sparTableFault (setTruss s t x1) t 0 0x74 m.index.toNat
        | .waitParity k => sparTableFault (setTruss s t x1) t 1 0x75 k.toNat
        | .single =>
          clearResent (setTruss s t (hitTruss (applySpar t m { x1 with sparFix := satInc16 x1.sparFix }) 0x110 1)) t m x1
        | .clean => clearResent (setTruss s t (hitTruss (applySpar t m x1) 0x110 1)) t m x1

end Sys2Proof.Machine
end

