-- ==== Sys2Proof/Machine/Queues.lean ====
section
/-!
DEFINITION. Queues, tokens, credits, hip tokens and slot switches (R97 to R103, R115 to R122, R607),
and the faults of Table 3.8.
-/

namespace Sys2Proof.Machine

/-! ### Tokens (R98, Table 3.2) -/

def parityOf : Nat → Nat → Bool
  | 0, _ => false
  | n + 1, x => (x % 2 == 1) != parityOf n (x / 2)

def tokKind (h : W64) : Nat := field h.toNat 0 2
def tokLen (h : W64) : Nat := field h.toNat 2 9
def tokSeq (h : W64) : W16 := BitVec.ofNat 16 (field h.toNat 12 16)
def tokEpoch (h : W64) : BitVec 4 := BitVec.ofNat 4 (field h.toNat 28 4)
def tokSrc (h : W64) : UnitId := BitVec.ofNat 16 (field h.toNat 32 16)
def tokSrcQ (h : W64) : Nat := field h.toNat 48 3
def tokSe (h : W64) : Bool := h.getLsbD 51

/-- One even parity bit for each 8 B of a payload, at most `n` (log 97). -/
def parityBits : Nat → List Byte → Nat
  | 0, _ => 0
  | _, [] => 0
  | n + 1, bs => b2n (parityOf 64 (natOfBytes (bs.take 8))) + 2 * parityBits n (bs.drop 8)

def payloadParity (data : List Byte) : BitVec 64 := BitVec.ofNat 64 (parityBits 64 data)

/-- HPAR and payload parity check. -/
def tokenParityOk (t : Token) : Bool := t.par == payloadParity t.data && !parityOf 64 t.hdr.toNat

/-- A header with its even parity bit. -/
def mkHeader (kind len : Nat) (seq : W16) (epoch : BitVec 4) (src : UnitId) (srcq : Nat) (se : Bool) :
    W64 :=
  let h := kind + len * 2 ^ 2 + seq.toNat * 2 ^ 12 + epoch.toNat * 2 ^ 28 + src.toNat * 2 ^ 32 +
    (if se then 0 else srcq) * 2 ^ 48 + b2n se * 2 ^ 51
  BitVec.ofNat 64 (h + b2n (parityOf 63 h) * 2 ^ 63)

def isData (t : Token) : Bool := tokKind t.hdr == 0
def isControl (t : Token) : Bool := tokKind t.hdr == 1
def isHip (t : Token) : Bool := tokKind t.hdr == 2

def mkToken (kind : Nat) (seq : W16) (epoch : BitVec 4) (src : UnitId) (srcq : Nat) (se : Bool)
    (data : List Byte) : Token :=
  { hdr := mkHeader kind (if kind = 0 then data.length - 1 else 0) seq epoch src srcq se
    data := data, par := payloadParity data }

/-- COUNT and PSLOT of a hip token (Table 3.3). -/
def hipData (count : BitVec 24) (slot : BitVec 3) : List Byte :=
  bytesOf 4 (count.toNat + slot.toNat * 2 ^ 24)

def hipCount (t : Token) : BitVec 24 := BitVec.ofNat 24 (natOfBytes (t.data.take 3))

/-! ### Routes (R99) -/

def routeOf (x : Rafter) (slot : BitVec 3) (q : Nat) : W32 := tableGet 0 x.route (slot.toNat * 16 + q)
def routeBound (w : W32) : Bool := w.getLsbD 31
def routeSe (w : W32) : Bool := w.getLsbD 19
def routePeerQ (w : W32) : Nat := field w.toNat 16 3
def routePeer (w : W32) : UnitId := BitVec.ofNat 16 w.toNat

/-- A route at one of its queues: PEER, PEERQ and SE. -/
def routeKey (w : W32) : Nat := w.toNat % 2 ^ 20

/-- The route from or to the own stream engine, whose PEER and PEERQ read 0. -/
def seKey : Nat := 2 ^ 19

def iqOf (x : Rafter) (q : Nat) : Queue := x.iq.getD q Queue.reset
def oqOf (x : Rafter) (q : Nat) : Queue := x.oq.getD q Queue.reset
def setIq (x : Rafter) (q : Nat) (v : Queue) : Rafter := { x with iq := x.iq.set q v }
def setOq (x : Rafter) (q : Nat) (v : Queue) : Rafter := { x with oq := x.oq.set q v }
def depthOf (x : Rafter) (q : Nat) : Nat := (x.depth.getD q 0).toNat

/-- The route of an output queue in the active slot, and of an input queue in its admission slot. -/
def outRoute (x : Rafter) (q : Nat) : W32 := routeOf x x.seq.slot (8 + q)
def inRoute (x : Rafter) (q : Nat) : W32 := routeOf x (iqOf x q).admSlot q

/-- EPOCH of the tokens that an output queue stamps, and of those that an input queue admits: hip tokens of the route,
counted at each end (log 98). -/
def outEpoch (x : Rafter) (q : Nat) : BitVec 4 := tableGet 0 (oqOf x q).epochs (routeKey (outRoute x q))
def inEpoch (x : Rafter) (q : Nat) : BitVec 4 := tableGet 0 (iqOf x q).epochs (routeKey (inRoute x q))

/-- An output queue of the active slot is bound to the rafter's own stream engine. -/
def oqToSe (x : Rafter) (q : Nat) : Bool := routeBound (outRoute x q) && routeSe (outRoute x q)

def iqFromSe (x : Rafter) (q : Nat) : Bool :=
  let w := routeOf x x.seq.slot q
  routeBound w && routeSe w

/-! ### Units (R89) -/

def unitQ (x : Rafter) (u : Nat) : List InFlight := x.units.getD u []
def setUnitQ (x : Rafter) (u : Nat) (l : List InFlight) : Rafter := { x with units := x.units.set u l }

def unitIndex : ExecUnit → Nat
  | .seq => 0
  | .stream => 1
  | .tensor => 2
  | .vector => 3
  | .row => 4
  | .steer u => 5 + u.toNat
  | .issue => 9

/-! ### Reservations (R91, R262) -/

/-- The queues Q0 to Q3 in use. -/
def steerQueues (o : SteerOps) : List Nat :=
  ([o.q0, o.q1, o.q2, o.q3].take (o.n.toNat + 1)).map (·.toNat)

/-- Data inputs of a mode (Table 3.5). -/
def stepInputs (mode : BitVec 3) (o : SteerOps) : List Nat :=
  if mode = 1 ∨ mode = 3 then steerQueues o else if mode = 2 ∨ mode = 4 then [o.xq.toNat] else []

/-- Output queues on which one step certainly writes, in the order of its writes. That of a ROUTE step is known only from
its control token, so a ROUTE reserves no entries (log 99). -/
def stepOutputs (mode : BitVec 3) (o : SteerOps) : List Nat :=
  if mode = 1 then [o.xq.toNat] else if mode = 3 then (steerQueues o).map (fun _ => o.xq.toNat)
  else if mode = 4 then steerQueues o else []

/-- Entries of an output queue that steering instructions have reserved and not filled. -/
def steerResv (x : Rafter) (q : Nat) : Nat :=
  x.stu.foldl (fun a u =>
    let outs := stepOutputs u.mode u.ops
    a + (outs.count q * u.left - (outs.take u.part).count q) +
      u.later.foldl (fun b w => b + (stepOutputs w.mode w.ops).count q * w.left) 0) 0

/-- Entries of an output queue that products have reserved and not filled. -/
def productResv (x : Rafter) (q : Nat) : Nat :=
  (unitQ x 2).foldl (fun a e => match e.resv with
    | some (k, m) => if k = q then a + m else a
    | none => a) 0

/-- Free entries of an output queue that no product has reserved: what a steering step may fill. -/
def stepRoom (x : Rafter) (q : Nat) : Nat := depthOf x (8 + q) - (oqOf x q).tokens.length - productResv x q

/-- Unreserved free entries of an output queue. -/
def oqFree (x : Rafter) (q : Nat) : Nat := stepRoom x q - steerResv x q

/-- Data tokens of an input queue that a DRAIN in progress, or one that waits in the sequencer's queue, has reserved. -/
def drainResv (x : Rafter) (q : Nat) : Nat :=
  (match x.seq.drain with
   | some (d, k) => if d.toNat = q then k else 0
   | none => 0) +
  (unitQ x 0).foldl (fun a e => match e.job with
    | some (.drain d k) => if d.toNat = q then a + k else a
    | _ => a) 0

/-! ### Faults of a rafter's dataflow (R127, Table 3.8) -/

def faultInfoWord (seen : W16) (code : Nat) (stu out : Bool) (index : Nat) : W32 :=
  BitVec.ofNat 32 (seen.toNat * 2 ^ 16 + code * 2 ^ 8 + b2n stu * 2 ^ 5 + b2n out * 2 ^ 4 + index)

/-- The fault bit, RFT_FAULT_INFO and RFT_FAULT_EXP of a dataflow fault. -/
def noteDataflow (x : Rafter) (code : Nat) (info : W32) (expect : W16) : Rafter :=
  { x with fault := x.fault ||| BitVec.ofNat 32 (2 ^ (code - 0x30)), faultInfo := info
           faultExp := expect.zeroExtend 32 }

/-- The same instruction or steering step raised this fault in the course before (R127, R304). -/
def recurs (s : State) (x : Rafter) (code : Byte) (slot : BitVec 3) (idx : Nat) : Bool :=
  x.recur.any (fun r => r.code = code ∧ r.slot = slot ∧ r.idx = idx ∧ r.course + 1 = s.crs.course)

def noteRecur (s : State) (x : Rafter) (code : Byte) (slot : BitVec 3) (idx : Nat) : Rafter :=
  { x with recur := (x.recur.filter (fun r => r.course + 1 = s.crs.course ∨ r.course = s.crs.course)) ++
      [{ code := code, slot := slot, idx := idx, course := s.crs.course }] }

/-- The response to QKIND, STMIS, HIPC, HIPU, HIPO, DAH, AGB and to a shape fault (R127, R304): lasting
in the decision phase or when the same place raises it in the course that follows, else a warm reset. -/
def stateFault (s : State) (n : RafterId) (code : Byte) (idx : Nat) (info w1 w2 : W32) : State :=
  let x := rafterOf s n
  let lasting := s.crs.phase == 1 || recurs s x code x.seq.slot idx
  let s1 := updRafter s n (fun y => noteRecur s y code y.seq.slot idx)
  if lasting then lastingResponse s1 (rafterUnit n) code info w1 w2
  else resetResponse s1 (rafterUnit n) code info w1 w2

/-- A dataflow fault that is not retried: its code, the index of the instruction that raises it, or of the one that set
the steering unit's mode, RFT_FAULT_INFO, and the expected value. -/
structure FlowFault where
  code : Nat
  place : Nat
  info : W32
  expect : W16
deriving DecidableEq, Repr

/-- Dataflow faults of one cycle, the lowest code first: every bit is set, RFT_FAULT_INFO is that of the lowest code, and
each has its own response and record (R127; DETAIL words in log 104). -/
def dataflowFaults (s : State) (n : RafterId) (l : List FlowFault) : State :=
  let s1 := updRafter s n (fun x => l.foldr (fun f y => noteDataflow y f.code f.info f.expect) x)
  l.foldl (fun a f => stateFault a n (BitVec.ofNat 8 f.code) f.place f.info (f.expect.zeroExtend 32) 0) s1

/-- One dataflow fault, raised by rafter `n` at place `idx`. -/
def dataflowFault (s : State) (n : RafterId) (code : Nat) (idx : Nat) (info : W32) (expect : W16) :
    State := dataflowFaults s n [{ code := code, place := idx, info := info, expect := expect }]

/-! ### Producing tokens (R100, R101, R115 to R117) -/

/-- Sends as many kept tokens as there are credits for the route; a hip token gives up the rest (R119), and a data token
counts in the firing counter (R115). -/
def pumpQueue (k : Nat) : Nat → Queue → Queue
  | 0, q => q
  | n + 1, q =>
    match q.tokens[q.sent]? with
    | none => q
    | some t =>
      let h := tableGet 0 q.held k
      if h = 0 then q
      else pumpQueue k n { q with
        sent := q.sent + 1
        held := tablePut 0 q.held k (if isHip t then 0 else h - 1)
        fired := if isData t then q.fired + 1 else q.fired }

def pump (k : Nat) (q : Queue) : Queue := pumpQueue k q.tokens.length q

/-- Tokens of an earlier slot stand at the head of an output queue until their consumer acknowledges them (R102). -/
def staleHead (o : Queue) : Bool := decide (b2n o.hipSent < (o.tokens.filter isHip).length)

/-- A token appended to an output queue, stamped by the route's counters; a hip token closes the epoch. The own stream
engine is at hand, so a token on its route counts as sent once it is in the queue. -/
def pushOut (n : RafterId) (x : Rafter) (q kind : Nat) (data : List Byte) : Rafter :=
  let o := oqOf x q
  let k := routeKey (outRoute x q)
  let e := tableGet 0 o.epochs k
  let hip := decide (kind = 2)
  let o1 := { o with
    tokens := o.tokens ++ [mkToken kind o.seq e (rafterUnit n) q false data]
    seq := if hip then 0 else o.seq + 1
    epochs := if hip then tablePut 0 o.epochs k (e + 1) else o.epochs
    hipSent := o.hipSent || hip }
  let o2 := if oqToSe x q then { o1 with
      sent := o1.tokens.length, fired := if kind = 0 then o.fired + 1 else o.fired }
    else pump k o1
  hitRafter (setOq x q o2) 0x51 (o2.sent - o.sent)

/-- COUNT of a hip token that follows what stands in an output queue: data tokens sent, and those still to send. -/
def hipTotal (o : Queue) : BitVec 24 := o.fired + BitVec.ofNat 24 ((o.tokens.drop o.sent).filter isData).length

/-- The hip token of an output queue (R116). -/
def pushHip (n : RafterId) (x : Rafter) (q : Nat) : Rafter :=
  pushOut n x q 2 (hipData (hipTotal (oqOf x q)) x.seq.slot)

/-- An output queue still holds a hip token that it has not sent. -/
def hipUnsent (q : Queue) : Bool := (q.tokens.drop q.sent).any isHip

/-- The lowest output queue of a mask. -/
def lowestOf (mask : Byte) : Option Nat := (List.range 8).find? (fun q => mask.getLsbD q)

/-- Hip tokens sent in ascending queue order, each once its queue has a free entry and it has a credit; a queue that has
had its hip token in the slot stops them (R218). -/
def sendHips (n : RafterId) : Nat → Rafter → Rafter
  | 0, x => x
  | k + 1, x =>
    match x.seq.hips with
    | none => x
    | some (mask, entered) =>
      match lowestOf mask with
      | none => { x with seq := { x.seq with hips := none } }
      | some q =>
        if entered then
          if hipUnsent (oqOf x q) then x
          else sendHips n k { x with seq := { x.seq with hips := some (mask &&& ~~~(1#8 <<< q), false) } }
        else if (oqOf x q).hipSent || decide (oqFree x q = 0) then x
        else
          let y := pushHip n x q
          sendHips n k { y with seq := { y.seq with hips := some (mask, true) }, progress := 0 }

/-- The queue that stops HIP because its hip token has gone in the slot already (R218). -/
def hipsBlocked (x : Rafter) : Option Nat :=
  match x.seq.hips with
  | some (mask, false) => (lowestOf mask).filter (fun q => (oqOf x q).hipSent)
  | _ => none

/-- Entries of a unit that wait for `k` are finished. -/
def finishKind (x : Rafter) (u : Nat) (k : Await) : Rafter :=
  setUnitQ x u ((unitQ x u).map (fun e =>
    if e.kind = k ∧ e.job = none then { e with done := true } else e))

/-- The index of the HIP or DRAIN in progress. -/
def seqPlace (x : Rafter) (k : Await) : Nat :=
  match (unitQ x 0).find? (fun e => e.kind == k && e.job == none && !e.done) with
  | some e => e.place
  | none => x.seq.idx

/-- HIP and SLOT go on with their hip tokens; HIP has finished when the last is sent. -/
def hipsStep (s : State) (n : RafterId) : State :=
  match physOf s n with
  | none => s
  | some p =>
    let x := sendHips n 17 (rafterAt s p)
    match hipsBlocked x with
    | some q =>
      dataflowFault (setRafter s p x) n 0x39 (seqPlace x .hips) (faultInfoWord 0 0x39 false true q) 0
    | none => setRafter s p (if x.seq.hips = none then finishKind x 0 .hips else x)

/-! ### Completing instructions (R205) -/

/-- RFT_TA_STATUS.MODE once an instruction has completed: that of a later one that runs, else idle. -/
def modeAfter (x : Rafter) : BitVec 2 :=
  if (unitQ x 2).any (fun g => match g.kind with
    | .holds _ | .empties _ | .checks => true
    | _ => false) then x.taMode else 0

/-- What completing an entry does to its unit: a product's buffer holds its result, or a drain leaves it
EMPTY (R144). -/
def finishEntry (x : Rafter) (e : InFlight) : Rafter :=
  match e.kind with
  | .holds b => { x with acc := x.acc.modify (b2n b) (fun a =>
      if a.st = 1 ∧ !(unitQ x 2).any (fun g => g.kind == e.kind) then { a with st := 2 } else a)
                         taMode := modeAfter x }
  | .empties b => { x with acc := x.acc.set (b2n b) Acc.reset, taMode := modeAfter x }
  | .checks => { x with taMode := modeAfter x }
  | _ => x

/-- The oldest instruction of a unit completes if its operation has finished; its completion spar
receives an addition (R205), in unit order (R224). SLOT completes by its switch (R217). -/
def completeHead (s : State) (n : RafterId) (u : Nat) : State :=
  match physOf s n with
  | none => s
  | some p =>
    let x := rafterAt s p
    match unitQ x u with
    | [] => s
    | e :: rest =>
      if e.done ∧ e.acks = 0 then
        signalDone (setRafter s p (finishEntry { setUnitQ x u rest with progress := 0 } e)) (rafterUnit n)
          (placeTag x e.place) e.cspar
      else s

/-! ### Consuming tokens -/

/-- What a consumer of data tokens met at the head of an input queue. -/
inductive Took where
  | data | waits | hip | control
deriving DecidableEq, Repr

def headIs (q : Queue) : Took :=
  match q.tokens with
  | [] => .waits
  | t :: _ => if isData t then .data else if isHip t then .hip else .control

/-- Data tokens taken from the head of a queue, at most `n`; the number still to take and why it
stopped (R235). -/
def takeData : Nat → Queue → Queue × Nat × Took
  | 0, q => (q, 0, .data)
  | n + 1, q =>
    match headIs q with
    | .data => takeData n { q with tokens := q.tokens.tail, fired := q.fired + 1 }
    | w => (q, n + 1, w)

/-- COUNT [15:0] of the hip token at the head of a queue. -/
def headCount (v : Queue) : W16 :=
  match v.tokens with
  | [] => 0
  | t :: _ => BitVec.ofNat 16 (hipCount t).toNat

def low16 (c : BitVec 24) : W16 := BitVec.ofNat 16 c.toNat

/-- A DRAIN in progress consumes what has arrived (R235); a hip token before the count is met is a hip underrun (R121). -/
def drainStep (s : State) (n : RafterId) : State :=
  match physOf s n with
  | none => s
  | some p =>
    let x := rafterAt s p
    match x.seq.drain with
    | none => s
    | some (q, left) =>
      let r := takeData left (iqOf x q.toNat)
      let x1 := setIq x q.toNat r.1
      if r.2.1 = 0 then
        setRafter s p (finishKind { x1 with seq := { x1.seq with drain := none }, progress := 0 } 0 .drain)
      else
        let x2 := { x1 with seq := { x1.seq with drain := some (q, r.2.1) }
                            progress := if r.2.1 < left then 0 else x1.progress }
        match r.2.2 with
        | .hip => dataflowFault (setRafter s p x2) n 0x37 (seqPlace x .drain)
            (faultInfoWord (headCount r.1) 0x37 false false q.toNat) (low16 r.1.fired)
        | _ => setRafter s p x2

/-! ### Token kinds (Table 3.8) -/

/-- The consumer of an input queue that is at work: whether it takes control tokens there, and its index. -/
def consumerOf (x : Rafter) (q : Nat) : Option (Bool × Nat) :=
  match x.stu.find? (fun u => u.left ≠ 0 && ((u.mode = 1 || u.mode = 2) && u.ops.cq.toNat == q ||
      (stepInputs u.mode u.ops).contains q)) with
  | some u => some ((u.mode = 1 || u.mode = 2) && u.ops.cq.toNat == q, u.place)
  | none => if drainResv x q = 0 then none else some (false, seqPlace x .drain)

/-- The token at the head of a queue is of a kind that its consumer does not take, or of none. -/
def wrongKind (x : Rafter) (q : Nat) : Bool :=
  match (iqOf x q).tokens with
  | [] => false
  | t :: _ => tokKind t.hdr == 3 || (match consumerOf x q with
    | some (c, _) => if c then isData t else isControl t
    | none => false)

/-- QKIND for the token at the head of a queue (Table 3.8). -/
def kindFault (x : Rafter) (q : Nat) : FlowFault :=
  { code := 0x34
    place := match consumerOf x q with
      | some (_, i) => i
      | none => 1024 + q
    info := faultInfoWord (match (iqOf x q).tokens with
      | [] => 0
      | t :: _ => tokSeq t.hdr) 0x34 false false q
    expect := 0 }

/-- Tokens of a wrong kind that have come to a head are faults. -/
def kindCheck (s : State) (n : RafterId) : State :=
  let x := rafterOf s n
  let l := (List.range 8).filter (wrongKind x)
  if l.isEmpty || !working s then s else dataflowFaults s n (l.map (kindFault x))

/-! ### Admission (R102, R118, R119) -/

/-- The checks that fail on an arriving token, by code, lowest first. Where parity fails, SEQ, EPOCH and the source are
not recorded (R127). -/
def admissionFaults (n : RafterId) (x : Rafter) (q : Nat) (t : Token) (credit : Bool) : List Nat :=
  let v := iqOf x q
  let w := inRoute x q
  let src := tokSrc t.hdr
  let srcOk := routeBound w &&
    (if routeSe w then tokSe t.hdr && src == rafterUnit n else !tokSe t.hdr && src == routePeer w && tokSrcQ t.hdr == routePeerQ w)
  let room := credit && (if routeSe w then decide (v.tokens.length < depthOf x q) else v.credits ≠ 0)
  (if tokenParityOk t then
    (if tokSeq t.hdr ≠ v.seq then [0x31] else []) ++
    (if tokEpoch t.hdr ≠ inEpoch x q ∨ !srcOk then [0x32] else [])
   else [0x30]) ++
  (if room then [] else [0x33])

/-- The queue after admitting a token: a hip token opens the route's next epoch, moves the admission slot and
reclaims the route's credits. -/
def admitted (x : Rafter) (q : Nat) (t : Token) : Queue :=
  let v := iqOf x q
  let feed := if tokSe t.hdr then v.feed.tail else v.feed
  if isHip t then
    { v with tokens := v.tokens ++ [t], seq := 0, credits := 0, refused := none, feed := feed
             epochs := tablePut 0 v.epochs (routeKey (inRoute x q)) (inEpoch x q + 1)
             admSlot := firstActive x q 8 (descNext (slotDescOf x v.admSlot)) }
  else
    { v with tokens := v.tokens ++ [t], seq := v.seq + 1, credits := v.credits - 1, refused := none
             feed := feed }

/-- The transfer whose data token has been admitted to queue `q` awaits one less. -/
def admitOne (q : Nat) : List InFlight → List InFlight
  | [] => []
  | e :: es =>
    match e.kind with
    | .admits k left =>
      if k = q ∧ !e.done then { e with kind := .admits k (left - 1), done := decide (left ≤ 1) } :: es
      else e :: admitOne q es
    | _ => e :: admitOne q es

/-- The rafter after it has admitted a token. -/
def afterAdmission (x : Rafter) (q : Nat) (t : Token) : Rafter :=
  let y := { setIq x q (admitted x q t) with progress := 0 }
  let z := if tokSe t.hdr && isData t then setUnitQ y 1 (admitOne q (unitQ y 1)) else y
  hitRafter z 0x50 1

/-- Failing checks with the information word of each. -/
def admissionInfos (q : Nat) (t : Token) (codes : List Nat) : List (Byte × W32) :=
  codes.map (fun c => (BitVec.ofNat 8 c, faultInfoWord (tokSeq t.hdr) c false false q))

/-- Every failing check sets its bit; RFT_FAULT_INFO records the lowest code. -/
def noteAdmission (x : Rafter) (q : Nat) (t : Token) (codes : List Nat) : Rafter :=
  codes.foldr (fun c y => noteDataflow y c (faultInfoWord (tokSeq t.hdr) c false false q) (iqOf x q).seq) x

/-- The SEQ by which the resend of a refused token is known: its own, or the one due where its header cannot be
trusted. -/
def refusedSeq (v : Queue) (t : Token) (codes : List Nat) : W16 :=
  if codes.contains 0x30 then v.seq else tokSeq t.hdr

/-- TOKEN_ADMISSION (R102, R118, R127). -/
def tokenAdmission (s : State) (n : RafterId) (qi : BitVec 3) (t : Token) (credit : Bool) : State :=
  match physOf s n with
  | none => s
  | some p =>
    if !working s then s else
    let x := rafterAt s p
    let q := qi.toNat
    let v := iqOf x q
    let later := match v.refused with
      | some (sq, _) => tokSeq t.hdr ≠ sq && tokSeq t.hdr ≠ v.seq
      | none => false
    if later then s else
    match admissionFaults n x q t credit with
    | [] =>
      let before := match v.refused with
        | some (_, l) => l
        | none => []
      let s1 := before.foldl (fun a f => transientFault a (rafterUnit n) f.1 f.2 0 0)
        (setRafter s p (afterAdmission x q t))
      kindCheck (drainStep s1 n) n
    | c :: cs =>
      let l := admissionInfos q t (c :: cs)
      let x1 := setIq (noteAdmission x q t (c :: cs)) q { v with refused := some (refusedSeq v t (c :: cs), l) }
      let s1 := setRafter s p x1
      if v.refused.isSome || exhausted s (rafterUnit n) then
        l.foldl (fun a f => lastingResponse a (rafterUnit n) f.1 f.2 x1.faultExp 0) s1
      else s1

/-- The tokens from position `i` on are to be sent again: their credits and, for data tokens, their counts return. -/
def rewound (k i : Nat) (o : Queue) : Queue :=
  let again := (o.tokens.take o.sent).drop i
  { o with sent := i
           held := tablePut 0 o.held k (tableGet 0 o.held k + again.length)
           fired := o.fired - BitVec.ofNat 24 (again.filter isData).length }

/-- TOKEN_ACKNOWLEDGEMENT (R102): an acknowledged token is freed; a refused one is resent, with every
token after it, in order. -/
def tokenAck (s : State) (n : RafterId) (q : BitVec 3) (seq : W16) (refused : Bool) : State :=
  if !working s then s else
  hipsStep (updRafter s n (fun x =>
    let o := oqOf x q.toNat
    let k := routeKey (outRoute x q.toNat)
    if oqToSe x q.toNat && !staleHead o then x
    else if refused then
      match (o.tokens.take o.sent).findIdx? (fun t => tokSeq t.hdr == seq) with
      | some i => hitRafter (setOq x q.toNat (pump k (rewound k i o))) 0x51 (o.sent - i)
      | none => x
    else match o.tokens with
      | [] => x
      | t :: ts =>
        if tokSeq t.hdr = seq ∧ o.sent ≠ 0 then
          setOq x q.toNat { o with tokens := ts, sent := o.sent - 1 } else x)) n

/-- The slots of the ring from the active one on. -/
def ringFrom (x : Rafter) : Nat → BitVec 3 → List (BitVec 3)
  | 0, _ => []
  | k + 1, sl => sl :: ringFrom x k (descNext (slotDescOf x sl))

/-- The consumer of an output queue's route in a slot, where its admission slot binds it to this queue and it has room
for one more token. -/
def creditOn (s : State) (n : RafterId) (x : Rafter) (q : Nat) (sl : BitVec 3) : Option (RafterId × Nat × Nat) :=
  let w := routeOf x sl (8 + q)
  if !routeBound w || routeSe w || unitKind (routePeer w) ≠ 0 then none
  else
    let c := unitInst (routePeer w)
    let y := rafterOf s c
    let cq := routePeerQ w
    let v := iqOf y cq
    let b := inRoute y cq
    if routeBound b && !routeSe b && routePeer b == rafterUnit n && routePeerQ b == q &&
        decide (v.tokens.length + v.credits < depthOf y cq) then
      some (c, cq, routeKey w) else none

/-- The consumer that grants an output queue its next credit, and the route: the first around the ring from the active
slot that can (log 100). -/
def creditFrom (s : State) (n : RafterId) (x : Rafter) (q : Nat) : Option (RafterId × Nat × Nat) :=
  (ringFrom x 8 x.seq.slot).findSome? (creditOn s n x q)

/-- A credit reaches its producer. One for an epoch whose hip token has been sent is given up (R119). -/
def takeCredit (x : Rafter) (q k : Nat) (epoch : BitVec 4) : Rafter :=
  let o := oqOf x q
  if tableGet 0 o.epochs k ≠ epoch ∧ !hipUnsent o then x
  else
    let o1 := { o with held := tablePut 0 o.held k (tableGet 0 o.held k + 1) }
    let o2 := if k = routeKey (outRoute x q) then pump k o1 else o1
    hitRafter (setOq x q o2) 0x51 (o2.sent - o.sent)

/-- CREDIT (R101): the consumer grants one credit while it has room, and the producer sends. -/
def creditGrant (s : State) (n : RafterId) (qi : BitVec 3) : State :=
  if !working s then s else
  match creditFrom s n (rafterOf s n) qi.toNat with
  | none => s
  | some (c, cq, k) =>
    let epoch := inEpoch (rafterOf s c) cq
    let s1 := updRafter s c (fun y => setIq y cq { iqOf y cq with credits := (iqOf y cq).credits + 1 })
    hipsStep (updRafter s1 n (fun y => { takeCredit y qi.toNat k epoch with progress := 0 })) n

/-! ### Hip tokens at the head (R120, R121) -/

/-- A steering instruction still has to take a data token from queue `q`, where a hip token stands: an input of every
step; or an input that SELECT has been told to take, or that every input of it lacks. -/
def needsFrom (x : Rafter) (mode : BitVec 3) (o : SteerOps) (q : Nat) : Bool :=
  if mode = 1 then
    (stepInputs mode o).contains q &&
    ((match (iqOf x o.cq.toNat).tokens with
      | [] => false
      | t :: _ => isControl t && (steerQueues o)[field (natOfBytes (t.data.take 8)) 0 3]? == some q) ||
     (stepInputs mode o).all (fun k => headIs (iqOf x k) == .hip))
  else (stepInputs mode o).contains q

/-- A reservation of data tokens on an input queue is unmet: a DRAIN's, or that of a steering unit's instruction or of one
that waits for the unit. The index of the instruction. -/
def reservedOn (x : Rafter) (q : Nat) : Option Nat :=
  if drainResv x q ≠ 0 then some (seqPlace x .drain)
  else x.stu.findSome? (fun u =>
    if u.left ≠ 0 ∧ needsFrom x u.mode u.ops q then some u.place
    else (u.later.find? (fun w => needsFrom x w.mode w.ops q)).map (·.place))

/-- HIP_TOKEN_AT_HEAD (R120, R121): an unmet reservation and a COUNT that differs are faults of their own. -/
def hipAtHead (s : State) (n : RafterId) (qi : BitVec 3) : State :=
  if !working s then s else
  match physOf s n with
  | none => s
  | some p =>
    let x := rafterAt s p
    let q := qi.toNat
    let v := iqOf x q
    match v.tokens with
    | [] => s
    | t :: _ =>
      if !isHip t then s
      else
        let fault := fun (code place : Nat) => ({ code := code, place := place
                                                  info := faultInfoWord (headCount v) code false false q
                                                  expect := low16 v.fired } : FlowFault)
        let l := (if hipCount t ≠ v.fired then [fault 0x36 (1024 + q)] else []) ++
          (match reservedOn x q with
           | some i => [fault 0x37 i]
           | none => [])
        if l.isEmpty then setRafter s p (setIq x q { v with hipOk := true }) else dataflowFaults s n l

/-! ### The stream engine's routes (R607) -/

/-- The stream engine's next token on the route to an input queue: the counters follow what it has
already put on the route. -/
def feedToken (n : RafterId) (v : Queue) (kind : Nat) (data : List Byte) : Queue :=
  let hips := (v.feed.filter isHip).length
  let since := (v.feed.reverse.takeWhile (fun t => !isHip t)).length
  let seq : W16 := if hips = 0 then v.seq + BitVec.ofNat 16 v.feed.length else BitVec.ofNat 16 since
  { v with feed := v.feed ++
      [mkToken kind seq (tableGet 0 v.epochs seKey + BitVec.ofNat 4 hips) (rafterUnit n) 0 true data] }

/-- Data tokens that the stream engine has sent on the route in the epoch. -/
def feedCount (v : Queue) : BitVec 24 :=
  v.fired + BitVec.ofNat 24 ((v.tokens.filter isData).length + (v.feed.filter isData).length)

/-- Active output queues of the stream engine whose hip token is at the head and has not been checked. -/
def seHeads (x : Rafter) : List Nat :=
  let d := slotDescOf x x.seq.slot
  (List.range 8).filter (fun q => descOq d q && oqToSe x q && !(oqOf x q).hipOk && !staleHead (oqOf x q) && headIs (oqOf x q) == .hip)

/-- COUNT of the hip token at the head of an output queue differs from what the stream engine took. -/
def hipDiffers (x : Rafter) (q : Nat) : Bool :=
  match (oqOf x q).tokens with
  | [] => false
  | t :: _ => hipCount t != (oqOf x q).taken

/-- The stream engine's hip tokens on the routes that it feeds, once in a switch. -/
def feedHips (n : RafterId) (x : Rafter) : Rafter :=
  let d := slotDescOf x x.seq.slot
  if x.seq.seHips then x
  else { x with
    iq := x.iq.mapIdx (fun q v =>
      if descIq d q && iqFromSe x q then feedToken n v 2 (hipData (feedCount v) x.seq.slot) else v)
    seq := { x.seq with seHips := true } }

/-- STREAM_ENGINE_HIP_SEND (R607): with the old slot's stream instructions complete, a hip token goes to
each active input queue that the stream engine feeds, and the hip tokens of the output queues that it
empties are checked and removed. -/
def seHipSend (s : State) (n : RafterId) : State :=
  if !working s then s else
  match physOf s n with
  | none => s
  | some p =>
    let x := rafterAt s p
    if !x.seq.slotReq || !(unitQ x 1).isEmpty || (x.seq.seHips && (seHeads x).isEmpty) then s
    else
      let x1 := { feedHips n x with progress := 0 }
      match (seHeads x).filter (hipDiffers x) with
      | [] => setRafter s p ((seHeads x).foldl (fun y q =>
          let v := oqOf y q
          setOq y q { v with tokens := v.tokens.tail, sent := v.sent - 1, hipOk := true }) x1)
      | l => dataflowFaults (setRafter s p x1) n (l.map (fun q =>
          { code := 0x36, place := 1032 + q, info := faultInfoWord (headCount (oqOf x q)) 0x36 false true q
            expect := low16 (oqOf x q).taken }))

/-! ### Slot switches (R122) -/

/-- Nothing is in a unit's queue and every steering unit is idle. -/
def unitsIdle (x : Rafter) : Bool :=
  x.units.all (·.isEmpty) && x.stu.all (fun u => u.mode = 0 && u.later.isEmpty)

/-- Every other instruction of the old slot has completed and every steering unit is idle; SLOT has sent its hip
tokens (log 101). -/
def slotDrained (x : Rafter) : Bool :=
  (match unitQ x 0 with
   | [e] => e.kind == .switch && e.job == none && x.seq.hips == none
   | _ => false) && unitsIdle (setUnitQ x 0 [])

/-- Every active input queue has its checked hip token at the head, and the stream engine has removed
those of the output queues that it empties. -/
def hipsReady (x : Rafter) : Bool :=
  let d := slotDescOf x x.seq.slot
  (List.range 8).all (fun q => (!descIq d q || ((iqOf x q).hipOk && headIs (iqOf x q) == .hip)) &&
    (!descOq d q || !oqToSe x q || (oqOf x q).hipOk))

/-- Active input queues with an unreserved data token at the head after SLOT (R121). -/
def overruns (x : Rafter) : List Nat :=
  let d := slotDescOf x x.seq.slot
  (List.range 8).filter (fun q => descIq d q && headIs (iqOf x q) == .data)

/-- A hip overrun: SEEN is the SEQ of the token at the head, EXPECT the firing counter (log 102). -/
def overrunFault (x : Rafter) (q : Nat) : FlowFault :=
  { code := 0x38, place := match unitQ x 0 with
      | e :: _ => e.place
      | [] => x.seq.idx
    info := faultInfoWord (match (iqOf x q).tokens with
      | t :: _ => tokSeq t.hdr
      | [] => 0) 0x38 false false q
    expect := low16 (iqOf x q).fired }

/-- The switch itself: hip tokens removed, firing counters reset, new epochs, NEXT active, loop and
address state cleared (R96). -/
def switched (x : Rafter) : Rafter :=
  let d := slotDescOf x x.seq.slot
  let nx := descNext d
  hitRafter { x with
    iq := x.iq.mapIdx (fun q v => if descIq d q then
      { v with tokens := v.tokens.tail, fired := 0, hipOk := false } else v)
    oq := x.oq.mapIdx (fun q v => if descOq d q then
      { v with fired := 0, hipSent := false, hipOk := false, taken := 0 } else v)
    seq := { x.seq with slot := nx, idx := descEntry (slotDescOf x nx), loops := []
                        lcLeft := List.replicate 8 0, lcDone := List.replicate 8 0
                        ags := List.replicate 16 Ag.reset, slotReq := false, seHips := false
                        stall := 0 }
    units := x.units.set 0 []
    progress := 0 } 0x52 1

/-- The completion spar of the SLOT that awaits its switch. -/
def slotSpar (x : Rafter) : SparId :=
  match unitQ x 0 with
  | e :: _ => e.cspar
  | [] => 0xFFFF

/-- SLOT_SWITCH (R122, R217). -/
def slotSwitch (s : State) (n : RafterId) : State :=
  if !working s then s else
  match physOf s n with
  | none => s
  | some p =>
    let x := rafterAt s p
    if !x.seq.slotReq || !slotDrained x then s
    else match overruns x with
      | [] =>
        if hipsReady x then
          kindCheck (signalDone (setRafter s p (switched x)) (rafterUnit n)
            (placeTag x (seqPlace x .switch)) (slotSpar x)) n
        else s
      | l => dataflowFaults s n (l.map (overrunFault x))

end Sys2Proof.Machine
end

