-- ==== Sys2Proof/Machine/Operands.lean ====
section
/-!
DEFINITION. The operand forms of the instructions: shape registers and run-time counts (R208 to R210),
address generators and their bounds (R95, R211, R220, R221), element types (Table 6.13), and the
hardware checks on a rafter's unit of work (R519).
-/

namespace Sys2Proof.Machine

/-! ### Shapes (R209, R210) -/

/-- The value of the shape register that SHP names, or `planned`. -/
def shapeValue (x : Rafter) (shp : Shp) (planned : Nat) : Nat :=
  match shp with
  | .planned => planned
  | .reg k => (x.seq.sh.getD k.toNat 0).toNat

/-- RFT_IX_FAULT_INFO of the instruction at index `i` of the active slot. -/
def ixInfoWord (x : Rafter) (code i : Nat) : W32 :=
  BitVec.ofNat 32 (code * 2 ^ 24 + x.seq.slot.toNat * 2 ^ 10 + i)

/-- An instruction fault's registers (R250). -/
def noteIx (x : Rafter) (code : Nat) (info lo hi : W32) : Rafter :=
  { x with ixFault := x.ixFault ||| BitVec.ofNat 32 (2 ^ (code - 0x60)), ixInfo := info
           ixAddrLo := lo, ixAddrHi := hi }

/-- RFT_IX_FAULT_ADDR_HI for an address of a space (Table 6.5). -/
def spaceCode : Space → Nat
  | .scratch => 0
  | .ownLoft => 1
  | .loft => 2
  | .unified => 3

def addrHiWord (sp : Space) (a : Nat) : W32 := BitVec.ofNat 32 (spaceCode sp * 2 ^ 11 + field a 32 11)

/-- A shape fault at issue (R210, R304): the instruction performs no part of its operation. -/
def shapeFault (s : State) (n : RafterId) (value : Nat) : State :=
  let i := (rafterOf s n).seq.idx
  let s1 := updRafter s n (fun x => noteIx x 0x60 (ixInfoWord x 0x60 i) (BitVec.ofNat 32 value) 0)
  stateFault s1 n 0x60 i (rafterOf s1 n).ixInfo (BitVec.ofNat 32 value) 0

/-- An address-bound fault of the instruction at index `i` (R95, R221). -/
def boundFaultAt (s : State) (n : RafterId) (i : Nat) : State :=
  dataflowFault s n 0x3A i (faultInfoWord 0 0x3A false false 0) 0

/-- An address-bound fault of the instruction that is next. -/
def boundFault (s : State) (n : RafterId) : State := boundFaultAt s n (rafterOf s n).seq.idx

/-! ### Address generators (R95, R220, R221) -/

def agOf (x : Rafter) (a : BitVec 4) : Ag := x.seq.ags.getD a.toNat Ag.reset

/-- base + Σ stride × iterations completed. -/
def agAddr (x : Rafter) (a : BitVec 4) : Int :=
  let g := agOf x a
  g.pairs.foldl (fun (acc : Int) p => acc + p.1.toInt * ((x.seq.lcDone.getD p.2.toNat 0).toNat : Int))
    (g.base.toNat : Int)

/-- Bytes of a space (Table 6.5); a loft's space is 24 MiB within each 32 MiB. -/
def inSpace (sp : Space) (a n : Nat) : Bool :=
  match sp with
  | .scratch => a + n ≤ 0x200000
  | .ownLoft => a + n ≤ 0x1800000
  | .loft => a < 0x20000000 && a % 0x2000000 + n ≤ 0x1800000
  | .unified => a + n ≤ 0x80000000000

/-- An access of `n` bytes at `a` through a generator lies within its limit and its space. -/
def agOk (x : Rafter) (g : BitVec 4) (a : Int) (n : Nat) : Bool :=
  let v := agOf x g
  decide (0 ≤ a) && decide (a + n ≤ (v.base.toNat + v.limit.toNat : Nat)) && inSpace v.space a.toNat n

/-- A span of bytes from `lo` to `hi` (exclusive) lies within a generator's limit and space. -/
def agSpanOk (x : Rafter) (g : BitVec 4) (lo hi : Int) : Bool :=
  if hi ≤ lo then true else agOk x g lo (hi - lo).toNat

/-! ### Element types (Table 6.13) -/

def elemBits : ElemType → Nat
  | .fp32 | .int32 => 32
  | .bf16 | .fp16 | .int16 => 16
  | .e4m3 | .e5m2 | .mxfp8 | .int8 => 8
  | .mxfp6 => 6
  | .mxfp4 => 4

def isMx (t : ElemType) : Bool := t = .mxfp8 || t = .mxfp6 || t = .mxfp4

/-! ### Hardware checks on a unit of work -/

/-- What the fault registers say of a unit of work besides the code: the index of its instruction, the first address of
what it reads and its space, and whether the row engine runs it. -/
structure WorkAt where
  place : Nat
  space : Space
  addr : Nat
  row : Bool
deriving DecidableEq, Repr

/-- The work of the instruction that is next, on the scratchpad. -/
def workAt (place : Nat) (row : Bool) : WorkAt := { place := place, space := .scratch, addr := 0, row := row }

/-- The address of the failing 512 B block of a stream or issue instruction: `info` counts blocks from the first. -/
def blockAddr (w : WorkAt) (info : BitVec 24) : Nat := w.addr / 512 * 512 + 512 * info.toNat

/-- The information word of a failing check, in the fields of its register. -/
def checkWord (x : Rafter) (w : WorkAt) (code : Byte) (info : BitVec 24) : W32 :=
  let c := code.toNat
  if c = 0x62 then ixInfoWord x c w.place
  else if 0x50 ≤ c ∧ c < 0x58 then BitVec.ofNat 32 (c * 2 ^ 24 + b2n w.row * 2 ^ 23 + info.toNat % 2 ^ 14)
  else if 0x40 ≤ c ∧ c < 0x48 then BitVec.ofNat 32 (c * 2 ^ 24 + info.toNat % 2 ^ 14)
  else BitVec.ofNat 32 (c * 2 ^ 24 + info.toNat % 2 ^ 21)

/-- The registers that a rafter's failing check sets (chapters 4 to 6 and 15). -/
def noteCheck (x : Rafter) (w : WorkAt) (code : Byte) (info : BitVec 24) : Rafter :=
  let c := code.toNat
  let k := checkWord x w code info
  if c = 0x62 then
    noteIx x c k (BitVec.ofNat 32 (blockAddr w info)) (addrHiWord w.space (blockAddr w info))
  else if 0x40 ≤ c ∧ c < 0x48 then
    { x with taFault := x.taFault ||| BitVec.ofNat 32 (2 ^ (c - 0x40)), taInfo := k }
  else if 0x50 ≤ c ∧ c < 0x58 then
    { x with vrFault := x.vrFault ||| BitVec.ofNat 32 (2 ^ (c - 0x50)), vrInfo := k }
  else if 0xE0 ≤ c ∧ c < 0xE3 then
    { x with eccFault := x.eccFault ||| BitVec.ofNat 32 (2 ^ (c - 0xE0)), eccInfo := k }
  else x

/-- The correction register that counts a retry that passed. -/
def countRetry (x : Rafter) (code : Byte) : Rafter :=
  let c := code.toNat
  if c = 0x61 ∨ c = 0x62 then { x with seRetry := satInc16 x.seRetry }
  else if c = 0x40 then hitRafter { x with resRetry := satInc16 x.resRetry } 0x22 1
  else if c = 0x41 then hitRafter { x with accFix := satInc16 x.accFix } 0x22 1
  else if 0x50 ≤ c ∧ c < 0x55 then { x with vrRetry := satInc16 x.vrRetry }
  else x

/-- The correction register that counts a single-bit error corrected in place (R196, R286). -/
def countFix (x : Rafter) (code : Byte) : Rafter :=
  let c := code.toNat
  if c = 0xE0 ∨ c = 0xE2 then { x with eccFix := satInc16 x.eccFix }
  else if c = 0xE1 then { x with valleyFix := satInc16 x.valleyFix }
  else if c = 0x54 then { x with sofFix := satInc16 x.sofFix }
  else x

/-- An instruction-memory or descriptor double-bit error (0xE2): a warm reset reloads the slot, and a
recurrence on the same rafter in the following course is lasting (Table 15.6). -/
def imemFault (s : State) (n : RafterId) (info : W32) : State :=
  let x := rafterOf s n
  let s1 := updRafter s n (fun y => noteRecur s y 0xE2 0 2000)
  if recurs s x 0xE2 0 2000 || resetIsLasting s then lastingResponse s1 (rafterUnit n) 0xE2 info 0 0
  else resetResponse s1 (rafterUnit n) 0xE2 info 0 0

/-- Code, information and, for a failure that is not corrected in place, whether its retry failed. -/
def eventCode : HwEvent → Byte
  | .fixed c _ => c
  | .once c _ => c
  | .twice c _ => c

def eventInfo : HwEvent → BitVec 24
  | .fixed _ i => i
  | .once _ i => i
  | .twice _ i => i

def isFixed : HwEvent → Bool
  | .fixed _ _ => true
  | _ => false

def isTwice : HwEvent → Bool
  | .twice _ _ => true
  | _ => false

/-- Checks of one cycle in ascending order of their codes. -/
def insertEvent (e : HwEvent) : List HwEvent → List HwEvent
  | [] => [e]
  | f :: fs => if eventCode e ≤ eventCode f then e :: f :: fs else f :: insertEvent e fs

def sortEvents (l : List HwEvent) : List HwEvent := l.foldl (fun a e => insertEvent e a) []

/-- What follows a failing check whose registers are set: a correction counts; a failure is retried once. -/
def handleEvent (n : RafterId) (w : WorkAt) (again : Rafter → HwEvent → Bool) (a : State × Bool) (e : HwEvent) :
    State × Bool :=
  let c := eventCode e
  let x := rafterOf a.1 n
  let k := checkWord x w c (eventInfo e)
  if isFixed e then (updRafter a.1 n (fun y => countFix y c), a.2)
  else if c = 0xE2 then (imemFault a.1 n k, false)
  else
    let o := retried a.1 (rafterUnit n) c k 0 0 (isTwice e || again x e)
    if o.2 then (updRafter o.1 n (fun y => countRetry y c), a.2) else (o.1, false)

/-- The failing checks of one cycle, unless an earlier one has ended the work: every fault bit is set, each register keeps the information of its lowest code, and
each failure has its own retry. -/
def cycleCheck (n : RafterId) (w : WorkAt) (codes : List Byte) (again : Rafter → HwEvent → Bool) (a : State × Bool)
    (l : List HwEvent) : State × Bool :=
  if !a.2 then a else
  let es := sortEvents (l.filter (fun e => codes.contains (eventCode e)))
  let s1 := updRafter a.1 n (fun x => es.foldr (fun e y =>
    if isFixed e then y else noteCheck y w (eventCode e) (eventInfo e)) x)
  es.foldl (handleEvent n w again) (s1, a.2)

/-- The outcome of the hardware checks on a rafter's unit of work; `again` says that a failure counts as a second one of
the same thing. A code that is not one of the unit's own (`codes`) is no fault of this unit. The second component says
whether the work went through. -/
def rafterCheckWith (s : State) (n : RafterId) (w : WorkAt) (codes : List Byte) (again : Rafter → HwEvent → Bool)
    (hw : UnitCheck) : State × Bool :=
  hw.cycles.foldl (cycleCheck n w codes again) (s, true)

def rafterCheck (s : State) (n : RafterId) (w : WorkAt) (codes : List Byte) (hw : UnitCheck) : State × Bool :=
  rafterCheckWith s n w codes (fun _ _ => false) hw

end Sys2Proof.Machine
end

