-- ==== Sys2Proof/Machine/Float.lean ====
section
/-!
DEFINITION. Exact arithmetic on the element formats (Table 4.3): decoding to exact values, one rounding
to nearest even or stochastic (R155), and the conversions of Table 4.5.
-/

namespace Sys2Proof.Machine

/-! ### Formats -/

/-- A binary format: mantissa and exponent bits, bias, the largest finite magnitude's pattern, and
whether all-ones exponents stand for infinity and NaN. -/
structure Fmt where
  mb : Nat
  eb : Nat
  bias : Nat
  maxFin : Nat
  special : Bool
  nanMag : Nat
deriving DecidableEq, Repr

def fmtFp32 : Fmt := { mb := 23, eb := 8, bias := 127, maxFin := 0x7F7FFFFF, special := true, nanMag := 0x7FC00000 }
def fmtBf16 : Fmt := { mb := 7, eb := 8, bias := 127, maxFin := 0x7F7F, special := true, nanMag := 0x7FC0 }
def fmtFp16 : Fmt := { mb := 10, eb := 5, bias := 15, maxFin := 0x7BFF, special := true, nanMag := 0x7E00 }
def fmtE4m3 : Fmt := { mb := 3, eb := 4, bias := 7, maxFin := 0x7E, special := false, nanMag := 0x7F }
def fmtE5m2 : Fmt := { mb := 2, eb := 5, bias := 15, maxFin := 0x7B, special := true, nanMag := 0x7E }
def fmtE3m2 : Fmt := { mb := 2, eb := 3, bias := 3, maxFin := 0x1F, special := false, nanMag := 0 }
def fmtE2m1 : Fmt := { mb := 1, eb := 2, bias := 1, maxFin := 0x7, special := false, nanMag := 0 }

def fmtOf : ElemType → Option Fmt
  | .fp32 => some fmtFp32
  | .bf16 => some fmtBf16
  | .fp16 => some fmtFp16
  | .e4m3 => some fmtE4m3
  | .e5m2 => some fmtE5m2
  | .mxfp8 => some fmtE4m3
  | .mxfp6 => some fmtE3m2
  | .mxfp4 => some fmtE2m1
  | .int8 | .int16 | .int32 => none

/-- A value: NaN, an infinity, or ± m × 2^e with the sign kept for zero. -/
inductive FV where
  | nan
  | inf (neg : Bool)
  | fin (neg : Bool) (m : Nat) (e : Int)
deriving DecidableEq, Repr

/-- The value of a pattern. -/
def decodeF (f : Fmt) (bits : Nat) : FV :=
  let mag := bits % 2 ^ (f.mb + f.eb)
  let neg := (bits / 2 ^ (f.mb + f.eb)) % 2 = 1
  let ef := mag / 2 ^ f.mb
  let mf := mag % 2 ^ f.mb
  if f.special && ef == 2 ^ f.eb - 1 then (if mf = 0 then .inf neg else .nan)
  else if f.nanMag ≠ 0 && !f.special && mag == f.nanMag then .nan
  else if ef = 0 then .fin neg mf (1 - (f.bias : Int) - f.mb)
  else .fin neg (2 ^ f.mb + mf) ((ef : Int) - f.bias - f.mb)

/-- Number of significant bits. -/
def bitLen (n : Nat) : Nat := if n = 0 then 0 else Nat.log2 n + 1

/-- How a value is rounded: to nearest even, or stochastically with a 16-bit draw. -/
inductive Rounding where
  | nearest
  | draw (r : W16)
deriving DecidableEq, Repr

/-- The magnitude pattern of m × 2^e in a format with unbounded exponent at the top: subnormals are kept,
and a pattern above `maxFin` is an overflow. -/
def roundMag (f : Fmt) (rd : Rounding) (m : Nat) (e : Int) : Nat :=
  if m = 0 then 0
  else
    let emin : Int := 1 - (f.bias : Int) - f.mb
    let le : Int := max (e + (bitLen m : Int) - (f.mb + 1)) emin
    let q :=
      if le ≤ e then m * 2 ^ (e - le).toNat
      else
        let sh := (le - e).toNat
        let t := m / 2 ^ sh
        let rem := m % 2 ^ sh
        let up : Bool := match rd with
          | .nearest => decide (2 ^ sh < 2 * rem) || (2 * rem == 2 ^ sh && t % 2 == 1)
          | .draw r => decide (65536 ≤ rem * 65536 / 2 ^ sh + r.toNat)
        if up then t + 1 else t
    (le - emin).toNat * 2 ^ f.mb + q

def signBit (f : Fmt) (neg : Bool) : Nat := if neg then 2 ^ (f.mb + f.eb) else 0

/-- Arithmetic flags as bit positions of the engines' FLAGS registers. -/
def flNanIn : Nat := 1
def flInfIn : Nat := 2
def flInvalid : Nat := 4

/-- A conversion's result: the pattern, whether it saturated, whether it made a NaN of a number, and
whether it overflowed to infinity. -/
structure Conv where
  bits : Nat
  sat : Bool
  madeNan : Bool
  ovf : Bool
deriving DecidableEq, Repr

def convOk (b : Nat) : Conv := { bits := b, sat := false, madeNan := false, ovf := false }

/-- What an overflow or an infinity becomes (Table 4.5). -/
def overflowTo (f : Fmt) (satBit neg : Bool) : Conv :=
  if satBit && f != fmtFp32 then
    { bits := signBit f neg + f.maxFin, sat := true, madeNan := false, ovf := false }
  else if f.special then
    { bits := signBit f neg + (2 ^ f.eb - 1) * 2 ^ f.mb, sat := false, madeNan := false, ovf := true }
  else { bits := signBit f neg + f.nanMag, sat := false, madeNan := true, ovf := false }

/-- A value converted to a format with one rounding (R153, R155, Table 4.5). -/
def encodeF (f : Fmt) (rd : Rounding) (satBit : Bool) : FV → Conv
  | .nan => convOk f.nanMag
  | .inf neg => { overflowTo f satBit neg with ovf := false }
  | .fin neg m e =>
    let q := roundMag f rd m e
    if f.maxFin < q then overflowTo f satBit neg else convOk (signBit f neg + q)

/-! ### FP32 results -/

def f32 (v : FV) : W32 := BitVec.ofNat 32 (encodeF fmtFp32 .nearest false v).bits
def fv (w : W32) : FV := decodeF fmtFp32 w.toNat
def qnan : W32 := 0x7FC00000

def isNan : FV → Bool
  | .nan => true
  | _ => false
def isInf : FV → Bool
  | .inf _ => true
  | _ => false
def isZero : FV → Bool
  | .fin _ m _ => m = 0
  | _ => false
def isNeg : FV → Bool
  | .nan => false
  | .inf n => n
  | .fin n _ _ => n
def negate : FV → FV
  | .nan => .nan
  | .inf n => .inf (!n)
  | .fin n m e => .fin (!n) m e

/-- A product, exact; NaN for infinity × 0. -/
def mulV : FV → FV → FV
  | .nan, _ => .nan
  | _, .nan => .nan
  | .inf a, .inf b => .inf (a != b)
  | .inf a, .fin b m _ => if m = 0 then .nan else .inf (a != b)
  | .fin a m _, .inf b => if m = 0 then .nan else .inf (a != b)
  | .fin a m e, .fin b n k => .fin (a != b) (m * n) (e + k)

/-- A finite value as a signed multiple of 2^e0, for e0 at most its exponent. -/
def alignTo (e0 : Int) : FV → Int
  | .fin neg m e => (if neg then -1 else 1) * ((m * 2 ^ (e - e0).toNat : Nat) : Int)
  | _ => 0

def expOf : FV → Int
  | .fin _ m e => if m = 0 then 100000 else e
  | _ => 100000

/-- The exact sum of values: NaN and infinities first, then one exact integer sum. An exact zero is −0
only when every addend is −0 (R151). -/
def sumV (l : List FV) : FV :=
  if l.any isNan then .nan
  else if l.any isInf then
    (if l.any (fun v => isInf v && isNeg v) && l.any (fun v => isInf v && !isNeg v) then .nan
     else .inf (l.any (fun v => isInf v && isNeg v)))
  else
    let e0 := l.foldl (fun a v => min a (expOf v)) 100000
    let t := l.foldl (fun (a : Int) v => a + (if isZero v then 0 else alignTo e0 v)) 0
    if t = 0 then .fin (!l.isEmpty && l.all (fun v => isNeg v)) 0 0
    else .fin (decide (t < 0)) t.natAbs e0

/-- The exact sum of a running FP32 value and products, rounded once to FP32. -/
def addRound (l : List FV) : W32 := f32 (sumV l)

/-! ### Quotients and roots with a sticky bit -/

/-- a / b for integers, to `k` fractional bits, with a sticky bit below them. -/
def stickyDiv (a b k : Nat) : Nat :=
  let n := a * 2 ^ k
  2 * (n / b) + (if n % b = 0 then 0 else 1)

/-- The integer square root, bit by bit. -/
def isqrtLoop : Nat → Nat → Nat → Nat
  | 0, _, r => r
  | k + 1, n, r =>
    let t := r + 2 ^ k
    isqrtLoop k n (if t * t ≤ n then t else r)

def isqrt (n : Nat) : Nat := isqrtLoop (bitLen n / 2 + 1) n 0

/-- The quotient of two finite nonzero values, exact to far beyond one rounding. -/
def divV : FV → FV → FV
  | .fin a m e, .fin b n k => .fin (a != b) (stickyDiv m n 200) (e - k - 201)
  | _, _ => .nan

/-- The square root of a positive finite value. -/
def sqrtV : FV → FV
  | .fin _ m e =>
    let odd := e % 2 ≠ 0
    let m1 := if odd then 2 * m else m
    let e1 := if odd then e - 1 else e
    let n := m1 * 2 ^ 200
    let r := isqrt n
    .fin false (2 * r + (if r * r = n then 0 else 1)) (e1 / 2 - 101)
  | _ => .nan

/-! ### Stochastic draws (R154) -/

/-- r for unit stream `u` with count `e`. -/
def stochDraw (c st : W64) (l u : Nat) (e : BitVec 56) : W16 :=
  let x0 : W64 := (c * 0x9E3779B97F4A7C15) ^^^ (st * 0xC2B2AE3D27D4EB4F) ^^^
    (BitVec.ofNat 64 l * 0x165667B19E3779F9) ^^^ (BitVec.ofNat 64 u <<< 56) ^^^ e.zeroExtend 64
  let x1 := x0 ^^^ (x0 >>> 33)
  let x2 := x1 * 0xFF51AFD7ED558CCD
  let x3 := x2 ^^^ (x2 >>> 33)
  let x4 := x3 * 0xC4CEB9FE1A85EC53
  let x5 := x4 ^^^ (x4 >>> 33)
  (x5 >>> 48).truncate 16

/-- One element's conversion in a stream of conversions: a finite input draws where the rounding is
stochastic, and NaN and infinity do not advance the count (R155). -/
structure Rnd where
  course : W64
  step : W64
  rafter : Nat
  stream : Nat
  count : BitVec 56
  on : Bool
deriving DecidableEq, Repr

def isFin : FV → Bool
  | .fin _ _ _ => true
  | _ => false

def convertF (f : Fmt) (satBit : Bool) (r : Rnd) (v : FV) : Conv × Rnd :=
  if r.on && isFin v then
    (encodeF f (.draw (stochDraw r.course r.step r.rafter r.stream r.count)) satBit v,
      { r with count := r.count + 1 })
  else (encodeF f .nearest satBit v, r)

/-! ### Integers -/

def intOf (t : ElemType) (uns : Bool) (bits : Nat) : Int :=
  let w := elemBits t
  if uns then (bits % 2 ^ w : Nat) else (BitVec.ofNat w bits).toInt

/-- Saturation to the range of a two's complement width; the flag says it was applied. -/
def satInt (w : Nat) (x : Int) : Int × Bool :=
  if x < -((2 ^ (w - 1) : Nat) : Int) then (-((2 ^ (w - 1) : Nat) : Int), true)
  else if ((2 ^ (w - 1) : Nat) : Int) ≤ x then (((2 ^ (w - 1) : Nat) : Int) - 1, true) else (x, false)

/-! ### Elements in memory (R260) -/

/-- Element `k` of a dense row of `w`-bit elements that starts at `a`. -/
def elemAt (m : Mem) (a w k : Nat) : Nat :=
  field (memWord m (a + k * w / 8) 5) (k * w % 8) w

/-- The value of an element of any type: integers as exact values. -/
def valueOf (t : ElemType) (uns : Bool) (bits : Nat) : FV :=
  match fmtOf t with
  | some f => decodeF f bits
  | none =>
    let x := intOf t uns bits
    .fin (decide (x < 0)) x.natAbs 0

/-- Bytes that `n` dense elements take. -/
def denseBytes (t : ElemType) (n : Nat) : Nat := (n * elemBits t + 7) / 8

/-- A padding value encoded in the type that it pads (R300). -/
def padBits (t : ElemType) (pad : Nat) : Nat :=
  match t with
  | .fp32 => pad * 65536
  | .int32 => ((BitVec.ofNat 16 pad).signExtend 32).toNat
  | _ => pad % 2 ^ elemBits t

end Sys2Proof.Machine
end

