-- ==== Sys2Proof/Machine/Elementary.lean ====
section
/-!
DEFINITION. The functions of the vector and row engines (R170, R182): 2^a, log₂ a, tanh a, the reciprocal
and the roots, to 240 fractional bits before the one rounding.
-/

namespace Sys2Proof.Machine

/-- Fractional bits of the fixed-point evaluations. -/
def fxBits : Nat := 240

/-- Σ z^(2 k + 1) / (2 k + 1) over the first terms, in fixed point: the inverse hyperbolic tangent. -/
def atanhSum (z2 : Nat) : Nat → Nat → Nat → Nat
  | 0, _, _ => 0
  | n + 1, k, t => t / (2 * k + 1) + atanhSum z2 n (k + 1) (t * z2 / 2 ^ fxBits)

/-- atanh z for a fixed-point z at most 1/3. -/
def fxAtanh (z : Nat) : Nat := atanhSum (z * z / 2 ^ fxBits) 110 0 z

/-- ln 2 = 2 atanh (1/3). -/
def fxLn2 : Nat := 2 * fxAtanh (2 ^ fxBits / 3)

/-- Σ r^k / k! from the term `t` of index `k`. -/
def expSum (r : Nat) : Nat → Nat → Nat → Nat
  | 0, _, _ => 0
  | n + 1, k, t => t + expSum r n (k + 1) (t * r / ((k + 1) * 2 ^ fxBits))

/-- e^r in fixed point for a fixed-point r below 1. -/
def fxExp (r : Nat) : Nat := expSum r 80 0 (2 ^ fxBits)

/-- A value as a signed fixed-point number, rounded down. -/
def fxOf (m : Nat) (e : Int) : Nat :=
  let k := e + fxBits
  if 0 ≤ k then m * 2 ^ k.toNat else m / 2 ^ (-k).toNat

/-- 2^a for a finite a: exact for whole a, else within 2^-230 of the exact value. -/
def exp2V (neg : Bool) (m : Nat) (e : Int) : FV :=
  if m = 0 then .fin false 1 0
  else if decide (8 < e + (bitLen m : Int)) then (if neg then .fin false 1 (-1000) else .fin false 1 1000)
  else
    let x := fxOf m e
    let n := x / 2 ^ fxBits
    let f := x % 2 ^ fxBits
    let down := neg && f != 0
    let whole : Int := if neg then (if down then -(n : Int) - 1 else -(n : Int)) else n
    let frac := if down then 2 ^ fxBits - f else f
    if frac = 0 then .fin false 1 whole
    else .fin false (2 * fxExp (frac * fxLn2 / 2 ^ fxBits) + 1) (whole - fxBits - 1)

/-- log₂ of a positive finite value. -/
def log2V (m : Nat) (e : Int) : FV :=
  let l := bitLen m
  let one := 2 ^ (l - 1)
  let whole : Int := e + (l : Int) - 1
  if m = one then .fin (decide (whole < 0)) whole.natAbs 0
  else
    let z := (m - one) * 2 ^ fxBits / (m + one)
    let y : Int := whole * ((2 ^ fxBits : Nat) : Int) + ((2 * fxAtanh z * 2 ^ fxBits / fxLn2 : Nat) : Int)
    .fin (decide (y < 0)) (2 * y.natAbs + 1) (-(fxBits : Int) - 1)

/-- tanh of a finite value: (e^2x − 1) / (e^2x + 1). -/
def tanhV (neg : Bool) (m : Nat) (e : Int) : FV :=
  if m = 0 then .fin neg 0 0
  else if decide (5 < e + (bitLen m : Int)) then .fin neg (2 ^ 64 - 1) (-64)
  else
    let x := 2 * fxOf m e
    let n := x / fxLn2
    let ex := fxExp (x % fxLn2) * 2 ^ n
    .fin neg (stickyDiv (ex - 2 ^ fxBits) (ex + 2 ^ fxBits) fxBits) (-(fxBits : Int) - 1)

end Sys2Proof.Machine
end

