-- ==== Sys2Proof/Machine/Sequencer.lean ====
section
/-!
DEFINITION. Issue (R88 to R94), the sequencer's instructions, spar instructions, and completion (chapter 6).
-/

namespace Sys2Proof.Machine

/-! ### Loops (R212, R213) -/

/-- Loops that end at `e`, taken from the innermost outward. -/
def takeLoops (e : Nat) : List LoopFrame → List (BitVec 24) → List (BitVec 24) →
    List LoopFrame × List (BitVec 24) × List (BitVec 24) × Nat
  | [], left, done => ([], left, done, e + 1)
  | l :: ls, left, done =>
    if l.last = e then
      let done' := done.modify l.lc.toNat (· + 1)
      if 1 < l.left then
        ({ l with left := l.left - 1 } :: ls, left.modify l.lc.toNat (· - 1), done', l.first)
      else takeLoops e ls (left.set l.lc.toNat 0) done'
    else (l :: ls, left, done, e + 1)

/-- The sequencer after the instruction at `i` has issued and execution falls through or loops back. -/
def afterIssue (q : Seq) (i : Nat) : Seq :=
  let r := takeLoops i q.loops q.lcLeft q.lcDone
  { q with loops := r.1, lcLeft := r.2.1, lcDone := r.2.2.1, idx := r.2.2.2 }

/-- The sequencer after a LOOP has issued with its run-time count (R212). -/
def enterLoop (q : Seq) (o : LoopOps) (count : Nat) : Seq :=
  let q1 := { q with lcLeft := q.lcLeft.set o.lc.toNat (BitVec.ofNat 24 count)
                     lcDone := q.lcDone.set o.lc.toNat 0 }
  if count = 0 then afterIssue q1 o.endIdx.toNat
  else { q1 with
    loops := { lc := o.lc, first := q.idx + 1, last := o.endIdx.toNat, left := count } :: q1.loops
    idx := q.idx + 1 }

/-- A taken branch ends the loops that it leaves (R215). -/
def takeBranch (q : Seq) (target : Nat) : Seq :=
  { q with loops := q.loops.dropWhile (fun l => l.last < target), idx := target }

/-! ### Issue (R90, R92) -/

/-- Why an instruction for unit `u` cannot issue, as RFT_STATUS.STALL gives it. `post` says that it takes
a place in its unit's issue queue. Nothing issues after CRS.END (log 36). -/
def stallOf (x : Rafter) (u : Nat) (post : Bool) (fire : Option (BitVec 4)) : Option (BitVec 4) :=
  if x.seq.slotReq then some 6
  else if x.seq.waiting then some 5
  else if x.seq.ended then some 0
  else if post && decide (4 ≤ (unitQ x u).length) then some 1
  else fire

/-- A rafter may issue at all: a program runs, no warm reset is under way, and the rafter neither holds
nor idles. -/
def mayIssue (s : State) (x : Rafter) : Bool := working s && !x.hold && !x.idle

/-- The issue of an instruction: the effect where it issues; otherwise STALL says why not, and the
instruction is presented again. -/
def issue (s : State) (n : RafterId) (u : Nat) (post : Bool) (fire : Rafter → Option (BitVec 4))
    (eff : Nat → Rafter → State) : State :=
  match physOf s n with
  | none => s
  | some p =>
    let x := rafterAt s p
    if !mayIssue s x then s
    else match stallOf x u post (fire x) with
      | some c => setRafter s p { x with seq := { x.seq with stall := c } }
      | none => eff p x

def noFire : Rafter → Option (BitVec 4) := fun _ => none

/-- The rafter after an instruction has issued and the next one is due. -/
def advanced (x : Rafter) : Rafter :=
  hitRafter { x with seq := { afterIssue x.seq x.seq.idx with stall := 0 }, progress := 0 } 2 1

def flight (f : Frame) (kind : Await) (done : Bool) : InFlight :=
  { cspar := f.cspar, kind := kind, done := done, acks := 0, tag := 0, job := none, place := 0, after := false
    resv := none, span := none, old := [] }

/-- A CRS.END.D waits in the sequencer's queue for every earlier instruction (R249). -/
def endWaits (x : Rafter) : Bool := (unitQ x 0).any (fun e => !e.done && e.job == some .endD)

/-- An instruction placed in its unit's queue. -/
def placed (x : Rafter) (u : Nat) (e : InFlight) : Rafter :=
  setUnitQ x u (unitQ x u ++ [{ e with after := endWaits x }])

/-- An instruction whose operation is empty or over takes its place in its unit's queue and passes on. -/
def placedDone (x : Rafter) (u : Nat) (f : Frame) : Rafter :=
  placed (advanced x) u { flight f .none true with place := x.seq.idx }

/-- An instruction that completes at issue: its effect on the rafter, then its completion spar. -/
def atIssue (s : State) (n : RafterId) (p : Nat) (f : Frame) (x : Rafter) : State :=
  signalDone (setRafter s p x) (rafterUnit n) (placeTag (rafterAt s p) (rafterAt s p).seq.idx) f.cspar

/-! ### Sequencer instructions that execute after issue (R204) -/

def setSh (x : Rafter) (k : BitVec 3) (v : W32) : Rafter :=
  { x with seq := { x.seq with sh := x.seq.sh.set k.toNat v } }

/-- The first instruction of a queue that has not begun, where it may begin: every earlier one has finished. -/
def nextJob : List InFlight → Nat → Option (Nat × InFlight × UnitJob)
  | [], _ => none
  | e :: es, i =>
    if e.done then nextJob es (i + 1)
    else match e.job with
      | some j => some (i, e, j)
      | none => none

/-- The entry at place `i` of a unit's queue has begun, and has finished where `done` says so. -/
def begun (x : Rafter) (u i : Nat) (e : InFlight) (done : Bool) : Rafter :=
  { setUnitQ x u ((unitQ x u).set i { e with job := none, done := done }) with progress := 0 }

/-- Active output queues that have not received a hip token in the slot (R116). -/
def hipsDue (x : Rafter) : Byte :=
  BitVec.ofNat 8 ((List.range 8).foldl (fun a q =>
    if descOq (slotDescOf x x.seq.slot) q && !(oqOf x q).hipSent then a + 2 ^ q else a) 0)

/-- Hip tokens due on the queues of a mask. -/
def owesHips (x : Rafter) (mask : Byte) : Rafter := { x with seq := { x.seq with hips := some (mask, false) } }

/-- A sequencer instruction begins to execute: SETSH from the scratchpad, a spar message, HIP, DRAIN or SLOT. CRS.END,
CRS.END.D and HALT wait for the other units (`endJobs`). -/
def doJob (s : State) (n : RafterId) (p i : Nat) (e : InFlight) (j : UnitJob) : State :=
  let x := rafterAt s p
  match j with
  | .setSh k a hw =>
    let c := rafterCheck s n { workAt e.place false with addr := a } [0xE0, 0xE2] hw
    let y := rafterAt c.1 p
    if c.2 then setRafter c.1 p (begun (setSh y k (BitVec.ofNat 32 (memWord y.scratch a 4))) 0 i e true)
    else setRafter c.1 p (begun y 0 i e false)
  | .send spar op t v ask =>
    let y := { x with seq := { x.seq with asks := x.seq.asks ++ ask.toList } }
    sendSpar (setRafter s p (begun y 0 i e ask.isNone)) (rafterUnit n) (placeTag x e.place) spar op t v
  | .hip mask => hipsStep (setRafter s p (owesHips (begun x 0 i e false) mask)) n
  | .slot => hipsStep (setRafter s p (owesHips (begun x 0 i e false) (hipsDue x))) n
  | .drain q c =>
    kindCheck (drainStep (setRafter s p
      (begun { x with seq := { x.seq with drain := some (q, c) } } 0 i e false)) n) n
  | _ => s

/-- The sequencer's queue executes in order as far as it can. -/
def startJobs : Nat → State → RafterId → State
  | 0, s, _ => s
  | k + 1, s, n =>
    match physOf s n with
    | none => s
    | some p =>
      if !working s then s
      else match nextJob (unitQ (rafterAt s p) 0) 0 with
        | none => s
        | some (i, e, j) => startJobs k (doJob s n p i e j) n

def startSeq (s : State) (n : RafterId) : State := startJobs 4 s n

/-- A sequencer instruction that takes a place in the queue: it begins at once where every earlier one has
finished. -/
def enqueue (s : State) (n : RafterId) (p : Nat) (f : Frame) (kind : Await) (j : UnitJob) (place : Nat) (x : Rafter) :
    State :=
  startSeq (setRafter s p (placed x 0 { flight f kind false with job := some j, place := place })) n

/-! ### Control -/

def nopEffect (s : State) (n : RafterId) (f : Frame) : State :=
  issue s n 0 false noFire (fun p x => atIssue s n p f (advanced x))

def loopEffect (s : State) (n : RafterId) (f : Frame) (o : LoopOps) : State :=
  issue s n 0 false noFire (fun p x =>
    let c := shapeValue x o.shp o.count.toNat
    if o.count.toNat < c then shapeFault s n c
    else atIssue s n p f (hitRafter { x with seq := { enterLoop x.seq o c with stall := 0 }, progress := 0 } 2 1))

/-- A POLL that waits in the sequencer's queue. -/
def pollsLater (e : InFlight) : Bool :=
  match e.job with
  | some (.send _ .read _ _ _) => true
  | _ => false

/-- A BR that tests the poll flag issues only after every earlier POLL has completed (R216); STALL reads 5 meanwhile (log
36). -/
def brFire (cond : BrCond) (x : Rafter) : Option (BitVec 4) :=
  if cond ≠ .always ∧ (!x.seq.asks.isEmpty ∨ (unitQ x 0).any pollsLater) then some 5 else none

def brTaken (cond : BrCond) (x : Rafter) : Bool :=
  match cond with
  | .always => true
  | .pollSet => x.seq.poll
  | .pollClear => !x.seq.poll

def brEffect (s : State) (n : RafterId) (f : Frame) (cond : BrCond) (target : BitVec 10) : State :=
  issue s n 0 false (brFire cond) (fun p x =>
    atIssue s n p f (if brTaken cond x then
      hitRafter { x with seq := { takeBranch x.seq target.toNat with stall := 0 }, progress := 0 } 2 1
      else advanced x))

/-- SLOT takes its place behind the sequencer's earlier instructions, whose hip tokens go first (R116, R122, R204). -/
def slotEffect (s : State) (n : RafterId) (f : Frame) : State :=
  issue s n 0 true noFire (fun p x => enqueue s n p f .switch .slot x.seq.idx (hitRafter { x with
    seq := { x.seq with slotReq := true, seHips := false, stall := 6 }, progress := 0 } 2 1))

def hipEffect (s : State) (n : RafterId) (f : Frame) (mask : Byte) : State :=
  issue s n 0 true noFire (fun p x =>
    enqueue s n p f .hips (.hip mask) x.seq.idx (advanced x))

def agSetEffect (s : State) (n : RafterId) (f : Frame) (o : AgSetOps) : State :=
  issue s n 0 false noFire (fun p x =>
    let g : Ag := { space := o.space, base := o.base, limit := o.limit, pairs := List.replicate 4 (0, 0) }
    let y := advanced x
    atIssue s n p f { y with seq := { y.seq with ags := y.seq.ags.set o.ag.toNat g } })

def agStrEffect (s : State) (n : RafterId) (f : Frame) (o : AgStrOps) : State :=
  issue s n 0 false noFire (fun p x =>
    let y := advanced x
    let g := agOf y o.ag
    let g' := { g with pairs := g.pairs.set o.pair.toNat (o.stride, o.lc) }
    atIssue s n p f { y with seq := { y.seq with ags := y.seq.ags.set o.ag.toNat g' } })

/-- A 4 B scratchpad word through a generator: its address where the access may be made (R222). -/
def scratchWordAt (x : Rafter) (g : BitVec 4) : Option Nat :=
  let a := agAddr x g
  if (agOf x g).space = .scratch && a % 4 == 0 && agOk x g a 4 then some a.toNat else none

def setShEffect (s : State) (n : RafterId) (f : Frame) (o : SetShOps) (hw : UnitCheck) : State :=
  if o.src then
    issue s n 0 true noFire (fun p x =>
      match scratchWordAt x o.ag with
      | none => boundFault s n
      | some a => enqueue s n p f .none (.setSh o.sh a hw) x.seq.idx (advanced x))
  else
    issue s n 0 false noFire (fun p x => atIssue s n p f (setSh (advanced x) o.sh o.value))

/-! ### Spar instructions (R225 to R231) -/

/-- WAIT and ARRIVE.W: the message goes to the table and issue is held until the reply. -/
def waitEffect (s : State) (n : RafterId) (f : Frame) (spar : SparId) (op : SparOp) (t : W16)
    (v : W32) : State :=
  issue s n 0 true noFire (fun p x =>
    let y := advanced x
    enqueue s n p f .reply (.send spar op t v (some .wait)) x.seq.idx
      { y with seq := { y.seq with waiting := true, stall := 5 } })

/-- SIGNAL and ARRIVE: posted, finished when the message leaves. -/
def postEffect (s : State) (n : RafterId) (f : Frame) (spar : SparId) (op : SparOp) (t : W16)
    (v : W32) : State :=
  issue s n 0 true noFire (fun p x => enqueue s n p f .none (.send spar op t v none) x.seq.idx (advanced x))

/-- POLL: a read is sent; the reply sets the poll flag (R231). -/
def pollEffect (s : State) (n : RafterId) (f : Frame) (o : PollOps) (eq : Bool) : State :=
  issue s n 0 true noFire (fun p x =>
    let wr := if o.wr then scratchWordAt x o.ag else none
    if o.wr ∧ wr = none then boundFault s n
    else
      let ask := if eq then SparPurpose.pollEq o.v wr else SparPurpose.pollGe o.v wr
      enqueue s n p f .reply (.send o.spar .read 0 0 (some ask)) x.seq.idx (advanced x))

/-- A rafter takes the reply to its oldest request. -/
def takeReply (x : Rafter) (r : SparRep) : Rafter :=
  let done := fun (y : Rafter) =>
    finishKind { y with seq := { y.seq with asks := y.seq.asks.tail }, progress := 0 } 0 .reply
  match x.seq.asks with
  | [] => x
  | .wait :: _ => done { x with seq := { x.seq with waiting := false, stall := 0 } }
  | .pollGe v wr :: _ =>
    let y := { x with seq := { x.seq with poll := decide (v ≤ r.count) } }
    done (match wr with
      | some a => { y with scratch := memPutWord y.scratch a 4 r.count.toNat }
      | none => y)
  | .pollEq v wr :: _ =>
    let y := { x with seq := { x.seq with poll := decide (v = r.count) } }
    done (match wr with
      | some a => { y with scratch := memPutWord y.scratch a 4 r.count.toNat }
      | none => y)

/-- An overflow reply (R228, R250, Table 6.12): the fault is recorded and the addition is resent once; a repeat is
lasting. -/
def overflowReply (s : State) (n : RafterId) (r : SparRep) : State :=
  let info := BitVec.ofNat 32 (0x63 * 2 ^ 24 + r.tag.toNat % 2 ^ 13)
  let lo : W32 := r.spar.zeroExtend 32
  let before := (rafterOf s n).seq.resent.find? (fun e => e.1 = r.spar ∧ e.2.1 = r.v)
  let s1 := updRafter s n (fun x => noteIx x 0x63 info lo 0)
  if before.isSome || exhausted s (rafterUnit n) then
    lastingResponse (updRafter s1 n (fun x => match before with
      | some e => { x with seq := { x.seq with resent := x.seq.resent.erase e } }
      | none => x)) (rafterUnit n) 0x63 info lo 0
  else
    sendSpar (updRafter s1 n (fun x => { x with seq := { x.seq with
      resent := x.seq.resent ++ [(r.spar, r.v, info)] } })) (rafterUnit n) r.tag r.spar .signalAdd 0 r.v

/-- SPAR_REPLY (R225, R228, R231): the oldest reply of a table reaches its unit. -/
def sparReply (s : State) (t : Nat) : State :=
  let x := trussAt s t
  match x.replies with
  | [] => s
  | r :: rest =>
    let s1 := setTruss s t { x with replies := rest }
    if unitKind r.dest = 0 then
      let n := unitInst r.dest
      if r.ovf then overflowReply s1 n r
      else startSeq (completeHead (updRafter s1 n (fun y => takeReply y r)) n 0) n
    else { s1 with sparInbox := s1.sparInbox ++ [r] }

/-! ### DRAIN (R112, R235) -/

/-- Unreserved data tokens of the current epoch held by an input queue, ahead of any hip token. -/
def readyData (x : Rafter) (q : Nat) : Nat := ((iqOf x q).tokens.takeWhile isData).length - drainResv x q

def drainFire (f : Frame) (o : DrainOps) (x : Rafter) : Option (BitVec 4) :=
  if (f.fire = .inp ∨ f.fire = .inout) ∧ readyData x o.iq.toNat < o.need.toNat then some 2 else none

def drainEffect (s : State) (n : RafterId) (f : Frame) (o : DrainOps) : State :=
  issue s n 0 true (drainFire f o) (fun p x =>
    let c := shapeValue x o.shp o.count.toNat
    if o.count.toNat < c then shapeFault s n c
    else if c = 0 then setRafter s p (placedDone x 0 f)
    else enqueue s n p f .drain (.drain o.iq c) x.seq.idx (advanced x))

/-! ### Hang detection (R128) -/

/-- PROGRESS_LIMIT (R128): a rafter whose progress counter has reached its limit raises a progress
fault, which is lasting when it raised one in the course before. -/
def progressLimit (s : State) (n : RafterId) : State :=
  match physOf s n with
  | none => s
  | some p =>
    let x := rafterAt s p
    if !working s || x.hold || x.idle || x.progLimit = 0 || x.progress.toNat < x.progLimit.toNat then s
    else
      let info := faultInfoWord 0 0x3B false false 0
      let s1 := setRafter s p (noteRecur s (noteDataflow x 0x3B info 0) 0x3B 0 3000)
      if recurs s x 0x3B 0 3000 || resetIsLasting s then lastingResponse s1 (rafterUnit n) 0x3B info 0 0
      else resetResponse s1 (rafterUnit n) 0x3B info 0 0

/-! ### Meanings -/

/-- NOP (R204). -/
def execNop (r : RafterId) (f : Frame) (s : State) : Out State := .next (nopEffect s r f)

/-- LOOP (R94, R212). -/
def execLoop (r : RafterId) (f : Frame) (o : LoopOps) (s : State) : Out State :=
  .next (loopEffect s r f o)

/-- BR (R215, R216). -/
def execBr (r : RafterId) (f : Frame) (cond : BrCond) (target : BitVec 10) (s : State) : Out State :=
  .next (brEffect s r f cond target)

/-- SLOT (R116, R122). -/
def execSlot (r : RafterId) (f : Frame) (s : State) : Out State := .next (slotEffect s r f)

/-- The stream engine's hip tokens (R607). -/
def execStreamEngineHipSend (r : RafterId) (s : State) : Out State := .next (seHipSend s r)

/-- HIP (R218). -/
def execHip (r : RafterId) (f : Frame) (oqmask : Byte) (s : State) : Out State :=
  .next (hipEffect s r f oqmask)

/-- AG.SET (R220). -/
def execAgSet (r : RafterId) (f : Frame) (o : AgSetOps) (s : State) : Out State :=
  .next (agSetEffect s r f o)

/-- AG.STR (R220). -/
def execAgStr (r : RafterId) (f : Frame) (o : AgStrOps) (s : State) : Out State :=
  .next (agStrEffect s r f o)

/-- SETSH (R222). -/
def execSetSh (r : RafterId) (f : Frame) (o : SetShOps) (hw : UnitCheck) (s : State) : Out State :=
  .next (setShEffect s r f o hw)

/-- WAIT.GE (R225). -/
def execWaitGe (r : RafterId) (f : Frame) (spar : SparId) (v : W32) (s : State) : Out State :=
  .next (waitEffect s r f spar .waitGe 0 v)

/-- WAIT.EQ (R225). -/
def execWaitEq (r : RafterId) (f : Frame) (spar : SparId) (v : W32) (s : State) : Out State :=
  .next (waitEffect s r f spar .waitEq 0 v)

/-- WAIT.DEC (R225). -/
def execWaitDec (r : RafterId) (f : Frame) (spar : SparId) (v : W32) (s : State) : Out State :=
  .next (waitEffect s r f spar .waitDec 0 v)

/-- SIGNAL.ADD (R228). -/
def execSignalAdd (r : RafterId) (f : Frame) (spar : SparId) (v : W32) (s : State) : Out State :=
  .next (postEffect s r f spar .signalAdd 0 v)

/-- SIGNAL.SET (R227). -/
def execSignalSet (r : RafterId) (f : Frame) (spar : SparId) (v : W32) (s : State) : Out State :=
  .next (postEffect s r f spar .signalSet 0 v)

/-- ARRIVE (R229). -/
def execArrive (r : RafterId) (f : Frame) (spar : SparId) (t : W16) (s : State) : Out State :=
  .next (postEffect s r f spar .arrive t 0)

/-- ARRIVE.W (R229, R320). -/
def execArriveW (r : RafterId) (f : Frame) (spar : SparId) (t : W16) (s : State) : Out State :=
  .next (waitEffect s r f spar .arriveW t 0)

/-- POLL.GE (R231). -/
def execPollGe (r : RafterId) (f : Frame) (o : PollOps) (s : State) : Out State :=
  .next (pollEffect s r f o false)

/-- POLL.EQ (R231). -/
def execPollEq (r : RafterId) (f : Frame) (o : PollOps) (s : State) : Out State :=
  .next (pollEffect s r f o true)

/-- DRAIN (R235). -/
def execDrain (r : RafterId) (f : Frame) (o : DrainOps) (s : State) : Out State :=
  .next (drainEffect s r f o)

/-- An arriving token (R102, R118). -/
def execTokenAdmission (r : RafterId) (q : BitVec 3) (tok : Token) (credit : Bool) (s : State) :
    Out State := .next (startSeq (tokenAdmission s r q tok credit) r)

/-- A token acknowledgement at the producer (R102). -/
def execTokenAcknowledgement (r : RafterId) (q : BitVec 3) (seq : W16) (refused : Bool) (s : State) :
    Out State := .next (tokenAck s r q seq refused)

/-- A credit reaches the producer (R101). -/
def execCredit (r : RafterId) (q : BitVec 3) (s : State) : Out State := .next (startSeq (creditGrant s r q) r)

/-- A hip token at the head of an input queue (R120). -/
def execHipTokenAtHead (r : RafterId) (q : BitVec 3) (s : State) : Out State :=
  .next (hipAtHead s r q)

/-- A spar table applies the next operation of its inputs (R317). -/
def execSparOperation (t : BitVec 4) (ecc : EccResult) (s : State) : Out State :=
  .next (sparOperation s t.toNat ecc)

/-- The progress check (R128). -/
def execProgressLimit (r : RafterId) (s : State) : Out State := .next (progressLimit s r)

end Sys2Proof.Machine
end

