-- ==== Sys2Proof/Machine/Steering.lean ====
section
/-!
DEFINITION. Steering units (R106 to R111, R232 to R234): the instructions that set a mode, and one step.
-/

namespace Sys2Proof.Machine

def stuOf (x : Rafter) (u : Nat) : Stu := x.stu.getD u Stu.reset
def setStu (x : Rafter) (u : Nat) (v : Stu) : Rafter := { x with stu := x.stu.set u v }

/-- VALUE, SEL and DSEQ of a control token (Table 3.3). -/
def ctlSel (t : Token) : Nat := field (natOfBytes (t.data.take 8)) 0 3
def ctlDseq (t : Token) : W16 := BitVec.ofNat 16 (field (natOfBytes (t.data.take 8)) 16 16)
def ctlValue (t : Token) : W32 := BitVec.ofNat 32 (field (natOfBytes (t.data.take 8)) 32 32)

/-- What one attempt at a step comes to. -/
inductive StepPlan where
  /-- a token has not arrived -/
  | waits
  /-- a steering mismatch: what was found and what was expected -/
  | mismatch (seen expect : W16)
  /-- the tokens to forward, from input queue to output queue, the control input to consume, and the value for a
  shape register -/
  | go (copies : List (Nat × Nat)) (ctl : Option Nat) (value : W32)
deriving DecidableEq, Repr

/-- The token at the head of a queue, where it is a data token; a control token. -/
def headData (x : Rafter) (q : Nat) : Option Token := (iqOf x q).tokens.head?.filter isData
def headControl (x : Rafter) (q : Nat) : Option Token := (iqOf x q).tokens.head?.filter isControl

/-- What SELECT and ROUTE forward, with control token `c`, from input `i` to output `o`: the data token's SEQ must equal
DSEQ (R108). -/
def steered (x : Rafter) (ctl i o : Nat) (c : Token) : StepPlan :=
  match headData x i with
  | none => .waits
  | some t =>
    if tokSeq t.hdr ≠ ctlDseq c then .mismatch (tokSeq t.hdr) (ctlDseq c)
    else .go [(i, o)] (some ctl) (ctlValue c)

/-- The tokens that one step of JOIN or FORK forwards, one after another (log 122). -/
def stepCopies (mode : BitVec 3) (o : SteerOps) : List (Nat × Nat) :=
  if mode = 3 then (steerQueues o).map (fun q => (q, o.xq.toNat)) else (steerQueues o).map (fun q => (o.xq.toNat, q))

/-- One step of a mode (Table 3.5, R108, R111). A SEL that names no configured queue is a mismatch as soon as its control
token is at the head, in SELECT and in ROUTE (log 103). -/
def stepPlan (x : Rafter) (mode : BitVec 3) (o : SteerOps) : StepPlan :=
  let qs := steerQueues o
  if mode = 1 ∨ mode = 2 then
    match headControl x o.cq.toNat with
    | none => .waits
    | some c =>
      match qs[ctlSel c]? with
      | none => .mismatch (BitVec.ofNat 16 (ctlSel c)) (ctlDseq c)
      | some q =>
        if mode = 1 then steered x o.cq.toNat q o.xq.toNat c else steered x o.cq.toNat o.xq.toNat q c
  else if mode = 3 then
    let heads := qs.map (headData x)
    if heads.any Option.isNone then .waits
    else match heads.reduceOption with
      | [] => .waits
      | t :: rest =>
        match rest.find? (fun u => tokSeq u.hdr ≠ tokSeq t.hdr) with
        | some u => .mismatch (tokSeq u.hdr) (tokSeq t.hdr)
        | none => .go (stepCopies mode o) none 0
  else if mode = 4 then
    match headData x o.xq.toNat with
    | none => .waits
    | some _ => .go (stepCopies mode o) none 0
  else .waits

/-- The head of an input queue consumed: a data token counts in the firing counter (R115). -/
def consumeHead (data : Bool) (y : Rafter) (q : Nat) : Rafter :=
  let v := iqOf y q
  setIq y q { v with tokens := v.tokens.tail, fired := if data then v.fired + 1 else v.fired }

/-- Tokens forwarded, one after the other, with new positions on their output routes (R110, R232), as long as their
output has a free entry; a head is consumed with its last copy. The rafter, the number forwarded, and whether an
output has had its hip token already (R117). -/
def forwardAll (n : RafterId) : List (Nat × Nat) → Nat → Rafter → Rafter × Nat × Bool
  | [], k, y => (y, k, false)
  | (i, o) :: cs, k, y =>
    if (oqOf y o).hipSent then (y, k, true)
    else if stepRoom y o = 0 then (y, k, false)
    else
      let y1 := pushOut n y o 0 (match (iqOf y i).tokens with
        | t :: _ => t.data
        | [] => [])
      forwardAll n cs (k + 1) (if cs.any (fun c => c.1 == i) then y1 else consumeHead true y1 i)

/-- The unit's next waiting instruction starts, or the unit is idle. -/
def nextMode (u : Stu) : Stu :=
  match u.later with
  | [] => { u with mode := 0, left := 0, part := 0 }
  | w :: rest => { mode := w.mode, ops := w.ops, left := w.left, place := w.place, part := 0, later := rest }

/-- The first unfinished instruction of a unit's queue has finished. -/
def finishFirst (x : Rafter) (u : Nat) : Rafter :=
  let q := unitQ x u
  setUnitQ x u (match q.findIdx? (fun e => !e.done) with
    | some i => q.modify i (fun e => { e with done := true })
    | none => q)

/-- The end of a step: the control token is consumed, VALUE written where SHW asks (R234), and one step less is left; the
last one ends the instruction. -/
def stepEnd (x : Rafter) (ui : Nat) (u : Stu) (ctl : Option Nat) (value : W32) : Rafter :=
  let y1 := match ctl with
    | some c => consumeHead false x c
    | none => x
  let y2 := if u.ops.shw && ctl.isSome then setSh y1 u.ops.shwi value else y1
  if u.left = 1 then setStu (finishFirst y2 (5 + ui)) ui (nextMode u)
  else setStu y2 ui { u with left := u.left - 1, part := 0 }

/-- STEERING_STEP (R108 to R111, R232, R234). A JOIN or FORK step that finds its outputs full goes on in the next. -/
def steeringStep (s : State) (n : RafterId) (ui : BitVec 2) : State :=
  match physOf s n with
  | none => s
  | some p =>
    let x := rafterAt s p
    let u := stuOf x ui.toNat
    if !working s || u.mode = 0 || u.left = 0 then s
    else match (if u.part = 0 then stepPlan x u.mode u.ops else .go ((stepCopies u.mode u.ops).drop u.part) none 0) with
      | .waits => s
      | .mismatch seen expect =>
        dataflowFault s n 0x35 u.place (faultInfoWord seen 0x35 true false ui.toNat) expect
      | .go copies ctl value =>
        let r := forwardAll n copies 0 x
        let y := if r.2.1 = 0 then r.1 else { r.1 with progress := 0 }
        if r.2.1 = copies.length then kindCheck (setRafter s p (stepEnd y ui.toNat u ctl value)) n
        else
          let s1 := setRafter s p (setStu y ui.toNat { u with part := u.part + r.2.1 })
          -- which part of the fault registers names the steering unit is in log 105
          if r.2.2 then dataflowFault s1 n 0x39 u.place (faultInfoWord 0 0x39 true false ui.toNat) 0
          else kindCheck s1 n

/-- FIRE STEER (R92, R233): the unit is idle and one step of the mode can begin. -/
def steerFire (f : Frame) (mode : BitVec 3) (o : SteerOps) (x : Rafter) : Option (BitVec 4) :=
  if f.fire = .steer then
    if (stuOf x o.stu.toNat).mode ≠ 0 then some 4
    else match stepPlan x mode o with
      | .waits => some 2
      | .mismatch _ _ => none
      | .go copies _ _ =>
        let outs := copies.map (·.2)
        if outs.any (fun q => oqFree x q < outs.count q) then some 3 else none
  else none

/-- A steering instruction (R232, R233): a zero count completes without touching a queue (R93). -/
def steerEffect (s : State) (n : RafterId) (f : Frame) (mode : BitVec 3) (o : SteerOps) : State :=
  let ui := 5 + o.stu.toNat
  issue s n ui true (steerFire f mode o) (fun p x =>
    let c := shapeValue x o.shp o.steps.toNat
    if o.steps.toNat < c then shapeFault s n c
    else if c = 0 then setRafter s p (placedDone x ui f)
    else
      let y := placed (advanced x) ui { flight f .steps false with place := x.seq.idx }
      let u := stuOf y o.stu.toNat
      kindCheck (setRafter s p (setStu y o.stu.toNat (if u.mode = 0 then
        { mode := mode, ops := o, left := c, place := x.seq.idx, part := 0, later := u.later }
        else { u with later := u.later ++ [{ mode := mode, ops := o, left := c, place := x.seq.idx }] }))) n)

/-! ### Meanings -/

/-- STEER.SELECT (R232). -/
def execSteerSelect (r : RafterId) (f : Frame) (o : SteerOps) (s : State) : Out State :=
  .next (steerEffect s r f 1 o)

/-- STEER.ROUTE (R232). -/
def execSteerRoute (r : RafterId) (f : Frame) (o : SteerOps) (s : State) : Out State :=
  .next (steerEffect s r f 2 o)

/-- JOIN (R232). -/
def execJoin (r : RafterId) (f : Frame) (o : SteerOps) (s : State) : Out State :=
  .next (steerEffect s r f 3 o)

/-- FORK (R232). -/
def execFork (r : RafterId) (f : Frame) (o : SteerOps) (s : State) : Out State :=
  .next (steerEffect s r f 4 o)

/-- One step of a steering unit (R108). -/
def execSteeringStep (r : RafterId) (stu : BitVec 2) (s : State) : Out State :=
  .next (steeringStep s r stu)

end Sys2Proof.Machine
end

