-- ==== Sys2Proof/Machine/Tensor.lean ====
section
/-!
DEFINITION. The tensor array (chapter 4; R251 to R268): weight blocks, products in ascending chunks of K,
drains, valley accumulation, and the checks of the accumulator buffers.
-/

namespace Sys2Proof.Machine

/-! ### Descriptors (R255, R288) -/

def descOf (x : Rafter) (d : Byte) : Nat := (tableGet 0 x.descs d.toNat).toNat

def dTshape (d : Nat) : Nat := field d 224 32
def dAstr (d : Nat) : Nat := field d 256 32
def dBstr (d : Nat) : Nat := field d 288 32
def dCstr (d : Nat) : Nat := field d 320 32
def dAsoff (d : Nat) : Int := (BitVec.ofNat 32 (field d 352 32)).toInt
def dAsstr (d : Nat) : Nat := field d 384 32
def dBsoff (d : Nat) : Int := (BitVec.ofNat 32 (field d 416 32)).toInt
def dBsstr (d : Nat) : Nat := field d 448 32
def dPada (d : Nat) : Nat := field d 480 16
def dPadb (d : Nat) : Nat := field d 496 16

/-- M, N and K of a shape word (Table 7.2). -/
def shM (w : Nat) : Nat := field w 0 7
def shN (w : Nat) : Nat := field w 7 7
def shK (w : Nat) : Nat := field w 14 18

/-- Chunk width of a format (Table 4.1). -/
def chunkWidth : ElemType → Nat
  | .mxfp4 => 8
  | .e4m3 | .e5m2 | .mxfp8 | .mxfp6 | .int8 => 4
  | .bf16 | .fp16 => 2
  | _ => 1

/-- Bits of RFT_TA_FLAGS (Table 4.4). -/
def tfNanIn : Nat := 1
def tfInfIn : Nat := 2
def tfInvalid : Nat := 4
def tfScaleNan : Nat := 8
def tfOvfAcc : Nat := 16
def tfSatInt : Nat := 32
def tfSatOut : Nat := 64
def tfNanOut : Nat := 128

/-! ### Accumulator buffers (R144, R159) -/

def accOf (x : Rafter) (b : Bool) : Acc := x.acc.getD (b2n b) Acc.reset
def setAcc (x : Rafter) (b : Bool) (a : Acc) : Rafter := { x with acc := x.acc.set (b2n b) a }

def accCell (a : Acc) (i j : Nat) : W32 := tableGet 0 a.cells (64 * i + j)

/-- An element written: the checksum lanes of its row and column and the corner follow (R159). -/
def putCell (a : Acc) (i j : Nat) (v : W32) : Acc :=
  let d := accCell a i j ^^^ v
  { a with cells := tablePut 0 a.cells (64 * i + j) v
           rows := tablePut 0 a.rows i (tableGet 0 a.rows i ^^^ d)
           cols := tablePut 0 a.cols j (tableGet 0 a.cols j ^^^ d)
           corner := a.corner ^^^ d }

def xorOf (l : List W32) : W32 := l.foldl (· ^^^ ·) 0

/-- The XOR of the stored elements of a row, and of a column. -/
def rowXor (a : Acc) (i : Nat) : W32 := xorOf ((List.range 64).map (fun j => accCell a i j))
def colXor (a : Acc) (j : Nat) : W32 := xorOf ((List.range 64).map (fun i => accCell a i j))

def badRows (a : Acc) : List Nat := (List.range 64).filter (fun i => rowXor a i ≠ tableGet 0 a.rows i)
def badCols (a : Acc) : List Nat := (List.range 64).filter (fun j => colXor a j ≠ tableGet 0 a.cols j)

/-- The checksum lanes agree with the elements. -/
def accSound (a : Acc) : Bool :=
  (badRows a).isEmpty && (badCols a).isEmpty &&
  a.corner == xorOf ((List.range 64).map (fun i => rowXor a i))

/-- The rebuild of R161: the rebuilt buffer, or none where more than one row and more than one column
fail or the recheck fails. The other patterns of failed checksums are not rebuilt either (log 119). -/
def rebuild (a : Acc) : Option Acc :=
  match badRows a, badCols a with
  | [i], [j] =>
    let v := tableGet 0 a.cols j ^^^ colXor a j ^^^ accCell a i j
    let b := { a with cells := tablePut 0 a.cells (64 * i + j) v }
    if accSound b then some b else none
  | [i], [] =>
    let b := { a with rows := tablePut 0 a.rows i (rowXor a i) }
    if accSound b then some b else none
  | [], [j] =>
    let b := { a with cols := tablePut 0 a.cols j (colXor a j) }
    if accSound b then some b else none
  | _, _ => none

/-! ### Operands -/

/-- Where an operand's elements and scales come from. -/
structure Operand where
  typ : ElemType
  uns : Bool
  pad : Nat
  k : Nat
  /-- element bits of K position `p` -/
  elems : List Nat
  /-- block scales -/
  scales : List Byte
deriving DecidableEq, Repr

/-- A row or column read from the scratchpad (R260, R289). -/
def readOperand (m : Mem) (t : ElemType) (uns : Bool) (pad k base : Nat) (scaleAt : Int) : Operand :=
  { typ := t, uns := uns, pad := padBits t pad, k := k
    elems := (List.range k).map (fun p => elemAt m base (elemBits t) p)
    scales := if isMx t then
        (List.range ((k + 31) / 32)).map (fun b : Nat => memByte m (scaleAt + (b : Int)).toNat) else [] }

/-- A column of a weight block. -/
def blockOperand (b : WBlock) (pad j : Nat) : Operand :=
  let w := chunkWidth b.btype
  { typ := b.btype, uns := b.buns, pad := padBits b.btype pad, k := b.k
    elems := (List.range b.k).map (fun p => (tableGet 0 b.elems (64 * w * j + p)).toNat)
    scales := (List.range ((b.k + 31) / 32)).map (fun c => tableGet 0 b.scales (16 * j + c)) }

/-- The element at K position `p`: beyond K, the padding value (R261). -/
def operandAt (o : Operand) (p : Nat) : Nat := o.elems.getD p o.pad

/-! ### One chunk (R135, R136) -/

/-- The power of two of a chunk's block scales; none when a scale byte is 0xFF (R134). -/
def scaleExp (a b : Operand) (p : Nat) : Option Int :=
  if isMx a.typ then
    let x := (a.scales.getD (p / 32) 0).toNat
    let y := (b.scales.getD (p / 32) 0).toNat
    if x = 255 ∨ y = 255 then none else some ((x : Int) + y - 254)
  else some 0

def scaleV (k : Int) : FV → FV
  | .fin n m e => .fin n m (e + k)
  | v => v

/-- A floating-point chunk added to the running value with one rounding, and the flags it sets (Table 4.4; which elements
set them is in log 95). -/
def chunkFloat (a b : Operand) (w c : Nat) (v : W32) : W32 × Nat :=
  let ps := (List.range w).map (fun q => c * w + q)
  let xs := ps.map (fun p => (valueOf a.typ false (operandAt a p), valueOf b.typ false (operandAt b p)))
  let anyNan := xs.any (fun e => isNan e.1 || isNan e.2)
  let anyInf := xs.any (fun e => isInf e.1 || isInf e.2)
  let f0 := (if anyNan then tfNanIn else 0) ||| (if anyInf then tfInfIn else 0)
  match scaleExp a b (c * w) with
  | none => (qnan, f0 ||| tfScaleNan)
  | some k =>
    let prods := xs.map (fun e => scaleV k (mulV e.1 e.2))
    let total := sumV (fv v :: prods)
    let r := f32 total
    let invalid := !anyNan && (isNan (sumV prods) || (!isNan (fv v) && isNan total))
    let ovf := isInf (fv r) && isFin total
    (r, f0 ||| (if invalid then tfInvalid else 0) ||| (if ovf then tfOvfAcc else 0))

/-- An INT8 chunk: exact, then saturated to INT32 (R136). -/
def chunkInt (a b : Operand) (w c : Nat) (v : W32) : W32 × Nat :=
  let ps := (List.range w).map (fun q => c * w + q)
  let t := ps.foldl (fun (acc : Int) p =>
    acc + intOf .int8 a.uns (operandAt a p) * intOf .int8 b.uns (operandAt b p)) v.toInt
  let r := satInt 32 t
  (BitVec.ofInt 32 r.1, if r.2 then tfSatInt else 0)

/-- Chunks applied in ascending K (R135). An INT32 element that has saturated stays there (R136). -/
def chunks (a b : Operand) (w : Nat) : Nat → Nat → Bool → W32 → W32 × Nat
  | 0, _, _, v => (v, 0)
  | n + 1, c, stuck, v =>
    let r := if a.typ = .int8 then (if stuck then (v, 0) else chunkInt a b w c v)
             else chunkFloat a b w c v
    let s := chunks a b w n (c + 1) (stuck || r.2 &&& tfSatInt ≠ 0) r.1
    (s.1, r.2 ||| s.2)

/-- One output element from its starting value; `stuck` says that it has saturated before. -/
def dotElement (a b : Operand) (start : W32) (stuck : Bool) : W32 × Nat :=
  let w := chunkWidth a.typ
  chunks a b w ((a.k + w - 1) / w) 0 stuck start

/-- The product over the region: for each row and column the new element and the flags it set, in row
order. -/
def productCells (arows bcols : List Operand) (start : Nat → Nat → W32) (stuck : Nat → Nat → Bool) :
    List (Nat × Nat × W32 × Nat) :=
  (arows.mapIdx (fun i a => bcols.mapIdx (fun j b =>
    (i, j, dotElement a b (start i j) (stuck i j))))).flatten

/-! ### Address checks (R253) -/

/-- An operand of `rows` rows of `bytes` bytes at a stride, with its scale plane, lies within the limit. -/
def operandOk (x : Rafter) (g : BitVec 4) (t : ElemType) (rows k stride : Nat) (soff : Int) (sstr : Nat) :
    Bool :=
  let a := agAddr x g
  let n := denseBytes t k
  agSpanOk x g a (a + ((rows - 1) * stride + n : Nat)) &&
  (!isMx t || agSpanOk x g (a + soff) (a + soff + ((rows - 1) * sstr + (k + 31) / 32 : Nat)))

/-! ### The tensor array's issue queue (R89, R142, R146, R268) -/

/-- The block that a weight-stationary product will take, by its N and K: that of the latest TLD which waits in the
queue, else the shadow's, else the live one (R266). -/
def blockDue (x : Rafter) : Nat × Nat :=
  match (unitQ x 2).reverse.findSome? (fun e => match e.job with
    | some (.tld _ _ n k _) => some (n, k)
    | _ => none) with
  | some nk => nk
  | none => match x.shadow, x.live with
    | some b, _ => (b.n, b.k)
    | none, some b => (b.n, b.k)
    | none, none => (0, 0)

/-- UPDs in the issue port's queue that have still to read a tile. -/
def readsDue (x : Rafter) (vt : BitVec 6) : Nat :=
  ((unitQ x 9).filter (fun e => match e.job with
    | some (.upd o _ c _) => decide ((vt.toNat + 64 - o.vt0.toNat) % 64 < c)
    | _ => false)).length

/-! ### TLD (R142, R267) -/

/-- The block's bytes as they stand in the scratchpad. -/
def loadBlock (x : Rafter) (t : ElemType) (uns : Bool) (n k addr : Nat) (td : Byte) : WBlock :=
  let d := descOf x td
  let w := chunkWidth t
  let pad := BitVec.ofNat 32 (padBits t (dPadb d))
  let elems : Table W32 := (List.range 64).foldl (fun acc j =>
    (List.range (64 * w)).foldl (fun ac p =>
      tablePut 0 ac (64 * w * j + p)
        (if j < n ∧ p < k then
          BitVec.ofNat 32 (elemAt x.scratch (addr + j * dBstr d) (elemBits t) p) else pad)) acc) []
  let scales : Table Byte := if isMx t then
      (List.range n).foldl (fun acc j => (List.range ((k + 31) / 32)).foldl (fun ac b =>
        tablePut 0 ac (16 * j + b)
          (memByte x.scratch ((addr : Int) + dBsoff d + (j * dBsstr d + b : Nat)).toNat)) acc) []
    else []
  { btype := t, buns := uns, n := n, k := k, addr := addr, td := td, elems := elems, scales := scales, failed := false }

/-- The shape word of an instruction: the register that SHP names, or the planned one (R256). -/
def shapeWord (x : Rafter) (shp : Shp) (planned : Nat) : Nat := shapeValue x shp planned

def tensorCodes : List Byte := [0x40, 0x43, 0xE0, 0xE1, 0xE2]

/-- TLD begins: the block stands in the shadow register. -/
def beginTld (s : State) (n : RafterId) (p i : Nat) (e : InFlight) (o : TensorOps) (hw : UnitCheck) (nn k : Nat)
    (b : Int) : State :=
  let c := rafterCheck s n (workAt e.place false) tensorCodes hw
  let y := rafterAt c.1 p
  if c.2 then
    setRafter c.1 p (begun { y with shadow := some (loadBlock y o.btype o.buns nn k b.toNat o.td) } 2 i { e with kind := .loads } true)
  else setRafter c.1 p (begun y 2 i e false)

/-! ### Drains (R147, R262, Table 4.5) -/

/-- The rafter's stochastic stream for unit `u`, on or off. -/
def rndOf (s : State) (n : RafterId) (u : Nat) (count : BitVec 56) (on : Bool) : Rnd :=
  { course := s.crs.course, step := s.crs.step, rafter := n, stream := u, count := count, on := on }

/-- Elements converted in order: their patterns, the stream's state and the flags. -/
def convertAll (t : ElemType) (sat : Bool) : Rnd → List W32 → List Nat × Rnd × Nat
  | r, [] => ([], r, 0)
  | r, v :: vs =>
    match fmtOf t with
    | none =>
      let q := convertAll t sat r vs
      (v.toNat :: q.1, q.2)
    | some fm =>
      let c := convertF fm sat r (fv v)
      let q := convertAll t sat c.2 vs
      (c.1.bits :: q.1, q.2.1,
        q.2.2 ||| (if c.1.sat then tfSatOut else 0) ||| (if c.1.madeNan then tfNanOut else 0))

def elemBytes (t : ElemType) (l : List Nat) : List Byte := l.flatMap (fun v => bytesOf (elemBits t / 8) v)

/-- Bytes cut into payloads of 512 (R237, R262). -/
def payloads : Nat → List Byte → List (List Byte)
  | 0, _ => []
  | k + 1, bs => if bs.isEmpty then [] else bs.take 512 :: payloads k (bs.drop 512)

def pushPayloads (n : RafterId) (q : Nat) : List (List Byte) → Rafter → Rafter
  | [], y => y
  | d :: ds, y => pushPayloads n q ds (pushOut n y q 0 d)

/-- Rows of converted elements written at an address with a stride. -/
def writeRows (t : ElemType) (addr stride : Nat) : Nat → List (List Nat) → Mem → Mem
  | _, [], m => m
  | i, r :: rs, m => writeRows t addr stride (i + 1) rs (memWrite m (addr + i * stride) (elemBytes t r))

/-- Converted elements cut into rows of `n`. -/
def rowsOf (n : Nat) : Nat → List Nat → List (List Nat)
  | 0, _ => []
  | k + 1, l => l.take n :: rowsOf n k (l.drop n)

/-- The drain of a region of M rows and N columns to the queue or to the address `d` (R147, R262). -/
def drainRegion (s : State) (n : RafterId) (x : Rafter) (o : TensorOps) (m nn : Nat) (d : Int) : Rafter :=
  let a := accOf x o.buf
  let vals := (List.range m).flatMap (fun i => (List.range nn).map (fun j => accCell a i j))
  let r := convertAll o.dtype o.sat (rndOf s n 0 x.taCount o.rnd) vals
  let y := hitRafter { x with taCount := r.2.1.count, taFlags := x.taFlags ||| BitVec.ofNat 32 r.2.2 } 0x70
    (r.2.1.count - x.taCount).toNat
  if o.dq then
    let bs := elemBytes o.dtype r.1
    pushPayloads n o.qi.toNat (payloads (bs.length / 512 + 1) bs) y
  else
    { y with scratch := writeRows o.dtype d.toNat (dCstr (descOf x o.td)) 0 (rowsOf nn m r.1) y.scratch }

/-! ### Products (R135 to R142, R260 to R266) -/

/-- Entries that FIRE OUT requires for a drain to a queue (R262). -/
def drainEntries (t : ElemType) : Nat := (4096 * (elemBits t / 8) + 511) / 512

/-- With FIRE OUT a product waits for its output entries. -/
def productFire (f : Frame) (o : TensorOps) (x : Rafter) : Option (BitVec 4) :=
  if (f.fire = .out ∨ f.fire = .inout) ∧ oqFree x o.qi.toNat < drainEntries o.dtype then some 3 else none

/-- The operands of a product whose A and B lie at `ab` and `bb`: A rows and B columns, with the weight registers after it
has started. -/
def operandsFrom (x : Rafter) (o : TensorOps) (m nn k : Nat) (aa bb : Int) : List Operand × List Operand :=
  let d := descOf x o.td
  let arows := fun (kk : Nat) => (List.range m).map (fun i =>
    readOperand x.scratch o.atype o.auns (dPada d) kk (aa.toNat + i * dAstr d)
      ((aa.toNat : Int) + dAsoff d + (i * dAsstr d : Nat)))
  if o.ws then
    match x.live with
    | none => ([], [])
    | some b => (arows b.k, (List.range b.n).map (fun j => blockOperand b (dPadb (descOf x b.td)) j))
  else
    (arows k, (List.range nn).map (fun j =>
      readOperand x.scratch o.btype o.buns (dPadb d) k (bb.toNat + j * dBstr d)
        ((bb.toNat : Int) + dBsoff d + (j * dBsstr d : Nat))))

/-- The operands of a product at the addresses that its generators give. -/
def productOperands (x : Rafter) (o : TensorOps) (m nn k : Nat) : List Operand × List Operand :=
  operandsFrom x o m nn k (agAddr x o.aag) (agAddr x o.bag)

/-- A padding row of A or column of B (R261); the scale of its blocks is free. -/
def padOperand (t : ElemType) (uns : Bool) (pad k : Nat) (desc : BitVec 512) : Operand :=
  { typ := t, uns := uns, pad := padBits t pad, k := k, elems := []
    scales := List.replicate ((k + 31) / 32) (Config.padScale desc) }

/-- Flags that the products of one row and one column set from several starting values. -/
def laneFlags (a b : Operand) (starts : List (W32 × Bool)) : Nat :=
  starts.eraseDups.foldl (fun f e => f ||| (dotElement a b e.1 e.2).2) 0

/-- Flags set in the lanes outside the region, whose operands are padding (R129, R152, R261). -/
def padFlags (x : Rafter) (o : TensorOps) (arows bcols : List Operand) (start : Nat → Nat → W32 × Bool) : Nat :=
  let d := descOf x o.td
  let k := ((arows ++ bcols).map (·.k)).headD 0
  let padb := if o.ws then (match x.live with
    | some b => dPadb (descOf x b.td)
    | none => 0) else dPadb d
  let pa := padOperand o.atype o.auns (dPada d) k (tableGet 0 x.descs o.td.toNat)
  let pb := padOperand o.btype o.buns padb k (tableGet 0 x.descs o.td.toNat)
  let m := arows.length
  let nn := bcols.length
  let low := fun (l : Nat) => (List.range 64).drop l
  let f1 := (bcols.mapIdx (fun j b => laneFlags pa b ((low m).map (fun i => start i j)))).foldl (· ||| ·) 0
  let f2 := (arows.mapIdx (fun i a => laneFlags a pb ((low nn).map (fun j => start i j)))).foldl (· ||| ·) 0
  f1 ||| f2 ||| laneFlags pa pb ((low m).flatMap (fun i => (low nn).map (fun j => start i j)))

/-- The shadow block becomes the live one when a weight-stationary product starts (R142). -/
def takeShadow (x : Rafter) (ws : Bool) : Rafter :=
  if ws then
    match x.shadow with
    | some b => { x with live := some b, shadow := none }
    | none => x
  else x

/-- The reload of R162: the live block is read again from the scratchpad as it stands. -/
def reloadLive (x : Rafter) : Rafter :=
  match x.live with
  | none => x
  | some b => { x with live := some { loadBlock x b.btype b.buns b.n b.k b.addr b.td with failed := true } }

/-- A weight-register failure of a block that has failed before (R162). -/
def failsAgain (x : Rafter) (e : HwEvent) : Bool := eventCode e == 0x43 && x.live.any (·.failed)

/-- The elements of a product written to a buffer; those that saturated stay marked (R136). -/
def putCells (a : Acc) (l : List (Nat × Nat × W32 × Nat)) : Acc :=
  l.foldl (fun b e =>
    let c := putCell b e.1 e.2.1 e.2.2.1
    if e.2.2.2 &&& tfSatInt = 0 then c else { c with stuck := (64 * e.1 + e.2.1) :: c.stuck }) a

/-- M, N and K that a product works on: from the shape word, or N and K from the block that it will take (R266). -/
def productExtents (x : Rafter) (o : TensorOps) (sw : Nat) : Nat × Nat × Nat :=
  if o.ws then (shM sw, blockDue x) else (shM sw, shN sw, shK sw)

/-- The shape faults of a product: any extent above its planned maximum (R258). -/
def productOversize (o : TensorOps) (sw planned : Nat) : Bool :=
  decide (shM planned < shM sw) ||
  (!o.ws && (decide (shN planned < shN sw) || decide (shK planned < shK sw)))

def productBoundsOk (x : Rafter) (o : TensorOps) (m nn k : Nat) : Bool :=
  let d := descOf x o.td
  operandOk x o.aag o.atype m k (dAstr d) (dAsoff d) (dAsstr d) &&
  (o.ws || operandOk x o.bag o.btype nn k (dBstr d) (dBsoff d) (dBsstr d)) &&
  (!o.drn || o.dq || agSpanOk x o.dag (agAddr x o.dag)
    (agAddr x o.dag + ((m - 1) * dCstr d + denseBytes o.dtype nn : Nat)))

def valleyCell (x : Rafter) (vt : BitVec 6) (i j : Nat) : W32 :=
  tableGet 0 x.valley (4096 * vt.toNat + 64 * i + j)

/-- The starting value of an element (R137). -/
def startCell (x : Rafter) (kind : ProductKind) (o : TensorOps) (i j : Nat) : W32 :=
  match kind with
  | .tmm => 0
  | .tmma => accCell (accOf x o.buf) i j
  | .tmmv => if o.clr then 0 else valleyCell x o.vt i j

/-- The region written back to a valley tile, which becomes dirty. -/
def putValley (x : Rafter) (vt : BitVec 6) (l : List (Nat × Nat × W32 × Nat)) : Rafter :=
  { x with
    valley := l.foldl (fun v e => tablePut 0 v (4096 * vt.toNat + 64 * e.1 + e.2.1) e.2.2.1) x.valley
    dirty := x.dirty ||| (1#64 <<< vt.toNat) }

/-- Multiply-accumulates of a product, padding included (Table 17.2): the whole tile in output-stationary mode, the rows that
enter in weight-stationary mode (log 117). -/
def macCount (o : TensorOps) (m k : Nat) : Nat :=
  let w := chunkWidth o.atype
  (if o.ws then m else 64) * 64 * ((k + w - 1) / w * w)

/-- The elements of a product, and the rafter with its flags set. -/
def productOn (x : Rafter) (kind : ProductKind) (o : TensorOps) (m nn k : Nat) (a b : Int) :
    List (Nat × Nat × W32 × Nat) × Rafter :=
  let ops := operandsFrom x o m nn k a b
  let stuck := fun i j => kind == .tmma && (accOf x o.buf).stuck.contains (64 * i + j)
  let r := productCells ops.1 ops.2 (startCell x kind o) stuck
  let pads := padFlags x o ops.1 ops.2 (fun i j => (startCell x kind o i j, stuck i j))
  let flags := r.foldl (fun f e => f ||| e.2.2.2) pads
  (r, hitRafter { x with
    taFlags := x.taFlags ||| BitVec.ofNat 32 flags
    taType := BitVec.ofNat 4 (typeCode o.atype), taMode := if o.ws then 2 else 1 } 0x21 (macCount o m k))

/-- The buffer after a product: TMM and TMMV start it anew, TMMA adds to it. -/
def productAcc (x : Rafter) (kind : ProductKind) (o : TensorOps) (r : List (Nat × Nat × W32 × Nat)) : Acc :=
  let base := if kind = .tmma then accOf x o.buf else Acc.reset
  { putCells base r with st := if kind = .tmmv ∨ o.drn then 3 else 1, int := o.atype == .int8 }

def taInfoWord (code : Nat) (buf : Bool) (row col : Nat) : W32 :=
  BitVec.ofNat 32 (code * 2 ^ 24 + b2n buf * 2 ^ 13 + col * 2 ^ 6 + row)

def noteTa (x : Rafter) (code : Nat) (w : W32) : Rafter :=
  { x with taFault := x.taFault ||| BitVec.ofNat 32 (2 ^ (code - 0x40)), taInfo := w }

/-- A checksum mismatch is rebuilt, counted as transient, or is lasting as TACCU (R161); ROW and COL name the first row
and column that fail. -/
def checkAcc (s : State) (n : RafterId) (b : Bool) : State :=
  let x := rafterOf s n
  let a := accOf x b
  if accSound a then s
  else
    let word := fun (code : Nat) => taInfoWord code b ((badRows a).headD 0) ((badCols a).headD 0)
    match rebuild a with
    | some a' =>
      let s1 := updRafter s n (fun y => noteTa y 0x41 (word 0x41))
      let o := retried s1 (rafterUnit n) 0x41 (word 0x41) 0 0 false
      if o.2 then updRafter o.1 n (fun y => countRetry (setAcc y b a') 0x41) else o.1
    | none =>
      let s1 := updRafter s n (fun y => noteTa y 0x42 (word 0x42))
      lastingResponse s1 (rafterUnit n) 0x42 (word 0x42) 0 0

/-! ### Products in the queue -/

/-- What is left of a product when one of its checks fails for good (R158): a lane's failure leaves the other lanes'
writes and a value in that lane that is not stated; a drain converter's leaves the rows before it. -/
def failedProduct (s : State) (n : RafterId) (p : Nat) (kind : ProductKind) (o : TensorOps) (m nn : Nat) (d : Int)
    (r : List (Nat × Nat × W32 × Nat)) (info : BitVec 24) : State :=
  let x := rafterAt s p
  let row := field info.toNat 0 6
  let y := setAcc x o.buf (productAcc x kind o r)
  if field info.toNat 12 1 = 1 then
    setRafter s p (if kind ≠ .tmmv ∧ o.drn then drainRegion s n y o (min row m) nn d else y)
  else
    let v := drawFree s
    setRafter v.2 p (setAcc y o.buf (putCell (accOf y o.buf) row (field info.toNat 6 6) (v.1.truncate 32)))

/-- The entries that a drain to a queue has filled are no longer reserved (R262). -/
def filled (e : InFlight) (before after : Nat) : InFlight :=
  { e with resv := e.resv.map (fun r => (r.1, r.2 - (after - before))) }

/-- A product's drain, the column checksums checked as it passes (R160). A hip token that has gone before is a fault at
the send (R117). -/
def drainProduct (s : State) (n : RafterId) (p i : Nat) (e : InFlight) (o : TensorOps) (m nn : Nat) (d : Int) : State :=
  let s1 := if (badCols (accOf (rafterAt s p) o.buf)).isEmpty then s else checkAcc s n o.buf
  let x := rafterAt s1 p
  if o.dq ∧ (oqOf x o.qi.toNat).hipSent then
    dataflowFault (setRafter s1 p (begun x 2 i e false)) n 0x39 e.place (faultInfoWord 0 0x39 false true o.qi.toNat) 0
  else
    let y := drainRegion s1 n x o m nn d
    setRafter s1 p (begun y 2 i (filled { e with kind := .empties o.buf } (oqOf x o.qi.toNat).tokens.length
      (oqOf y o.qi.toNat).tokens.length) true)

/-- A product that went through: its buffer, its drain, or its write-back to the valley tile. -/
def placeProduct (s : State) (n : RafterId) (p i : Nat) (e : InFlight) (kind : ProductKind) (o : TensorOps) (m nn : Nat)
    (d : Int) (r : List (Nat × Nat × W32 × Nat)) : State :=
  let x := rafterAt s p
  let y := setAcc x o.buf (productAcc x kind o r)
  if kind = .tmmv then
    let old := r.map (fun c => (4096 * o.vt.toNat + 64 * c.1 + c.2.1, valleyCell x o.vt c.1 c.2.1))
    setRafter s p (begun (putValley y o.vt r) 2 i { e with kind := .empties o.buf, old := old } true)
  else if o.drn then drainProduct (setRafter s p y) n p i e o m nn d
  else setRafter s p (begun y 2 i { e with kind := .holds o.buf } true)

/-- The failure whose retry failed, of a residue check. -/
def residueFailure (hw : UnitCheck) : Option (BitVec 24) :=
  hw.cycles.flatten.findSome? (fun e => match e with
    | .twice c i => if c = 0x40 then some i else none
    | _ => none)

/-- A product begins: a weight-stationary one takes the shadow (R142), its checks are met, and it is carried out. -/
def beginProduct (s : State) (n : RafterId) (p i : Nat) (e : InFlight) (kind : ProductKind) (o : TensorOps)
    (hw : UnitCheck) (m nn k : Nat) (a b d : Int) : State :=
  let s1 := setRafter s p (takeShadow (rafterAt s p) o.ws)
  let c := rafterCheckWith s1 n (workAt e.place false) tensorCodes failsAgain hw
  let y0 := rafterAt c.1 p
  let y := if o.ws && hw.cycles.flatten.any (fun v => eventCode v == 0x43) then reloadLive y0 else y0
  let r := productOn y kind o m nn k a b
  if c.2 then placeProduct (setRafter c.1 p r.2) n p i e kind o m nn d r.1
  else
    let s2 := setRafter c.1 p (begun y0 2 i e false)
    match residueFailure hw with
    | some info => failedProduct (setRafter s2 p (begun r.2 2 i e false)) n p kind o m nn d r.1 info
    | none => s2

/-- TCHK begins (R163): a checksum sweep, and the pattern product, whose mismatch is lasting. -/
def beginTchk (s : State) (n : RafterId) (p i : Nat) (e : InFlight) (b : Bool) (hw : UnitCheck) : State :=
  let x := { rafterAt s p with taMode := 3 }
  let s1 := checkAcc (setRafter s p (begun x 2 i { e with kind := .checks } true)) n b
  match hw.cycles.flatten.find? (fun v => eventCode v == 0x44 && !isFixed v) with
  | none => s1
  | some v =>
    let w := checkWord (rafterOf s1 n) (workAt e.place false) 0x44 (eventInfo v)
    lastingResponse (updRafter s1 n (fun y => noteTa y 0x44 w)) (rafterUnit n) 0x44 w 0 0

/-- An instruction at the front of the tensor array's queue may begin: TLD with the shadow free (R142), a product unless its
buffer drains (R146) or an earlier UPD has still to read its tile (R149), TCHK with no buffer accumulating or
draining and no TLD at work (R268). -/
def mayBegin (x : Rafter) : UnitJob → Bool
  | .tld _ _ _ _ _ => x.shadow.isNone
  | .product _ o _ _ _ _ _ _ _ held => (accOf x o.buf).st != 3 && held == 0
  | .tchk _ _ => x.acc.all (fun a => a.st != 1 && a.st != 3) && (unitQ x 2).all (fun e => e.kind != .loads)
  | _ => false

def beginTensor (s : State) (n : RafterId) (p i : Nat) (e : InFlight) : UnitJob → State
  | .tld o hw nn k b => beginTld s n p i e o hw nn k b
  | .product kind o hw m nn k a b d _ => beginProduct s n p i e kind o hw m nn k a b d
  | .tchk b hw => beginTchk s n p i e b hw
  | _ => s

/-- The tensor array starts its instructions in issue order, as far as they may begin (R89, R268). -/
def tensorJobs : Nat → State → RafterId → State
  | 0, s, _ => s
  | k + 1, s, n =>
    match physOf s n with
    | none => s
    | some p =>
      let x := rafterAt s p
      if !working s then s
      else match nextJob (unitQ x 2) 0 with
        | none => s
        | some (i, e, j) => if mayBegin x j then tensorJobs k (beginTensor s n p i e j) n else s

def startTensor (s : State) (n : RafterId) : State := tensorJobs 4 s n

/-- A tensor instruction takes its place in the queue and begins where it may. -/
def enqueueTensor (s : State) (n : RafterId) (p : Nat) (f : Frame) (x : Rafter) (resv : Option (Nat × Nat))
    (j : UnitJob) : State :=
  startTensor (setRafter s p (placed (advanced x) 2
    { flight f .none false with job := some j, place := x.seq.idx, resv := resv })) n

/-- TLD: N and K of the shape word. -/
def tldEffect (s : State) (n : RafterId) (f : Frame) (o : TensorOps) (hw : UnitCheck) : State :=
  issue s n 2 true noFire (fun p x =>
    let d := descOf x o.td
    let sw := shapeWord x o.shp (dTshape d)
    if shN (dTshape d) < shN sw ∨ shK (dTshape d) < shK sw then shapeFault s n sw
    else if shN sw = 0 ∨ shK sw = 0 then setRafter s p (placedDone x 2 f)
    else if !operandOk x o.bag o.btype (shN sw) (shK sw) (dBstr d) (dBsoff d) (dBsstr d) then
      boundFault s n
    else enqueueTensor s n p f x none (.tld o hw (shN sw) (shK sw) (agAddr x o.bag)))

/-- The output entries that a product reserves at issue (R91, R262). -/
def productEntries (kind : ProductKind) (o : TensorOps) : Option (Nat × Nat) :=
  if kind ≠ .tmmv ∧ o.drn ∧ o.dq then some (o.qi.toNat, drainEntries o.dtype) else none

/-- TMM, TMMA and TMMV. A zero shape keeps its output entries reserved until it completes (R257). -/
def productEffect (s : State) (n : RafterId) (f : Frame) (kind : ProductKind) (o : TensorOps)
    (hw : UnitCheck) : State :=
  issue s n 2 true (productFire f o) (fun p x =>
    let sw := shapeWord x o.shp (dTshape (descOf x o.td))
    let e := productExtents x o sw
    if productOversize o sw (dTshape (descOf x o.td)) then shapeFault s n sw
    else if shM sw = 0 ∨ (!o.ws ∧ (shN sw = 0 ∨ shK sw = 0)) ∨ e.2.1 = 0 ∨ e.2.2 = 0 then
      setRafter s p (placed (advanced x) 2
        { flight f .none true with place := x.seq.idx, resv := productEntries kind o })
    else if !productBoundsOk x o e.1 e.2.1 e.2.2 then boundFault s n
    else enqueueTensor s n p f x (productEntries kind o) (.product kind o hw e.1 e.2.1 e.2.2 (agAddr x o.aag)
      (agAddr x o.bag) (agAddr x o.dag) (if kind = .tmmv then readsDue x o.vt else 0)))

/-! ### Checks of the buffers (R160, R161, R163) -/

/-- ACCUMULATOR_SCRUB (R160): the next row of a buffer is checked. -/
def accumulatorScrub (s : State) (n : RafterId) (b : Bool) : State :=
  let x := rafterOf s n
  let i := (x.scrubRow.getD (b2n b) 0).toNat
  let a := accOf x b
  let s1 := updRafter s n (fun y => { y with scrubRow := y.scrubRow.modify (b2n b) (· + 1) })
  if rowXor a i = tableGet 0 a.rows i then s1 else checkAcc s1 n b

/-- TCHK (R163, R268). -/
def tchkEffect (s : State) (n : RafterId) (f : Frame) (b : Bool) (hw : UnitCheck) : State :=
  issue s n 2 true noFire (fun p x => enqueueTensor s n p f x none (.tchk b hw))

/-! ### Meanings -/

/-- TLD (R267). -/
def execTld (r : RafterId) (f : Frame) (o : TensorOps) (hw : UnitCheck) (s : State) : Out State :=
  .next (tldEffect s r f o hw)

/-- TMM (R137). -/
def execTmm (r : RafterId) (f : Frame) (o : TensorOps) (hw : UnitCheck) (s : State) : Out State :=
  .next (productEffect s r f .tmm o hw)

/-- TMMA (R137). -/
def execTmma (r : RafterId) (f : Frame) (o : TensorOps) (hw : UnitCheck) (s : State) : Out State :=
  .next (productEffect s r f .tmma o hw)

/-- TMMV (R265). -/
def execTmmv (r : RafterId) (f : Frame) (o : TensorOps) (hw : UnitCheck) (s : State) : Out State :=
  .next (productEffect s r f .tmmv o hw)

/-- TCHK (R163). -/
def execTchk (r : RafterId) (f : Frame) (buf : Bool) (hw : UnitCheck) (s : State) : Out State :=
  .next (tchkEffect s r f buf hw)

/-- The accumulator scrubber (R160). -/
def execAccumulatorScrub (r : RafterId) (buf : Bool) (s : State) : Out State :=
  .next (accumulatorScrub s r buf)

end Sys2Proof.Machine
end

