-- ==== Sys2Proof/Machine/Vector.lean ====
section
/-!
DEFINITION. The vector engine (chapter 5; R269 to R278): operands, element operations in FP32 and BF16
mode, chains, reductions, conversion and MX quantisation.
-/

namespace Sys2Proof.Machine

/-! ### Flags (Table 5.2) -/

def vfNanIn : Nat := 1
def vfInfIn : Nat := 2
def vfInvalid : Nat := 4
def vfDom : Nat := 8
def vfDivz : Nat := 16
def vfOvf : Nat := 32
def vfSatOut : Nat := 64
def vfNanOut : Nat := 128
def vfEmptyRow : Nat := 256

def flagIf (c : Bool) (f : Nat) : Nat := if c then f else 0

/-! ### Rounding a result -/

/-- A value rounded once: to FP32, or in BF16 mode to BF16, held as the FP32 pattern of the same value
(R170, R171). -/
def roundV (bf : Bool) (v : FV) : W32 :=
  if bf then BitVec.ofNat 32 ((encodeF fmtBf16 .nearest false v).bits * 65536) else f32 v

/-- A rounded result with the overflow flag. -/
def rounded (bf : Bool) (v : FV) : W32 × Nat :=
  let r := roundV bf v
  (r, flagIf (isFin v && isInf (fv r)) vfOvf)

/-- A rounded result where a NaN that no operand brought in is INVALID. -/
def computed (bf : Bool) (ops : List FV) (v : FV) : W32 × Nat :=
  let r := rounded bf v
  (r.1, r.2 ||| flagIf (isNan v && !ops.any isNan) vfInvalid)

/-- The flags of operand elements. -/
def inFlags (ops : List FV) : Nat :=
  flagIf (ops.any isNan) vfNanIn ||| flagIf (ops.any isInf) vfInfIn

/-! ### Comparisons -/

/-- a < b for values that are not NaN, zeros equal. -/
def ltV (a b : FV) : Bool :=
  match a, b with
  | .inf x, .inf y => x && !y
  | .inf x, .fin _ _ _ => x
  | .fin _ _ _, .inf y => !y
  | .fin _ _ _, .fin _ _ _ =>
    let e0 := min (expOf a) (expOf b)
    decide ((if isZero a then 0 else alignTo e0 a) < (if isZero b then 0 else alignTo e0 b))
  | _, _ => false

def eqV (a b : FV) : Bool := !isNan a && !isNan b && !ltV a b && !ltV b a

/-- a before b in the order of V.MIN and V.MAX: −0 counts less than +0. -/
def orderLt (a b : FV) : Bool := ltV a b || (isZero a && isZero b && isNeg a && !isNeg b)

/-- V.MIN and V.MAX (Table 5.1). -/
def pickV (least : Bool) (a b : W32) : W32 :=
  if isNan (fv a) || isNan (fv b) then qnan
  else if orderLt (fv b) (fv a) then (if least then b else a) else (if least then a else b)

/-! ### Functions with their special values (R170) -/

def exp2Of (a : FV) : W32 × Nat :=
  match a with
  | .nan => (qnan, 0)
  | .inf neg => (if neg then 0 else f32 (.inf false), 0)
  | .fin neg m e => rounded false (exp2V neg m e)

def log2Of (a : FV) : W32 × Nat :=
  match a with
  | .nan => (qnan, 0)
  | .inf neg => if neg then (qnan, vfDom) else (f32 (.inf false), 0)
  | .fin neg m e =>
    if m = 0 then (f32 (.inf true), vfDivz)
    else if neg then (qnan, vfDom) else rounded false (log2V m e)

def oneV : FV := .fin false 1 0

def rcpOf (a : FV) : W32 × Nat :=
  match a with
  | .nan => (qnan, 0)
  | .inf neg => (f32 (.fin neg 0 0), 0)
  | .fin neg m _ => if m = 0 then (f32 (.inf neg), vfDivz) else rounded false (divV oneV a)

def sqrtOf (a : FV) : W32 × Nat :=
  match a with
  | .nan => (qnan, 0)
  | .inf neg => if neg then (qnan, vfDom) else (f32 a, 0)
  | .fin neg m _ =>
    if m = 0 then (f32 a, 0) else if neg then (qnan, vfDom) else rounded false (sqrtV a)

/-- 1 / √a as √(1 / a), with the reciprocal carried far beyond one rounding. -/
def rsqrtOf (a : FV) : W32 × Nat :=
  match a with
  | .nan => (qnan, 0)
  | .inf neg => if neg then (qnan, vfDom) else (0, 0)
  | .fin neg m _ =>
    if m = 0 then (f32 (.inf neg), vfDivz)
    else if neg then (qnan, vfDom) else rounded false (sqrtV (divV oneV a))

def tanhOf (a : FV) : W32 × Nat :=
  match a with
  | .nan => (qnan, 0)
  | .inf neg => (f32 (.fin neg 1 0), 0)
  | .fin neg m e => rounded false (tanhV neg m e)

/-! ### One element (Table 5.1) -/

def boolOne (b : Bool) : W32 := if b then 0x3F800000 else 0

/-- A comparison: a NaN makes it false and sets INVALID. -/
def compareV (rel : FV → FV → Bool) (a b : FV) : W32 × Nat :=
  if isNan a || isNan b then (0, vfInvalid) else (boolOne (rel a b), 0)

/-- The operands that an operation has. -/
def operandsOf (op : VecOp) (a b c : W32) : List FV :=
  match op with
  | .add | .sub | .mul | .min | .max | .cmpLt | .cmpLe | .cmpEq => [fv a, fv b]
  | .fma | .sel => [fv a, fv b, fv c]
  | _ => [fv a]

/-- The result of an element-wise operation with its flags. -/
def laneOp (op : VecOp) (bf : Bool) (a b c : W32) : W32 × Nat :=
  let va := fv a
  let vb := fv b
  let vc := fv c
  let r : W32 × Nat := match op with
    | .add => computed bf [va, vb] (sumV [va, vb])
    | .sub => computed bf [va, vb] (sumV [va, negate vb])
    | .mul => computed bf [va, vb] (mulV va vb)
    | .fma => computed bf [va, vb, vc] (sumV [mulV va vb, vc])
    | .min => (pickV true a b, 0)
    | .max => (pickV false a b, 0)
    | .abs => (a &&& 0x7FFFFFFF, 0)
    | .neg => (a ^^^ 0x80000000, 0)
    | .cmpLt => compareV ltV va vb
    | .cmpLe => compareV (fun x y => ltV x y || eqV x y) va vb
    | .cmpEq => compareV eqV va vb
    | .sel => (if isZero vc then b else a, 0)
    | .exp2 => exp2Of va
    | .log2 => log2Of va
    | .rcp => rcpOf va
    | .sqrt => sqrtOf va
    | .rsqrt => rsqrtOf va
    | .tanh => tanhOf va
    | _ => (a, 0)
  (r.1, r.2 ||| inFlags (operandsOf op a b c))

/-! ### Operands (R169, R269) -/

/-- An element of a stream widened to FP32 (R169): exact, but INT16 and INT32 by one rounding. A BF16
element keeps its bits, so a NaN keeps its payload. -/
def widen (t : ElemType) (uns : Bool) (bits : Nat) : W32 :=
  match t with
  | .fp32 => BitVec.ofNat 32 bits
  | .bf16 => BitVec.ofNat 32 (bits * 65536)
  | .int8 => f32 (valueOf t uns bits)
  | _ => f32 (valueOf t false bits)

/-- An MX element with its block scale (R169). -/
def widenMx (t : ElemType) (bits : Nat) (scale : Byte) : W32 × Nat :=
  if scale = 0xFF then (qnan, vfNanIn)
  else rounded false (scaleV ((scale.toNat : Int) - 127) (valueOf t false bits))

/-- An FP32 word in BF16 mode: rounded to BF16 when the instruction issues (R273), with the overflow flag (R172). -/
def modeWord (bf : Bool) (w : W32) : W32 × Nat := if bf then rounded true (fv w) else (w, 0)

/-- The pass registers at one element: the results of this element so far, over the registers as they
stand. -/
abbrev PassEnv := List (Option W32)

def passWord (x : Rafter) (bf : Bool) (k e : Nat) : W32 :=
  let t := x.pass.getD k []
  if bf then
    let w := tableGet 0 t (e / 2 % 256)
    if e % 2 = 0 then w <<< 16 else w &&& 0xFFFF0000
  else tableGet 0 t (e % 256)

def srcWord (x : Rafter) (v : VStep) (t : ElemType) (env : PassEnv) (e : Nat) (src : VSrc) : W32 × Nat :=
  match src with
  | .none => (0, 0)
  | .imm => modeWord v.bf v.imm
  | .scalar a => modeWord v.bf (BitVec.ofNat 32 (memWord x.scratch a 4))
  | .pass k =>
    (match env.getD k none with
     | some w => w
     | none => passWord x v.bf k e, 0)
  | .stream a sa =>
    let bits := elemAt x.scratch a (elemBits t) e
    if isMx t then widenMx t bits (memByte x.scratch (sa + e / 32)) else (widen t v.usgn bits, 0)

/-- The three operands of a step at an element. -/
def stepOperands (x : Rafter) (v : VStep) (env : PassEnv) (e : Nat) : W32 × W32 × W32 × Nat :=
  let a := srcWord x v v.atype env e v.a
  let b := srcWord x v v.btype env e v.b
  let c := srcWord x v v.btype env e v.c
  (a.1, b.1, c.1, a.2 ||| b.2 ||| c.2)

/-- The chained steps at one element, in order: the pass registers and the flags. -/
def chainElem (x : Rafter) (e : Nat) : List VStep → PassEnv → Nat → PassEnv × Nat
  | [], env, fl => (env, fl)
  | v :: vs, env, fl =>
    let o := stepOperands x v env e
    let r := laneOp v.op v.bf o.1 o.2.1 o.2.2.1
    let env' := match v.dst with
      | .pass k => env.set k (some r.1)
      | .stream _ _ => env
    chainElem x e vs env' (fl ||| o.2.2.2 ||| r.2)

def noPass : PassEnv := List.replicate 4 none

/-! ### Conversion to the destination (R177) -/

/-- Round to nearest even, as an integer. -/
def roundInt (neg : Bool) (m : Nat) (e : Int) : Int :=
  let q : Nat :=
    if 0 ≤ e then m * 2 ^ e.toNat
    else
      let d := 2 ^ (-e).toNat
      let t := m / d
      if decide (d < 2 * (m % d)) || (2 * (m % d) == d && t % 2 == 1) then t + 1 else t
  if neg then -(q : Int) else q

/-- Saturation of an integer to an element type. -/
def intRange (t : ElemType) (uns : Bool) (v : Int) : Int × Bool :=
  if uns && t == .int8 then
    (if v < 0 then (0, true) else if 255 < v then (255, true) else (v, false))
  else satInt (elemBits t) v

/-- FP32 to an integer type: nearest even, always saturating; NaN gives 0 and sets INVALID. -/
def toInt (t : ElemType) (uns : Bool) (v : FV) : Nat × Nat :=
  let put := fun (i : Int) (s : Bool) =>
    ((BitVec.ofInt (elemBits t) i).toNat, flagIf s vfSatOut)
  match v with
  | .nan => (0, vfInvalid)
  | .inf neg => let r := intRange t uns (if neg then -(2 ^ 40 : Int) else 2 ^ 40); put r.1 r.2
  | .fin neg m e => let r := intRange t uns (roundInt neg m e); put r.1 r.2

/-- An FP32 word as it is stored: a NaN becomes the canonical one (R177, Table 4.5). -/
def fp32Store (w : W32) : W32 := if isNan (fv w) then qnan else w

/-- A result word stored as a destination type (R177, Table 4.5): the pattern, the stochastic stream and the flags. -/
def toDest (t : ElemType) (uns sat : Bool) (r : Rnd) (w : W32) : Nat × Rnd × Nat :=
  if t = .fp32 then ((fp32Store w).toNat, r, 0)
  else match fmtOf t with
    | none => let q := toInt t uns (fv w); (q.1, r, q.2)
    | some f =>
      let c := convertF f sat r (fv w)
      (c.1.bits, c.2, flagIf c.1.sat vfSatOut ||| flagIf c.1.madeNan vfNanOut |||
        flagIf (c.1.ovf && isFin (fv w)) vfOvf)

/-- Results in ascending element order converted to a destination. -/
def toDests (t : ElemType) (uns sat : Bool) : Rnd → List W32 → List Nat × Rnd × Nat
  | r, [] => ([], r, 0)
  | r, w :: ws =>
    let q := toDest t uns sat r w
    let p := toDests t uns sat q.2.1 ws
    (q.1 :: p.1, p.2.1, q.2.2 ||| p.2.2)

/-! ### MX quantisation (R178) -/

def emaxOf : ElemType → Int
  | .mxfp8 => 8
  | .mxfp6 => 4
  | _ => 2

def log2Floor : FV → Int
  | .fin _ m e => e + (bitLen m : Int) - 1
  | _ => 0

/-- The shared exponent X of a block whose largest magnitude has exponent `l`, clamped. -/
def sharedExp (t : ElemType) (l : Int) : Int := max (-127) (min 127 (l - emaxOf t))

/-- One block of 32 values: the scale byte, the element patterns and the flags. -/
def quantBlock (t : ElemType) (xs : List W32) : Byte × List Nat × Nat :=
  let vs := xs.map fv
  if vs.any (fun v => !isFin v) then (0xFF, xs.map (fun _ => 0), vfInvalid)
  else if vs.all isZero then (0, xs.map (fun _ => 0), 0)
  else
    let l := (vs.filter (fun v => !isZero v)).foldl (fun a v => max a (log2Floor v)) (-1000)
    let x := sharedExp t l
    let cs := vs.map (fun v => encodeF ((fmtOf t).getD fmtE4m3) .nearest true (scaleV (-x) v))
    (BitVec.ofInt 8 (x + 127), cs.map (·.bits), flagIf (cs.any (·.sat)) vfSatOut)

/-- Element patterns packed densely, lower index in the lower bits (R260). -/
def packBits (w : Nat) (l : List Nat) : List Byte :=
  bytesOf ((l.length * w + 7) / 8) (l.reverse.foldl (fun a v => a * 2 ^ w + v) 0)

/-- Elements that a last partial byte or 3 B group holds. -/
def mxGroup : ElemType → Nat
  | .mxfp4 => 2
  | .mxfp6 => 4
  | _ => 1

/-- Bytes of `n` elements with the last byte or group written whole. -/
def mxBytes (t : ElemType) (n : Nat) : Nat := denseBytes t ((n + mxGroup t - 1) / mxGroup t * mxGroup t)

/-- Blocks quantised in order: element bytes, scale bytes, flags. -/
def quantAll (t : ElemType) (pad : W32) : Nat → List W32 → List Byte × List Byte × Nat
  | 0, _ => ([], [], 0)
  | k + 1, xs =>
    if xs.isEmpty then ([], [], 0)
    else
      let real := xs.take 32
      let q := quantBlock t (real ++ List.replicate (32 - real.length) pad)
      let p := quantAll t pad k (xs.drop 32)
      ((packBits (elemBits t) q.2.1).take (mxBytes t real.length) ++ p.1, q.1 :: p.2.1, q.2.2 ||| p.2.2)

/-! ### Reductions (R176, R276) -/

/-- An addition or a V.MAX between lane values, which are no operand elements (Table 5.2). -/
def foldOp (max : Bool) (a b : W32) : W32 × Nat :=
  if max then (pickV false a b, 0) else computed false [fv a, fv b] (sumV [fv a, fv b])

/-- A product and an addition rounded together once. -/
def fusedOp (a b c : W32) : W32 × Nat :=
  computed false [fv a, fv b, fv c] (sumV [mulV (fv a) (fv b), fv c])

/-- A V.MUL just before a V.RED.SUM that writes the register it reads: its step, for the fused sum. -/
def fusedMul (v : VStep) : List VStep → Option VStep
  | [] => none
  | [m] => match m.op, m.dst, v.a with
    | .mul, .pass k, .pass j => if k = j then some m else none
    | _, _, _ => none
  | _ :: ms => fusedMul v ms

/-- One element added to its lane's partial; a fused product is not rounded by itself, and sets the flags of its operands
only. -/
def redStep (x : Rafter) (chain : List VStep) (v : VStep) (e : Nat) (part : W32) : W32 × Nat :=
  match (if v.op = .redSum then fusedMul v chain else none) with
  | some m =>
    let c := chainElem x e chain.dropLast noPass 0
    let q := stepOperands x m c.1 e
    let l := fusedOp q.1 q.2.1 part
    (l.1, c.2 ||| q.2.2.2 ||| inFlags [fv q.1, fv q.2.1] ||| l.2)
  | none =>
    let c := chainElem x e chain noPass 0
    let o := stepOperands x v c.1 e
    let l := foldOp (v.op = .redMax) part o.1
    (l.1, c.2 ||| o.2.2.2 ||| inFlags [fv o.1] ||| l.2)

/-- The partial of a lane: elements l, l + 256, … in ascending order. -/
def lanePartial (x : Rafter) (chain : List VStep) (v : VStep) (count : Nat) : Nat → Nat → W32 → W32 × Nat
  | 0, _, p => (p, 0)
  | n + 1, e, p =>
    if e < count then
      let r := redStep x chain v e p
      let q := lanePartial x chain v count n (e + 256) r.1
      (q.1, r.2 ||| q.2)
    else (p, 0)

def redStart (v : VStep) : W32 := if v.op = .redMax then 0xFF800000 else 0

/-- The fold of lane values: for w, w/2, … 1 every p < w takes p + w (R176). -/
def foldLanes (max : Bool) : Nat → Nat → List W32 → List W32 × Nat
  | 0, _, l => (l, 0)
  | n + 1, w, l =>
    let rs := (List.range w).map (fun p => foldOp max (l.getD p 0) (l.getD (p + w) 0))
    let q := foldLanes max n (w / 2) (rs.map (·.1))
    (q.1, rs.foldl (fun f r => f ||| r.2) q.2)

/-! ### Running a chain (R174) -/

/-- The engine's scratchpad, flags and stochastic count after the last instruction of a chain, all of whose elements are
read before (log 120). -/
def chainStore (s : State) (n : RafterId) (x : Rafter) (chain : List VStep) (v : VStep) (count : Nat) :
    Rafter :=
  let addr := match v.dst with
    | .stream a sa => (a, sa)
    | .pass _ => (0, 0)
  let put := fun (y : Rafter) (bs : List Byte) (fl : Nat) =>
    { y with scratch := memWrite y.scratch addr.1 bs, veFlags := y.veFlags ||| BitVec.ofNat 32 fl }
  match v.op with
  | .redSum | .redMax =>
    let ps := (List.range 256).map (fun l =>
      lanePartial x chain v count (count / 256 + 1) l (redStart v))
    put x (ps.flatMap (fun p => bytesOf 4 p.1.toNat)) (ps.foldl (fun f p => f ||| p.2) 0)
  | .foldSum | .foldMax =>
    let ls := (List.range 256).map (fun e => srcWord x v v.atype noPass e v.a)
    let r := foldLanes (v.op = .foldMax) 8 128 (ls.map (·.1))
    put x (bytesOf 4 (r.1.getD 0 0).toNat)
      (ls.foldl (fun f p => f ||| p.2) (r.2 ||| inFlags (ls.map (fun p => fv p.1))))
  | .qmx =>
    let es := (List.range count).map (fun e =>
      let c := chainElem x e chain noPass 0
      let o := stepOperands x v c.1 e
      (o.1, c.2 ||| o.2.2.2 ||| inFlags [fv o.1]))
    let q := quantAll v.dtype v.imm (count / 32 + 1) (es.map (·.1))
    let y := put x q.1 (es.foldl (fun f e => f ||| e.2) q.2.2)
    { y with scratch := memWrite y.scratch addr.2 q.2.1 }
  | _ =>
    let es := (List.range count).map (fun e =>
      let c := chainElem x e chain noPass 0
      let o := stepOperands x v c.1 e
      let r := laneOp v.op v.bf o.1 o.2.1 o.2.2.1
      (r.1, c.2 ||| o.2.2.2 ||| r.2))
    let d := toDests v.dtype v.usgn v.sat (rndOf s n 1 x.veCount v.rnd) (es.map (·.1))
    let bs := d.1.flatMap (fun b => bytesOf (elemBits v.dtype / 8) b)
    hitRafter { put x bs (es.foldl (fun f e => f ||| e.2) d.2.2) with veCount := d.2.1.count } 0x70
      (d.2.1.count - x.veCount).toNat

/-- 256 words of free values. -/
def freeVector (n : Nat) : Table W32 :=
  (List.range 256).foldl (fun t i => tablePut 0 t i ((Config.freeValue (n + i)).truncate 32)) []

/-- The pass registers that a chain wrote hold no guaranteed contents afterwards (R175): free values. -/
def spoilPass (s : State) (p : Nat) (chain : List VStep) : State :=
  chain.foldl (fun s1 v =>
    match v.dst with
    | .pass k =>
      let x := rafterAt s1 p
      { setRafter s1 p { x with pass := x.pass.set k (freeVector s1.free) } with free := s1.free + 256 }
    | .stream _ _ => s1) s

/-! ### Issue (R270 to R275) -/

/-- The run-time element count: that of the chain's first instruction (R174). -/
def vecCount (x : Rafter) (o : VectorOps) : Nat :=
  match x.chain with
  | v :: _ => v.count
  | [] => shapeValue x o.shp o.count.toNat

/-- An operand resolved at issue. -/
def vecSrc (x : Rafter) (v : VOpnd) : VSrc :=
  match v with
  | .none => .none
  | .imm => .imm
  | .pass k => .pass k.toNat
  | .stream g => .stream (agAddr x g).toNat (agAddr x (g + 1)).toNat
  | .scalar g => .scalar (agAddr x g).toNat

/-- The extent of an operand lies within its generators' limits (R253); a scalar is aligned (R270). -/
def vecSrcOk (x : Rafter) (t : ElemType) (count : Nat) (v : VOpnd) : Bool :=
  match v with
  | .stream g =>
    agSpanOk x g (agAddr x g) (agAddr x g + (denseBytes t count : Nat)) &&
    (!isMx t || agSpanOk x (g + 1) (agAddr x (g + 1)) (agAddr x (g + 1) + ((count + 31) / 32 : Nat)))
  | .scalar g => agAddr x g % 4 == 0 && agOk x g (agAddr x g) 4
  | _ => true

/-- Bytes that an instruction writes through DST, and scale bytes through DST + 1. -/
def vecDstBytes (op : VecOp) (t : ElemType) (count : Nat) : Nat × Nat :=
  match op with
  | .redSum | .redMax => (1024, 0)
  | .foldSum | .foldMax => (4, 0)
  | .qmx => (mxBytes t count, (count + 31) / 32)
  | _ => (denseBytes t count, 0)

def vecDstOk (x : Rafter) (op : VecOp) (o : VectorOps) (count : Nat) : Bool :=
  match o.dk with
  | .stream =>
    let n := vecDstBytes op o.dtype count
    agSpanOk x o.dst (agAddr x o.dst) (agAddr x o.dst + (n.1 : Nat)) &&
    (n.2 == 0 || agSpanOk x (o.dst + 1) (agAddr x (o.dst + 1)) (agAddr x (o.dst + 1) + (n.2 : Nat)))
  | _ => true

def vecBoundsOk (x : Rafter) (op : VecOp) (o : VectorOps) (count : Nat) : Bool :=
  vecSrcOk x o.atype count o.opa && vecSrcOk x o.btype count o.opb && vecSrcOk x o.btype count o.opc &&
  vecDstOk x op o count

/-- The step that an instruction adds to its chain. -/
def vecStep (x : Rafter) (op : VecOp) (o : VectorOps) (count : Nat) : VStep :=
  { op := op, a := vecSrc x o.opa, b := vecSrc x o.opb, c := vecSrc x o.opc
    dst := match o.dk with
      | .pass => .pass (o.dst.toNat % 4)
      | _ => .stream (agAddr x o.dst).toNat (agAddr x (o.dst + 1)).toNat
    atype := o.atype, btype := o.btype, dtype := o.dtype, bf := o.bf, rnd := o.rnd, sat := o.sat
    usgn := o.usgn, imm := o.imm, count := count }

def vectorCodes : List Byte := [0x50, 0x51, 0x52, 0xE0, 0xE2]

/-- A vector instruction other than V.CHK. With CHAIN set it joins the chain; otherwise the chain runs, and
its instructions complete in order (R174, R278). -/
def vectorEffect (s : State) (n : RafterId) (f : Frame) (op : VecOp) (o : VectorOps) (hw : UnitCheck) :
    State :=
  issue s n 3 true noFire (fun p x =>
    let e := vecCount x o
    let i := x.seq.idx
    let entry := fun (kind : Await) (done : Bool) => { flight f kind done with place := i }
    if x.chain.isEmpty ∧ o.count.toNat < e then shapeFault s n e
    else if e ≠ 0 ∧ !vecBoundsOk x op o e then boundFault s n
    else
      let v := vecStep x op o e
      let c := if e = 0 then (s, true) else rafterCheck s n (workAt i false) vectorCodes hw
      let y := advanced (rafterAt c.1 p)
      if !c.2 then c.1
      else if f.chain then setRafter c.1 p (placed { y with chain := y.chain ++ [v] } 3 (entry .chain false))
      else
        let z := if e = 0 then y else chainStore s n y y.chain v e
        let s1 := setRafter c.1 p (placed (finishKind { z with chain := [] } 3 .chain) 3 (entry .none true))
        if e = 0 then s1 else spoilPass s1 p y.chain)

/-- A mismatch that a self-test finds. -/
def mismatchOf (code : Byte) (hw : UnitCheck) : Option HwEvent :=
  (hw.cycles.flatMap id).find? (fun e => eventCode e = code && !isFixed e)

/-- A self-test of an engine (R197): it passes, or its mismatch is lasting. -/
def selfCheck (s : State) (n : RafterId) (f : Frame) (u : Nat) (code : Byte) (hw : UnitCheck) : State :=
  issue s n u true noFire (fun p x =>
    let s1 := setRafter s p (placedDone x u f)
    match mismatchOf code hw with
    | none => s1
    | some e =>
      let y := noteCheck (rafterAt s1 p) (workAt x.seq.idx (u = 4)) code (eventInfo e)
      lastingResponse (setRafter s1 p y) (rafterUnit n) code y.vrInfo 0 0)

/-! ### Meanings -/

/-- V.ADD (Table 5.1). -/
def execVAdd (r : RafterId) (f : Frame) (o : VectorOps) (hw : UnitCheck) (s : State) : Out State :=
  .next (vectorEffect s r f .add o hw)

/-- V.SUB (Table 5.1). -/
def execVSub (r : RafterId) (f : Frame) (o : VectorOps) (hw : UnitCheck) (s : State) : Out State :=
  .next (vectorEffect s r f .sub o hw)

/-- V.MUL (Table 5.1). -/
def execVMul (r : RafterId) (f : Frame) (o : VectorOps) (hw : UnitCheck) (s : State) : Out State :=
  .next (vectorEffect s r f .mul o hw)

/-- V.MIN (Table 5.1, R170). -/
def execVMin (r : RafterId) (f : Frame) (o : VectorOps) (hw : UnitCheck) (s : State) : Out State :=
  .next (vectorEffect s r f .min o hw)

/-- V.MAX (Table 5.1, R170). -/
def execVMax (r : RafterId) (f : Frame) (o : VectorOps) (hw : UnitCheck) (s : State) : Out State :=
  .next (vectorEffect s r f .max o hw)

/-- V.FMA (Table 5.1). -/
def execVFma (r : RafterId) (f : Frame) (o : VectorOps) (hw : UnitCheck) (s : State) : Out State :=
  .next (vectorEffect s r f .fma o hw)

/-- V.ABS (Table 5.1). -/
def execVAbs (r : RafterId) (f : Frame) (o : VectorOps) (hw : UnitCheck) (s : State) : Out State :=
  .next (vectorEffect s r f .abs o hw)

/-- V.NEG (Table 5.1). -/
def execVNeg (r : RafterId) (f : Frame) (o : VectorOps) (hw : UnitCheck) (s : State) : Out State :=
  .next (vectorEffect s r f .neg o hw)

/-- V.CVT (R177). -/
def execVCvt (r : RafterId) (f : Frame) (o : VectorOps) (hw : UnitCheck) (s : State) : Out State :=
  .next (vectorEffect s r f .cvt o hw)

/-- V.CMP.LT (Table 5.1). -/
def execVCmpLt (r : RafterId) (f : Frame) (o : VectorOps) (hw : UnitCheck) (s : State) : Out State :=
  .next (vectorEffect s r f .cmpLt o hw)

/-- V.CMP.LE (Table 5.1). -/
def execVCmpLe (r : RafterId) (f : Frame) (o : VectorOps) (hw : UnitCheck) (s : State) : Out State :=
  .next (vectorEffect s r f .cmpLe o hw)

/-- V.CMP.EQ (Table 5.1). -/
def execVCmpEq (r : RafterId) (f : Frame) (o : VectorOps) (hw : UnitCheck) (s : State) : Out State :=
  .next (vectorEffect s r f .cmpEq o hw)

/-- V.SEL (Table 5.1). -/
def execVSel (r : RafterId) (f : Frame) (o : VectorOps) (hw : UnitCheck) (s : State) : Out State :=
  .next (vectorEffect s r f .sel o hw)

/-- V.EXP2 (R170). -/
def execVExp2 (r : RafterId) (f : Frame) (o : VectorOps) (hw : UnitCheck) (s : State) : Out State :=
  .next (vectorEffect s r f .exp2 o hw)

/-- V.LOG2 (R170). -/
def execVLog2 (r : RafterId) (f : Frame) (o : VectorOps) (hw : UnitCheck) (s : State) : Out State :=
  .next (vectorEffect s r f .log2 o hw)

/-- V.RCP (R170). -/
def execVRcp (r : RafterId) (f : Frame) (o : VectorOps) (hw : UnitCheck) (s : State) : Out State :=
  .next (vectorEffect s r f .rcp o hw)

/-- V.SQRT (R170). -/
def execVSqrt (r : RafterId) (f : Frame) (o : VectorOps) (hw : UnitCheck) (s : State) : Out State :=
  .next (vectorEffect s r f .sqrt o hw)

/-- V.RSQRT (R170). -/
def execVRsqrt (r : RafterId) (f : Frame) (o : VectorOps) (hw : UnitCheck) (s : State) : Out State :=
  .next (vectorEffect s r f .rsqrt o hw)

/-- V.TANH (R170). -/
def execVTanh (r : RafterId) (f : Frame) (o : VectorOps) (hw : UnitCheck) (s : State) : Out State :=
  .next (vectorEffect s r f .tanh o hw)

/-- V.QMX (R178). -/
def execVQmx (r : RafterId) (f : Frame) (o : VectorOps) (hw : UnitCheck) (s : State) : Out State :=
  .next (vectorEffect s r f .qmx o hw)

/-- V.RED.SUM (R176). -/
def execVRedSum (r : RafterId) (f : Frame) (o : VectorOps) (hw : UnitCheck) (s : State) : Out State :=
  .next (vectorEffect s r f .redSum o hw)

/-- V.RED.MAX (R176). -/
def execVRedMax (r : RafterId) (f : Frame) (o : VectorOps) (hw : UnitCheck) (s : State) : Out State :=
  .next (vectorEffect s r f .redMax o hw)

/-- V.FOLD.SUM (R176). -/
def execVFoldSum (r : RafterId) (f : Frame) (o : VectorOps) (hw : UnitCheck) (s : State) : Out State :=
  .next (vectorEffect s r f .foldSum o hw)

/-- V.FOLD.MAX (R176). -/
def execVFoldMax (r : RafterId) (f : Frame) (o : VectorOps) (hw : UnitCheck) (s : State) : Out State :=
  .next (vectorEffect s r f .foldMax o hw)

/-- V.CHK (R197). -/
def execVChk (r : RafterId) (f : Frame) (hw : UnitCheck) (s : State) : Out State :=
  .next (selfCheck s r f 3 0x55 hw)

end Sys2Proof.Machine
end

