-- ==== Sys2Proof/Machine/Row.lean ====
section
/-!
DEFINITION. The row engine (chapter 5; R279 to R284): forward and backward row operations, the soffit, and
its spill and fill.
-/

namespace Sys2Proof.Machine

/-! ### Rounded steps with their flags -/

def addR (a b : W32) : W32 × Nat := computed false [fv a, fv b] (sumV [fv a, fv b])
def subR (a b : W32) : W32 × Nat := computed false [fv a, fv b] (sumV [fv a, negate (fv b)])
def mulR (a b : W32) : W32 × Nat := computed false [fv a, fv b] (mulV (fv a) (fv b))
def fmaR (a b c : W32) : W32 × Nat := fusedOp a b c

/-- fl(v / n) for a row length n of at least 1. -/
def divN (v : W32) (n : Nat) : W32 × Nat :=
  match fv v with
  | .nan => (qnan, 0)
  | .inf neg => (f32 (.inf neg), 0)
  | x => rounded false (divV x (.fin false n 0))

/-- exp(t) = EXP2(fl(t × 0x3FB8_AA3B)) (R182). -/
def expR (t : W32) : W32 × Nat :=
  let p := mulR t 0x3FB8AA3B
  let e := exp2Of (fv p.1)
  (e.1, p.2 ||| e.2)

/-! ### Row sums and maxima (R181) -/

/-- The partial of lane `k mod 128`, from element `k` on. -/
def rowLane (len : Nat) (g : Nat → W32 → W32 × Nat) : Nat → Nat → W32 → W32 × Nat
  | 0, _, p => (p, 0)
  | m + 1, k, p =>
    if k < len then
      let r := g k p
      let q := rowLane len g m (k + 128) r.1
      (q.1, r.2 ||| q.2)
    else (p, 0)

/-- 128 partials, folded for w = 64 to 1. -/
def rowFold (max : Bool) (len : Nat) (start : W32) (g : Nat → W32 → W32 × Nat) : W32 × Nat :=
  let ps := (List.range 128).map (fun p => rowLane len g (len / 128 + 1) p start)
  let r := foldLanes max 7 64 (ps.map (·.1))
  (r.1.getD 0 0, ps.foldl (fun f p => f ||| p.2) r.2)

/-- A row mapped element by element, with the flags. -/
def rowMap (len : Nat) (g : Nat → W32 × Nat) : List W32 × Nat :=
  let l := (List.range len).map g
  (l.map (·.1), l.foldl (fun f p => f ||| p.2) 0)

/-! ### Records (Table 5.5) -/

structure RowRec where
  mean : W32
  rstd : W32
  max : W32
  sum : W32
deriving DecidableEq, Repr

def packRec (r : RowRec) : W128 := r.sum ++ r.max ++ r.rstd ++ r.mean
def unpackRec (w : W128) : RowRec :=
  { mean := w.truncate 32, rstd := (w >>> 32).truncate 32, max := (w >>> 64).truncate 32
    sum := (w >>> 96).truncate 32 }

def soffitAt (x : Rafter) (i : Nat) : W128 := tableGet 0 x.soffit i
def putSoffit (x : Rafter) (i : Nat) (w : W128) : Rafter := { x with soffit := tablePut 0 x.soffit i w }

/-! ### Forward rows (Table 5.3) -/

/-- RN.LN of one row: the outputs, the record and the flags. -/
def rowLn (len : Nat) (x gam bet : Nat → W32) (eps : W32) : List W32 × RowRec × Nat :=
  let sm := rowFold false len 0 (fun k p => addR p (x k))
  let mu := divN sm.1 len
  let d := fun k => subR (x k) mu.1
  let sq := rowFold false len 0 (fun k p => let q := d k; let r := fmaR q.1 q.1 p; (r.1, q.2 ||| r.2))
  let v := divN sq.1 len
  let ve := addR v.1 eps
  let r := rsqrtOf (fv ve.1)
  let y := rowMap len (fun k =>
    let q := d k
    let h := mulR q.1 r.1
    let o := fmaR h.1 (gam k) (bet k)
    (o.1, q.2 ||| h.2 ||| o.2))
  (y.1, { mean := mu.1, rstd := r.1, max := 0, sum := 0 },
    sm.2 ||| mu.2 ||| sq.2 ||| v.2 ||| ve.2 ||| r.2 ||| y.2)

/-- RN.RMS of one row. -/
def rowRms (len : Nat) (x gam : Nat → W32) (eps : W32) : List W32 × RowRec × Nat :=
  let sq := rowFold false len 0 (fun k p => fmaR (x k) (x k) p)
  let v := divN sq.1 len
  let ve := addR v.1 eps
  let r := rsqrtOf (fv ve.1)
  let y := rowMap len (fun k =>
    let h := mulR (x k) r.1
    let o := mulR h.1 (gam k)
    (o.1, h.2 ||| o.2))
  (y.1, { mean := 0, rstd := r.1, max := 0, sum := 0 }, sq.2 ||| v.2 ||| ve.2 ||| r.2 ||| y.2)

/-- y of a softmax element from the record's maximum and sum. -/
def smxOut (alpha m s x : W32) : W32 × Nat :=
  let xp := mulR x alpha
  let d := subR xp.1 m
  let e := expR d.1
  let c := rcpOf (fv s)
  let y := mulR e.1 c.1
  (y.1, xp.2 ||| d.2 ||| e.2 ||| c.2 ||| y.2)

def negInf : W32 := 0xFF800000

/-- RN.SMX of one row (R190, R191). -/
def rowSmx (len : Nat) (x : Nat → W32) (alpha : W32) : List W32 × RowRec × Nat :=
  let mx := rowFold true len negInf (fun k p =>
    let q := mulR (x k) alpha
    (pickV false p q.1, q.2))
  if mx.1 = negInf then
    (List.replicate len 0, { mean := 0, rstd := 0, max := negInf, sum := 0 }, mx.2 ||| vfEmptyRow)
  else
    let sm := rowFold false len 0 (fun k p =>
      let q := mulR (x k) alpha
      let d := subR q.1 mx.1
      let e := expR d.1
      let a := addR p e.1
      (a.1, d.2 ||| e.2 ||| a.2))
    let y := rowMap len (fun k => smxOut alpha mx.1 sm.1 (x k))
    (y.1, { mean := 0, rstd := 0, max := mx.1, sum := sm.1 }, mx.2 ||| sm.2 ||| y.2)

/-! ### Backward rows (Table 5.4) -/

/-- x̂ of RN.LN.B and of RN.RMS.B. -/
def xhat (ln : Bool) (rec : RowRec) (x : W32) : W32 × Nat :=
  if ln then
    let d := subR x rec.mean
    let h := mulR d.1 rec.rstd
    (h.1, d.2 ||| h.2)
  else mulR x rec.rstd

/-- RN.LN.B and RN.RMS.B of one row: dx and the flags. -/
def rowNormB (ln : Bool) (len : Nat) (x dy gam : Nat → W32) (rec : RowRec) : List W32 × Nat :=
  let g := fun k => mulR (dy k) (gam k)
  let sa := if ln then rowFold false len 0 (fun k p => let q := g k; let r := addR p q.1; (r.1, q.2 ||| r.2))
    else (0, 0)
  let sb := rowFold false len 0 (fun k p =>
    let q := g k
    let h := xhat ln rec (x k)
    let r := fmaR q.1 h.1 p
    (r.1, q.2 ||| h.2 ||| r.2))
  let a := divN sa.1 len
  let b := divN sb.1 len
  let out := rowMap len (fun k =>
    let q := g k
    let h := xhat ln rec (x k)
    let t := if ln then fmaR h.1 b.1 a.1 else mulR h.1 b.1
    let d := subR q.1 t.1
    let o := mulR d.1 rec.rstd
    (o.1, t.2 ||| d.2 ||| o.2))
  (out.1, sa.2 ||| sb.2 ||| a.2 ||| b.2 ||| out.2)

/-- RN.SMX.B of one row. -/
def rowSmxB (len : Nat) (x dy : Nat → W32) (alpha : W32) (rec : RowRec) : List W32 × Nat :=
  if rec.max = negInf then (List.replicate len 0, 0)
  else
    let y := fun k => smxOut alpha rec.max rec.sum (x k)
    let c := rowFold false len 0 (fun k p => let q := y k; let r := fmaR (dy k) q.1 p; (r.1, q.2 ||| r.2))
    let out := rowMap len (fun k =>
      let q := y k
      let d := subR (dy k) c.1
      let a := mulR q.1 d.1
      let o := mulR a.1 alpha
      (o.1, d.2 ||| a.2 ||| o.2))
    (out.1, c.2 ||| out.2)

/-! ### Rows in the scratchpad (R280) -/

inductive RowKind where
  | ln | rms | smx | lnB | rmsB | smxB
deriving DecidableEq, Repr

def rowBack : RowKind → Bool
  | .lnB | .rmsB | .smxB => true
  | _ => false

def usesGamma : RowKind → Bool
  | .smx | .smxB => false
  | _ => true

def shR (w : Nat) : Nat := field w 0 15
def shRowLen (w : Nat) : Nat := field w 15 17

def typeBytes (t : ElemType) : Nat := elemBits t / 8

/-- `n` elements of a type from an address, widened. -/
def rowElems (m : Mem) (t : ElemType) (a n : Nat) : List W32 :=
  (List.range n).map (fun k => widen t false (elemAt m a (elemBits t) k))

/-- The address of row `i` of a stream. -/
def rowAddr (x : Rafter) (g : BitVec 4) (t : ElemType) (stride i : Nat) : Nat :=
  (agAddr x g).toNat + i * stride * typeBytes t

/-- The parameter-gradient accumulators after a row (R185); their elements are operands too (R172). -/
def accumulate (x : Rafter) (o : RowOps) (ln : Bool) (plan len : Nat) (xs dys : List W32) (rec : RowRec) :
    Rafter :=
  let base := (agAddr x o.pag).toNat
  let dg := rowElems x.scratch .fp32 base len
  let db := rowElems x.scratch .fp32 (base + 4 * plan) len
  let g := rowMap len (fun k =>
    let h := xhat ln rec (xs.getD k 0)
    fmaR (dys.getD k 0) h.1 (dg.getD k 0))
  let b := rowMap len (fun k => addR (dys.getD k 0) (db.getD k 0))
  let m1 := memWrite x.scratch base (g.1.flatMap (fun w => bytesOf 4 w.toNat))
  let m2 := if ln then memWrite m1 (base + 4 * plan) (b.1.flatMap (fun w => bytesOf 4 w.toNat)) else m1
  let fl := inFlags (dg.map fv) ||| g.2 ||| (if ln then inFlags (db.map fv) ||| b.2 else 0)
  { x with scratch := m2, reFlags := x.reFlags ||| BitVec.ofNat 32 fl }

/-- One row processed: record, output, accumulators, flags. The row is written before the next one is read (log 121). -/
def rowStep (s : State) (n : RafterId) (o : RowOps) (kind : RowKind) (plan len : Nat) (i : Nat)
    (x : Rafter) : Rafter :=
  let stride := dAstr (descOf x o.td)
  let xs := rowElems x.scratch o.xtype (rowAddr x o.xag o.xtype stride i) len
  let dys := if rowBack kind then rowElems x.scratch o.xtype (rowAddr x o.dyag o.xtype stride i) len else []
  let ga := (agAddr x o.gag).toNat
  let gs := if usesGamma kind then rowElems x.scratch o.ptype ga len else []
  let bs := if kind = .ln then rowElems x.scratch o.ptype (ga + plan * typeBytes o.ptype) len else []
  let xf := fun k => xs.getD k 0
  let df := fun k => dys.getD k 0
  let gf := fun k => gs.getD k 0
  let bf := fun k => bs.getD k 0
  let fin := inFlags ((xs ++ dys ++ gs ++ bs).map fv)
  let idx := o.base.toNat + i
  let old := unpackRec (soffitAt x idx)
  let r : List W32 × Option RowRec × Nat := match kind with
    | .ln => let q := rowLn len xf gf bf o.imm; (q.1, some q.2.1, q.2.2)
    | .rms => let q := rowRms len xf gf o.imm; (q.1, some q.2.1, q.2.2)
    | .smx => let q := rowSmx len xf o.imm; (q.1, some q.2.1, q.2.2)
    | .lnB => let q := rowNormB true len xf df gf old; (q.1, none, q.2)
    | .rmsB => let q := rowNormB false len xf df gf old; (q.1, none, q.2)
    | .smxB => let q := rowSmxB len xf df o.imm old; (q.1, none, q.2)
  let c := toDests o.otype false o.sat (rndOf s n 2 x.reCount o.rnd) r.1
  let y := match r.2.1 with
    | some rec => putSoffit x idx (packRec rec)
    | none => x
  let z := hitRafter { y with
    scratch := memWrite y.scratch (rowAddr x o.oag o.otype stride i) (elemBytes o.otype c.1)
    reCount := c.2.1.count
    reFlags := y.reFlags ||| BitVec.ofNat 32 (fin ||| r.2.2 ||| c.2.2)
    reRow := BitVec.ofNat 14 i
    rePass := if kind = .ln ∨ kind = .smx then 3 else 2 } 0x70 (c.2.1.count - x.reCount).toNat
  if o.pacc && (kind == .lnB || kind == .rmsB) then accumulate z o (kind == .lnB) plan len xs dys old else z

/-- Rows in ascending order. -/
def rowLoop (s : State) (n : RafterId) (o : RowOps) (kind : RowKind) (plan len : Nat) :
    Nat → Nat → Rafter → Rafter
  | 0, _, x => x
  | k + 1, i, x => rowLoop s n o kind plan len k (i + 1) (rowStep s n o kind plan len i x)

/-! ### Extents (R253) -/

def streamOk (x : Rafter) (g : BitVec 4) (t : ElemType) (rows len stride : Nat) : Bool :=
  agSpanOk x g (agAddr x g)
    (agAddr x g + (((rows - 1) * stride + len) * typeBytes t : Nat))

/-- Vectors of `len` elements at a generator's address, and the second one `plan` elements on. -/
def pairOk (x : Rafter) (g : BitVec 4) (size plan len : Nat) (both : Bool) : Bool :=
  agSpanOk x g (agAddr x g) (agAddr x g + (len * size : Nat)) &&
  (!both || agSpanOk x g (agAddr x g + (plan * size : Nat)) (agAddr x g + ((plan + len) * size : Nat)))

def rowBoundsOk (x : Rafter) (o : RowOps) (kind : RowKind) (plan rows len : Nat) : Bool :=
  let stride := dAstr (descOf x o.td)
  streamOk x o.xag o.xtype rows len stride && streamOk x o.oag o.otype rows len stride &&
  (!rowBack kind || streamOk x o.dyag o.xtype rows len stride) &&
  (!usesGamma kind || pairOk x o.gag (typeBytes o.ptype) plan len (kind == .ln)) &&
  (!o.pacc || !(kind == .lnB || kind == .rmsB) || pairOk x o.pag 4 plan len (kind == .lnB))

/-- The checks of the row engine: its residues, its function units (R194), the soffit and its operands. -/
def rowCodes : List Byte := [0x51, 0x53, 0x54, 0xE0, 0xE2]

/-- A forward or backward row instruction. -/
def rowEffect (s : State) (n : RafterId) (f : Frame) (kind : RowKind) (o : RowOps) (hw : UnitCheck) :
    State :=
  issue s n 4 true noFire (fun p x =>
    let planned := dTshape (descOf x o.td)
    let sw := shapeWord x o.shp planned
    let rows := shR sw
    let len := shRowLen sw
    if shR planned < rows ∨ shRowLen planned < len then shapeFault s n sw
    else if rows = 0 ∨ len = 0 then setRafter s p (placedDone x 4 f)
    else if !rowBoundsOk x o kind (shRowLen planned) rows len then boundFault s n
    else
      let c := rafterCheck s n (workAt x.seq.idx true) rowCodes hw
      if !c.2 then c.1
      else setRafter c.1 p
        (placedDone (rowLoop s n o kind (shRowLen planned) len rows 0 (rafterAt c.1 p)) 4 f))

/-! ### RN.SPILL and RN.FILL (R283) -/

def spillRecs (x : Rafter) (base a : Nat) : Nat → Mem → Mem
  | 0, m => m
  | k + 1, m => memPutWord (spillRecs x base a k m) (a + 16 * k) 16 (soffitAt x (base + k)).toNat

def fillRecs (x : Rafter) (base a : Nat) : Nat → Rafter
  | 0 => x
  | k + 1 => putSoffit (fillRecs x base a k) (base + k)
      (BitVec.ofNat 128 (memWord x.scratch (a + 16 * k) 16))

def soffitMove (s : State) (n : RafterId) (f : Frame) (fill : Bool) (o : RowOps) (hw : UnitCheck) : State :=
  issue s n 4 true noFire (fun p x =>
    let planned := field o.imm.toNat 0 15
    let c := shapeValue x o.shp planned
    let a := agAddr x o.xag
    if planned < c then shapeFault s n c
    else if c = 0 then setRafter s p (placedDone x 4 f)
    else if a % 16 ≠ 0 ∨ !agSpanOk x o.xag a (a + (16 * c : Nat)) then boundFault s n
    else
      let h := rafterCheck s n (workAt x.seq.idx true) rowCodes hw
      if !h.2 then h.1
      else
        let y := rafterAt h.1 p
        setRafter h.1 p (placedDone (if fill then fillRecs y o.base.toNat a.toNat c
          else { y with scratch := spillRecs y o.base.toNat a.toNat c y.scratch }) 4 f))

/-! ### Meanings -/

/-- RN.LN (Table 5.3). -/
def execRnLn (r : RafterId) (f : Frame) (o : RowOps) (hw : UnitCheck) (s : State) : Out State :=
  .next (rowEffect s r f .ln o hw)

/-- RN.RMS (Table 5.3). -/
def execRnRms (r : RafterId) (f : Frame) (o : RowOps) (hw : UnitCheck) (s : State) : Out State :=
  .next (rowEffect s r f .rms o hw)

/-- RN.SMX (Table 5.3). -/
def execRnSmx (r : RafterId) (f : Frame) (o : RowOps) (hw : UnitCheck) (s : State) : Out State :=
  .next (rowEffect s r f .smx o hw)

/-- RN.LN.B (Table 5.4). -/
def execRnLnB (r : RafterId) (f : Frame) (o : RowOps) (hw : UnitCheck) (s : State) : Out State :=
  .next (rowEffect s r f .lnB o hw)

/-- RN.RMS.B (Table 5.4). -/
def execRnRmsB (r : RafterId) (f : Frame) (o : RowOps) (hw : UnitCheck) (s : State) : Out State :=
  .next (rowEffect s r f .rmsB o hw)

/-- RN.SMX.B (Table 5.4). -/
def execRnSmxB (r : RafterId) (f : Frame) (o : RowOps) (hw : UnitCheck) (s : State) : Out State :=
  .next (rowEffect s r f .smxB o hw)

/-- RN.SPILL (R283). -/
def execRnSpill (r : RafterId) (f : Frame) (o : RowOps) (hw : UnitCheck) (s : State) : Out State :=
  .next (soffitMove s r f false o hw)

/-- RN.FILL (R283). -/
def execRnFill (r : RafterId) (f : Frame) (o : RowOps) (hw : UnitCheck) (s : State) : Out State :=
  .next (soffitMove s r f true o hw)

/-- RN.CHK (R197, R284). -/
def execRnChk (r : RafterId) (f : Frame) (hw : UnitCheck) (s : State) : Out State :=
  .next (selfCheck s r f 4 0x56 hw)

end Sys2Proof.Machine
end

