-- ==== Sys2Proof/Machine/Tiers.lean ====
section
/-!
DEFINITION. Memory tiers (chapter 12): tier-map entries, translation, the accesses each extent state
admits, the thatch format, frames, promotion and eviction.
-/

namespace Sys2Proof.Machine

/-! ### Tier-map entries (Table 12.1) -/

def entState (e : Nat) : Nat := field e 0 3
def entRo (e : Nat) : Nat := field e 3 1
def entPin (e : Nat) : Nat := field e 4 1
def entWidth (e : Nat) : Nat := field e 5 2
def entPort (e : Nat) : Nat := field e 7 1
def entStack (e : Nat) : Nat := field e 8 3
def entFrame (e : Nat) : Nat := field e 12 12
def entHome (e : Nat) : Nat := field e 24 17
def entSched (e : Nat) : Nat := field e 41 1
def entOwner (e : Nat) : Nat := field e 42 4
def entLast (e : Nat) : Nat := field e 64 48

def stUnmapped : Nat := 0
def stResident : Nat := 1
def stOpen : Nat := 2
def stSealing : Nat := 3
def stHomed : Nat := 4
def stPromoting : Nat := 5
def stBoth : Nat := 6

def eaveAt (s : State) (e : Nat) : Eave := s.eav.getD e Eave.reset
def setEave (s : State) (e : Nat) (v : Eave) : State := { s with eav := s.eav.set e v }
def updEave (s : State) (e : Nat) (f : Eave → Eave) : State := setEave s e (f (eaveAt s e))
def cxlAt (s : State) (c : Nat) : CxlPort := s.cxl.getD c CxlPort.reset
def setCxl (s : State) (c : Nat) (v : CxlPort) : State := { s with cxl := s.cxl.set c v }
def updCxl (s : State) (c : Nat) (f : CxlPort → CxlPort) : State := setCxl s c (f (cxlAt s c))

/-- Where the reserved region of a stack begins: its top 1 GiB (R29, R507). -/
def resvBase : Nat := 35 * 2 ^ 30

/-- Byte offset of an extent's entry in its stack (R405). -/
def entryOffset (x : BitVec 19) : Nat := resvBase + 16 * (x.toNat / 8)

/-- The backing table's entry (R405), which is authoritative. -/
def tierEntry (s : State) (x : BitVec 19) : Nat :=
  memWord (eaveAt s (x.toNat % 8)).hbm (entryOffset x) 16

/-- The eave's cache after a reference to an extent: most recently used first, eight ways (R407). -/
def tmcTouch (v : Eave) (x : BitVec 19) : Eave :=
  let set := x.toNat / 8 % 512
  let ways := tableGet [] v.tmc set
  { v with tmc := tablePut [] v.tmc set ((x :: ways.erase x).take 8) }

def tmcHit (v : Eave) (x : BitVec 19) : Bool := (tableGet [] v.tmc (x.toNat / 8 % 512)).contains x

/-- An entry written: the backing table, then the cache (R405, R407). -/
def setTierEntry (s : State) (x : BitVec 19) (e : Nat) : State :=
  updEave s (x.toNat % 8) (fun v =>
    tmcTouch { v with hbm := memPutWord v.hbm (entryOffset x) 16 e } x)

/-- A lookup (R409): the entry, with LASTUSE raised to the current course unless it is UNMAPPED. -/
def tierLookup (s : State) (x : BitVec 19) : State × Nat :=
  let v := eaveAt s (x.toNat % 8)
  let s1 := setEave s (x.toNat % 8)
    (tmcTouch (if tmcHit v x then v else
      { v with tmcMiss := satInc16 v.tmcMiss, ctr := hitCtrs v.ctr 0x202 1 }) x)
  let e := tierEntry s x
  if entState e = stUnmapped then (s1, e)
  else
    let e' := setField e 64 48 (max (entLast e) (s.crs.course.toNat % 2 ^ 48))
    (if e' = e then s1 else setTierEntry s1 x e', e')

/-- The translation of an extent for an access: through the stream engine's buffer of 16 for a rafter
(R408), and by a lookup otherwise. A translation held in the buffer stays as its lookup returned it. -/
def translate (s : State) (who : Option RafterId) (x : BitVec 19) : State × Nat :=
  match who with
  | none => tierLookup s x
  | some n =>
    match (rafterOf s n).tlb.find? (fun h => h.1 = x) with
    | some h => (updRafter s n (fun z => { z with tlb := h :: z.tlb.erase h }), h.2)
    | none =>
      let r := tierLookup s x
      (updRafter r.1 n (fun z => hitRafter { z with tlb := ((x, r.2) :: z.tlb).take 16 } 0x42 1), r.2)

/-- The translation of an extent is discarded by its eave's cache and by the buffer of the unit that uses it (R412). -/
def dropTranslation (s : State) (who : Option RafterId) (x : BitVec 19) : State :=
  let s1 := updEave s (x.toNat % 8) (fun v =>
    { v with tmc := tablePut [] v.tmc (x.toNat / 8 % 512) ((tableGet [] v.tmc (x.toNat / 8 % 512)).erase x) })
  match who with
  | none => s1
  | some n => updRafter s1 n (fun z => { z with tlb := z.tlb.filter (fun h => h.1 ≠ x) })

/-! ### The thatch format (R418 to R423) -/

/-- H for a capacity of `u` units of 16 MiB: the largest with H + ⌈H / 512⌉ ≤ U (R418). -/
def homesFor (u : Nat) : Nat :=
  let h := u * 512 / 513
  if h + 1 + (h + 512) / 512 ≤ u then h + 1 else if h + (h + 511) / 512 ≤ u then h else h - 1

def homeDir (h : Nat) : Nat := 32768 * h
def homeData (u h : Nat) : Nat := 2 ^ 24 * ((homesFor u + 511) / 512) + 2 ^ 24 * h

def elemWidth (w : Nat) : Nat := if w = 0 then 1 else if w = 1 then 2 else 4

/-- Plane `b` of a block: byte `b` of each element. -/
def planeOf (w b : Nat) (bs : List Byte) : List Byte :=
  ((List.range (bs.length / w)).map (fun k => bs.getD (w * k + b) 0))

/-- Distinct values in ascending order. -/
def distinctBytes (bs : List Byte) : List Byte :=
  ((List.range 256).map (BitVec.ofNat 8)).filter (fun v => bs.contains v)

/-- A plane's code and stored bytes (R421, R422). -/
def encodePlane (bs : List Byte) : Nat × List Byte :=
  let d := distinctBytes bs
  if d.length ≤ 1 then (1, d.take 1)
  else if d.length ≤ 16 then
    let idx := bs.map (fun b => d.findIdx (· == b))
    let pairs := (List.range (bs.length / 2)).map (fun k =>
      BitVec.ofNat 8 (idx.getD (2 * k) 0 + 16 * idx.getD (2 * k + 1) 0))
    (2, d ++ List.replicate (16 - d.length) 0 ++ pairs)
  else (0, bs)

/-- MODE, NSECT and the stored bytes of a block (R420, R422). -/
def encodeBlock (width : Nat) (bs : List Byte) : Nat × Nat × List Byte :=
  if bs.all (· == 0) then (1, 0, [])
  else
    let w := elemWidth width
    let ps := (List.range w).map (fun b => encodePlane (planeOf w b bs))
    let stored := ps.flatMap (·.2)
    let hdr := (ps.mapIdx (fun i p => p.1 * 4 ^ i)).foldl (· + ·) 0
    let n := (4 + stored.length + 63) / 64
    if 64 ≤ n then (0, 63, bs)
    else (2, n - 1, BitVec.ofNat 8 hdr :: 0 :: 0 :: 0 :: stored ++
      List.replicate (64 * n - 4 - stored.length) 0)

/-- A directory entry (Table 12.6). -/
def dirEntry (mode nsect sect : Nat) (crc : W32) : Nat :=
  mode + nsect * 4 + sect * 2 ^ 8 + crc.toNat * 2 ^ 32

/-- The directory entries and the data of an extent's blocks, in ascending order. -/
def thatchBlocks (width : Nat) : Nat → List (List Byte) → List Nat × List Byte
  | _, [] => ([], [])
  | sect, b :: bs =>
    let r := encodeBlock width b
    let rest := thatchBlocks width (sect + r.2.2.length / 64) bs
    (dirEntry r.1 r.2.1 sect (crc32c b) :: rest.1, r.2.2 ++ rest.2)

/-- The extent's bytes cut into blocks of 4,096. -/
def blocksOf : Nat → List Byte → List (List Byte)
  | 0, _ => []
  | n + 1, bs => bs.take 4096 :: blocksOf n (bs.drop 4096)

/-- A plane read back from its stored bytes; none where it is malformed (R423). -/
def decodePlane (code p : Nat) (bs : List Byte) : Option (List Byte × List Byte) :=
  if code = 0 then some (bs.take p, bs.drop p)
  else if code = 1 then some (List.replicate p (bs.headD 0), bs.drop 1)
  else if code = 2 then
    let dict := bs.take 16
    let idx := ((bs.drop 16).take (p / 2)).flatMap (fun b => [b.toNat % 16, b.toNat / 16])
    let vals := idx.map (fun i => dict.getD i 0)
    -- the distinct values fill the dictionary from its front in ascending order
    if (distinctBytes vals).length ≤ idx.foldl max 0 then none
    else some (vals, bs.drop (16 + p / 2))
  else none

/-- The planes of a PLANE block in order. -/
def decodePlanes (w hdr : Nat) : Nat → List Byte → Option (List (List Byte) × List Byte)
  | 0, bs => some ([], bs)
  | k + 1, bs =>
    match decodePlane (field hdr (2 * (w - (k + 1))) 2) (4096 / w) bs with
    | none => none
    | some (p, rest) =>
      match decodePlanes w hdr k rest with
      | none => none
      | some (ps, left) => some (p :: ps, left)

/-- Stored bytes of the planes that a block's header names (R421); none where a code is reserved. -/
def storedBytes (w hdr : Nat) : Nat :=
  ((List.range w).map (fun b => match field hdr (2 * b) 2 with
    | 0 => 4096 / w
    | 1 => 1
    | _ => 16 + 4096 / w / 2)).sum

/-- A block decoded, or the code of the fault that it raises: TDEC (0xA1) or TCRC (0xA0) (R423). -/
def decodeBlock (width dir : Nat) (sectors : List Byte) : Byte ⊕ List Byte :=
  let mode := field dir 0 2
  let nsect := field dir 2 6
  let w := elemWidth width
  let plain : Option (List Byte) :=
    if field dir 26 6 ≠ 0 then none
    else if mode = 0 then (if nsect = 63 then some sectors else none)
    else if mode = 1 then (if nsect = 0 then some (List.replicate 4096 0) else none)
    else if mode = 2 then
      let hdr := (sectors.getD 0 0).toNat
      if hdr / 4 ^ w ≠ 0 ∨ (sectors.getD 1 0) ≠ 0 ∨ (sectors.getD 2 0) ≠ 0 ∨ (sectors.getD 3 0) ≠ 0 then
        none
      else match decodePlanes w hdr w (sectors.drop 4) with
        | none => none
        | some (ps, left) =>
          if (4 + storedBytes w hdr + 63) / 64 ≠ nsect + 1 ∨ nsect = 63 ∨ !left.all (· == 0) then none
          else some ((List.range (4096 / w)).flatMap (fun k => ps.map (fun p => p.getD k 0)))
    else none
  match plain with
  | none => .inl 0xA1
  | some bs => if crc32c bs = BitVec.ofNat 32 (field dir 32 32) then .inr bs else .inl 0xA0

/-- Block `i` of a home, read from the port's device. -/
def readBlock (c : CxlPort) (width h i : Nat) : Byte ⊕ List Byte :=
  let dir := memWord c.dev (homeDir h + 8 * i) 8
  let n := if field dir 0 2 = 1 then 0 else 64 * (field dir 2 6 + 1)
  decodeBlock width dir (memRead c.dev (homeData c.units.toNat h + 64 * field dir 8 18) n)

/-- `n` bytes from offset `o` of a home. -/
def readHome (c : CxlPort) (width h o n : Nat) : Byte ⊕ List Byte :=
  let first := o / 4096
  let blocks := (List.range ((o + n + 4095) / 4096 - first)).map (fun k => readBlock c width h (first + k))
  match blocks.find? (fun b => b.isLeft) with
  | some (.inl code) => .inl code
  | _ => .inr (((blocks.flatMap (fun b => match b with
      | .inr bs => bs
      | .inl _ => [])).drop (o - 4096 * first)).take n)

/-! ### Accesses to the unified range (R411, Table 12.4) -/

/-- What one access by a unit or the host comes to. -/
inductive Fetched where
  | ok (bs : List Byte)
  /-- an access fault at a byte address -/
  | access (a : Nat)
  /-- data of an extent that fails its check at the CXL port -/
  | data (code : Byte) (x : BitVec 19)
deriving DecidableEq, Repr

def frameBase (e : Nat) : Nat := 2 ^ 24 * entFrame e

/-- Bytes of an extent's frame. -/
def frameRead (s : State) (e off n : Nat) : List Byte :=
  memRead (eaveAt s (entStack e)).hbm (frameBase e + off) n

def frameWrite (s : State) (e off : Nat) (bs : List Byte) : State :=
  updEave s (entStack e) (fun v =>
    { v with hbm := memWrite v.hbm (frameBase e + off) bs, ctr := hitCtrs v.ctr 0x201 bs.length })

/-- A read of the home, through a port in service (R426, R435). -/
def homeRead (s : State) (x : BitVec 19) (e off n : Nat) : Fetched :=
  let c := cxlAt s (entPort e)
  if c.isPresent && c.serve && c.up then
    match readHome c (entWidth e) (entHome e) off n with
    | .inl code => .data code x
    | .inr bs => .ok bs
  else .access (x.toNat * 2 ^ 24 + off)

/-- A scheduled extent (R433). -/
def isScheduled (s : State) (x : BitVec 19) : Bool :=
  s.tier.schedEn && s.tier.schedRecs.any (fun r =>
    decide (r.extent.toNat ≤ x.toNat) && decide (x.toNat ≤ r.extent.toNat + r.count.toNat))

def lateEvent (s : State) (x : BitVec 19) : State :=
  event { s with tier := { s.tier with late := satInc16 s.tier.late } } ridgeUnit 0xA8
    (x.zeroExtend 32) 0

/-- The first read of a scheduled extent from its home in a course writes event LATE (R433). -/
def noteHomeRead (s : State) (x : BitVec 19) : State :=
  if isScheduled s x && !s.tier.lateSeen.contains x then
    lateEvent { s with tier := { s.tier with lateSeen := s.tier.lateSeen ++ [x] } } x
  else s

/-- What the decoder of a port has decoded: plain bytes, and blocks by mode (Table 17.2). -/
def countDecoded (s : State) (c h first n : Nat) : State :=
  let mode := fun (i : Nat) => field (memWord (cxlAt s c).dev (homeDir h + 8 * i) 8) 0 2
  let ms := (List.range n).map (fun k => mode (first + k))
  [(0, 0x382), (1, 0x383), (2, 0x384)].foldl (fun a e => hitCxl a c e.2 ((ms.filter (· == e.1)).length))
    (hitCxl s c 0x380 (4096 * n))

/-- A read of `n` bytes within one extent by a program or a unit. -/
def unitReadExtent (s : State) (x : BitVec 19) (e off n : Nat) : State × Fetched :=
  if entState e = stResident ∨ entState e = stBoth then
    (hitEave s (entStack e) 0x200 n, .ok (frameRead s e off n))
  else if entState e = stHomed ∨ entState e = stPromoting then
    match homeRead s x e off n with
    | .ok bs => (countDecoded (noteHomeRead s x) (entPort e) (entHome e) (off / 4096)
        ((off + n + 4095) / 4096 - off / 4096), .ok bs)
    | r => (noteHomeRead s x, r)
  else (s, .access (x.toNat * 2 ^ 24 + off))

/-- The pieces of an access, one for each extent it touches. -/
def pieces : Nat → Nat → Nat → List (BitVec 19 × Nat × Nat)
  | 0, _, _ => []
  | k + 1, a, n =>
    if n = 0 then []
    else
      let off := a % 2 ^ 24
      let m := min n (2 ^ 24 - off)
      (BitVec.ofNat 19 (a / 2 ^ 24), off, m) :: pieces k (a + m) (n - m)

def piecesOf (a n : Nat) : List (BitVec 19 × Nat × Nat) := pieces (n / 2 ^ 24 + 2) a n

def readPieces (who : Option RafterId) : State → List (BitVec 19 × Nat × Nat) → State × Fetched
  | s, [] => (s, .ok [])
  | s, (x, off, n) :: ps =>
    let t := translate s who x
    match unitReadExtent t.1 x t.2 off n with
    | (s1, .ok bs) =>
      (match readPieces who s1 ps with
       | (s2, .ok cs) => (s2, .ok (bs ++ cs))
       | r => r)
    | r => r

/-! ### Access faults (R412) -/

/-- The index of the instruction whose transfer the stream engine carries out. -/
def streamPlace (x : Rafter) : Nat :=
  match x.jobs with
  | j :: _ => j.place
  | [] => x.seq.idx

def accessLo (a : Nat) : W32 := BitVec.ofNat 32 a
def accessHi (a space : Nat) : W32 := BitVec.ofNat 32 (a / 2 ^ 32 + space * 2 ^ 11)

/-- A rafter's ACCESS in its instruction fault registers (R250). -/
def noteAccess (s : State) (n : RafterId) (a space : Nat) : State :=
  updRafter s n (fun x => noteIx x 0x61 (ixInfoWord x 0x61 (streamPlace x)) (accessLo a) (accessHi a space))

/-- An access fault whose retry has failed: lasting. A rafter reports it in its instruction fault registers. -/
def accessFault (s : State) (u : UnitId) (a space : Nat) : State :=
  if unitKind u = 0 then
    let s1 := noteAccess s (unitInst u) a space
    lastingResponse s1 u 0x61 (rafterOf s1 (unitInst u)).ixInfo (accessLo a) (accessHi a space)
  else lastingResponse s u 0x61 0x61000000 (accessLo a) (accessHi a space)

/-- A unit that may retry: no retry is left to one that has used up its transient faults (R520). -/
def mayRetry (s : State) (who : Option RafterId) : Bool :=
  match who with
  | none => true
  | some n => !exhausted s (rafterUnit n)

/-- An access fault whose retry has passed: ACCESS is noted, and the fault is transient. -/
def accessRetried (s : State) (who : Option RafterId) (a : Nat) : State :=
  match who with
  | none => s
  | some n =>
    let s1 := noteAccess s n a 3
    updRafter (transientFault s1 (rafterUnit n) 0x61 (rafterOf s1 n).ixInfo (accessLo a) (accessHi a 3)) n
      (fun x => { x with seRetry := satInc16 x.seRetry })

def readOnce (s : State) (who : Option RafterId) (a n : Nat) : State × Fetched :=
  if 2 ^ 43 < a + n then (s, .access a) else readPieces who s (piecesOf a n)

/-- A read of the unified range by a program or a unit. One that meets an access fault is retried once with a fresh
translation (R412). -/
def unifiedRead (s : State) (who : Option RafterId) (a n : Nat) : State × Fetched :=
  match readOnce s who a n with
  | (s1, .access b) =>
    if mayRetry s1 who then
      match readOnce (dropTranslation s1 who (BitVec.ofNat 19 (b / 2 ^ 24))) who a n with
      | (s2, .ok bs) => (accessRetried s2 who b, .ok bs)
      | r => r
    else (s1, .access b)
  | r => r

/-- Every piece of a write translated; the entries, and whether all may be written. -/
def writePieces (who : Option RafterId) : State → List (BitVec 19 × Nat × Nat) →
    State × Bool × List Nat
  | s, [] => (s, true, [])
  | s, (x, _, _) :: ps =>
    let t := translate s who x
    let r := writePieces who t.1 ps
    (r.1, decide (entState t.2 = stResident) && r.2.1, t.2 :: r.2.2)

def storePieces : State → List (BitVec 19 × Nat × Nat) → List Nat → List Byte → State
  | s, (_, off, n) :: ps, e :: es, bs => storePieces (frameWrite s e off (bs.take n)) ps es (bs.drop n)
  | s, _, _, _ => s

def writeOnce (s : State) (who : Option RafterId) (a : Nat) (bs : List Byte) : State × Bool :=
  if 2 ^ 43 < a + bs.length then (s, false)
  else
    let ps := piecesOf a bs.length
    let r := writePieces who s ps
    if r.2.1 then (storePieces r.1 ps r.2.2 bs, true) else (r.1, false)

/-- A write to the unified range by a program or a unit: all of it, or none (R411, R412); retried once with fresh
translations. -/
def unifiedWrite (s : State) (who : Option RafterId) (a : Nat) (bs : List Byte) : State × Bool :=
  match writeOnce s who a bs with
  | (s1, false) =>
    if mayRetry s1 who then
      match writeOnce ((piecesOf a bs.length).foldl (fun z e => dropTranslation z who e.1) s1) who a bs with
      | (s2, true) => (accessRetried s2 who a, true)
      | r => r
    else (s1, false)
  | r => r

/-! ### Frames and accounting (R403, R430, R434) -/

def framesOf (s : State) (st : Nat) : Table FrameUse := s.tier.frames.getD st []

def setFrame (s : State) (st f : Nat) (u : FrameUse) : State :=
  { s with tier := { s.tier with frames := s.tier.frames.modify st (fun t => tablePut .free t f u) } }

/-- The lowest frame from `k` on that a sorted table does not list. -/
def lowestFree {α : Type} : Nat → Table α → Nat
  | k, [] => k
  | k, (f, _) :: t => if k < f then k else lowestFree (f + 1) t

def freeFrame (s : State) (st : Nat) : Option Nat :=
  let f := lowestFree 0 (framesOf s st)
  if f < 2240 then some f else none

def freeReserved (s : State) (st : Nat) : Option Nat :=
  ((framesOf s st).find? (fun e => e.2 = .resv)).map (·.1)

/-- Unreserved free frames of a stack. -/
def freeCount (s : State) (st : Nat) : Nat := 2240 - (framesOf s st).length

def usedExtents (s : State) (st : Nat) : List (BitVec 19) :=
  (framesOf s st).filterMap (fun e => match e.2 with
    | .used x => some x
    | _ => none)

/-- The owner of an extent, also while its frame is still being zeroed. -/
def ownerOf (s : State) (x : BitVec 19) : Nat :=
  match (s.tier.allocs.flatMap (·.entries)).find? (fun e => e.1 = x) with
  | some e => if entState (tierEntry s x) = stUnmapped then entOwner e.2.toNat
              else entOwner (tierEntry s x)
  | none => entOwner (tierEntry s x)

/-- Frames counted against a class: allocated ones, and those reserved for the schedule (R434). -/
def framesUsed (s : State) (k : Nat) : Nat :=
  ((List.range 8).map (fun st =>
    ((usedExtents s st).filter (fun x => ownerOf s x = k)).length +
    (if s.tier.schedOwner.toNat = k then ((framesOf s st).filter (fun e => e.2 = .resv)).length else 0))).sum

/-- Homes counted against a class. -/
def homesUsed (s : State) (k : Nat) : Nat :=
  ((List.range 2).map (fun c =>
    ((cxlAt s c).homes.filter (fun e => ownerOf s (BitVec.ofNat 19 (e.2 - 1)) = k)).length)).sum

/-- R429: BOTH, not pinned, not in use, and its port in service. -/
def evictable (s : State) (e : Nat) : Bool :=
  entState e == stBoth && entPin e == 0 && decide (entLast e < s.crs.course.toNat % 2 ^ 48) &&
  (cxlAt s (entPort e)).serve

/-- The first candidate for eviction: the lowest LASTUSE, then the lowest extent (R430). -/
def bestVictim (s : State) : List (BitVec 19) → Option (BitVec 19)
  | [] => none
  | x :: xs =>
    match bestVictim s xs with
    | none => some x
    | some y =>
      let lx := entLast (tierEntry s x)
      let ly := entLast (tierEntry s y)
      if lx < ly ∨ (lx = ly ∧ x.toNat < y.toNat) then some x else some y

def victimOf (s : State) (st : Nat) (p : Nat → Bool) : Option (BitVec 19) :=
  bestVictim s ((usedExtents s st).filter (fun x => evictable s (tierEntry s x) && p (tierEntry s x)))

/-- Frames of a stack that the schedule's reservation accounts for: those it holds, and those of extents with SCHED 1. -/
def reservationUse (s : State) (st : Nat) : Nat :=
  ((framesOf s st).filter (fun e => match e.2 with
    | .resv => true
    | .used x => entSched (tierEntry s x) == 1
    | .free => false)).length

/-- Where a released frame goes: back to the reservation it was taken from, as far as that still holds RESV frames
(R431), and to the free frames otherwise. -/
def releasedUse (s : State) (e : Nat) : FrameUse :=
  if entSched e = 1 ∧ reservationUse s (entStack e) ≤ (s.tier.resv.getD (entStack e) 0).toNat then .resv else .free

/-- The extent's frame is released. -/
def releaseFrame (s : State) (e : Nat) : State := setFrame s (entStack e) (entFrame e) (releasedUse s e)

/-- A demotion (R429). -/
def demote (s : State) (x : BitVec 19) : State :=
  let e := tierEntry s x
  let s1 := releaseFrame s e
  let e' := setField (setField (setField e 0 3 stHomed) 12 12 0) 41 1 0
  let s2 := setTierEntry s1 x e'
  { s2 with tier := { s2.tier with evictions := satInc16 s2.tier.evictions } }

/-- EVICTION_REQUEST (R429): the translating eave releases the frame only if the extent is evictable at
that moment, and otherwise refuses. -/
def evictionRequest (s : State) (x : BitVec 19) : State :=
  if evictable s (tierEntry s x) then demote s x
  else updEave s (x.toNat % 8) (fun v => { v with tmcRefused := satInc16 v.tmcRefused })

/-- A frame in a stack for a requester (Table 12.9): the frame, and the state after any eviction. -/
def takeFrame (s : State) (st : Nat) (sched : Bool) (owner : Nat) : Option (Nat × State) :=
  if sched then
    match freeReserved s st with
    | some f => some (f, s)
    | none =>
      match victimOf s st (fun e => entSched e == 1) with
      | some x => some (entFrame (tierEntry s x), evictionRequest s x)
      | none => none
  else if framesUsed s owner < (s.tier.hLimit.getD owner 0).toNat then
    match freeFrame s st with
    | some f => some (f, s)
    | none =>
      match victimOf s st (fun e => entSched e == 0) with
      | some x => some (entFrame (tierEntry s x), evictionRequest s x)
      | none => none
  else
    match victimOf s st (fun e => entSched e == 0 && entOwner e == owner) with
    | some x => some (entFrame (tierEntry s x), evictionRequest s x)
    | none => none

/-! ### Promotion (R428, R432) -/

/-- One promotion request with its hold (R428, R432); a second request for an extent promotes nothing. -/
def requestPromotion (s : State) (x : BitVec 19) (sched : Bool) (hold : Nat) : State :=
  let e := tierEntry s x
  if entState e = stHomed ∨ entState e = stPromoting ∨ entState e = stBoth then
    let s1 := setTierEntry s x (setField e 64 48 (max (entLast e) ((s.crs.course.toNat + hold) % 2 ^ 48)))
    if entState e = stHomed then
      if s1.tier.queue.any (fun r => r.extent = x) then s1
      else if 1024 ≤ s1.tier.queue.length then event s1 ridgeUnit 0xA9 (x.zeroExtend 32) 0
      else { s1 with tier := { s1.tier with queue := s1.tier.queue ++ [{ extent := x, sched := sched }] } }
    else s1
  else if sched then lateEvent s x else s

def requestPromotions (sched : Bool) (hold : Nat) : Nat → Nat → State → State
  | 0, _, s => s
  | n + 1, x, s =>
    requestPromotions sched hold n (x + 1) (requestPromotion s (BitVec.ofNat 19 x) sched hold)

/-- SCHEDULE_RECORD_ISSUE (R432): DELAY µs into a course of the record's PHASE. -/
def scheduleRecordIssue (s : State) (k : Nat) : State :=
  match s.tier.schedRecs[k]? with
  | none => s
  | some r =>
    if working s && s.tier.schedEn && s.tier.schedCycle ≠ 0 &&
        s.crs.course.toNat % s.tier.schedCycle.toNat == r.phase.toNat &&
        decide (s.crs.t0 + 100 * r.delay.toNat ≤ s.now) && !s.tier.issued.contains k then
      requestPromotions true r.hold.toNat (r.count.toNat + 1) r.extent.toNat
        { s with tier := { s.tier with issued := s.tier.issued ++ [k] } }
    else s

def runningOn (s : State) (c : Nat) : Nat := (s.tier.running.filter (fun p => b2n p.port = c)).length

/-- A request whose port is in service and runs fewer than two promotions, or that has nothing to
promote any more. -/
def startable (s : State) (r : PromoReq) : Bool :=
  let e := tierEntry s r.extent
  entState e ≠ stHomed ||
  ((cxlAt s (entPort e)).serve && (cxlAt s (entPort e)).up && decide (runningOn s (entPort e) < 2))

/-- PROMOTION_START (R428, R430). -/
def promotionStart (s : State) : State :=
  if s.saf.resetReq.isSome then s else
  match s.tier.queue.find? (startable s) with
  | none => s
  | some r =>
    let s1 := { s with tier := { s.tier with queue := s.tier.queue.erase r } }
    let e := tierEntry s1 r.extent
    if entState e ≠ stHomed then s1
    else match takeFrame s1 (entStack e) r.sched (entOwner e) with
      | none => event s1 ridgeUnit 0xA9 (r.extent.zeroExtend 32) 0
      | some (f, s2) =>
        let e' := setField (setField (setField e 0 3 stPromoting) 12 12 f) 41 1 (b2n r.sched)
        let s3 := setTierEntry (setFrame s2 (entStack e) f (.used r.extent)) r.extent e'
        { s3 with tier := { s3.tier with
            running := s3.tier.running ++ [{ extent := r.extent, port := entPort e = 1, done := 0 }] } }

/-- The registers of a fault of the tier controller's units (Table 12.14). -/
def noteTierFault (s : State) (code : Byte) (x : BitVec 19) : State :=
  { s with tier := { s.tier with
      fault := s.tier.fault ||| BitVec.ofNat 32 (2 ^ (code.toNat - 0xA0))
      faultInfo := BitVec.ofNat 32 (code.toNat * 2 ^ 24 + x.toNat) } }

/-- A CXL port's retried fault: reread once, counted when the reread passes (R425, R436). -/
def cxlFault (s : State) (c : Nat) (code : Byte) (x : BitVec 19) (again : Bool) : State × Bool :=
  let home := entHome (tierEntry s x)
  let s1 := updCxl (noteTierFault s code x) c (fun v =>
    { v with faultInfo := BitVec.ofNat 32 (code.toNat * 2 ^ 24 + home) })
  let o := retried s1 (cxlUnit c) code s1.tier.faultInfo 0 0 again
  if o.2 then (updCxl o.1 c (fun v => { v with rereads := satInc16 v.rereads }), true) else o

/-- What a failed fetch of unified data by a unit raises: an access fault of the unit, or the CXL port's
fault for the home's data, whose reread fails again (R423, R425). -/
def fetchFault (s : State) (u : UnitId) (f : Fetched) : State :=
  match f with
  | .ok _ => s
  | .access a => accessFault s u a 3
  | .data code x => (cxlFault s (entPort (tierEntry s x)) code x true).1

/-- CXL_READ_RESPONSE (R423, R425, R428): a flit that the link replays well counts there; a block of a running promotion is checked, decoded and written
to the frame; nothing that fails a check is delivered, and a response that no promotion awaits is
discarded. -/
def cxlReadResponse (s : State) (port : Bool) (x : BitVec 19) (block : BitVec 12) (hw : HwCheck) :
    State :=
  match s.tier.running.find? (fun p => p.extent = x ∧ p.port = port) with
  | none => s
  | some _ =>
    let c := b2n port
    let chk := match hw with
      | .pass => (s, true)
      | .once 0xA2 _ => (updCxl s c (fun v => { v with replays := satInc16 v.replays }), true)
      | .once code _ => if code = 0xA0 ∨ code = 0xA1 ∨ code = 0xA3 then cxlFault s c code x false else (s, true)
      | .twice code _ => if code = 0xA0 ∨ code = 0xA1 ∨ code = 0xA3 then cxlFault s c code x true else (s, true)
    if !chk.2 then chk.1
    else
      let e := tierEntry chk.1 x
      match readBlock (cxlAt chk.1 c) (entWidth e) (entHome e) block.toNat with
      | .inl code => (cxlFault chk.1 c code x true).1
      | .inr bs =>
        let s1 := frameWrite (countDecoded chk.1 c (entHome e) block.toNat 1) e (4096 * block.toNat) bs
        { s1 with tier := { s1.tier with running := s1.tier.running.map (fun p =>
            if p.extent = x ∧ p.port = port then { p with done := p.done ||| (1#4096 <<< block.toNat) }
            else p) } }

/-- PROMOTION_COMPLETE (R428): after the last block the extent is BOTH. -/
def promotionComplete (s : State) (x : BitVec 19) : State :=
  match s.tier.running.find? (fun p => p.extent = x) with
  | none => s
  | some p =>
    if p.done ≠ BitVec.allOnes 4096 then s
    else
      let s1 := hitCxl { s with tier := { s.tier with running := s.tier.running.erase p } } (b2n p.port) 0x390 1
      setTierEntry s1 x (setField (tierEntry s1 x) 0 3 stBoth)

def tmcFixed (s : State) (e : Nat) : State := updEave s e (fun v => { v with tmcFix := satInc16 v.tmcFix })

/-- TIER_LOOKUP (R409): a single-bit error of the tier-map cache or the backing table is corrected; with an error that
cannot be, the entry is reread from the backing table, and a second failure is lasting (TMECC, Table 12.14). -/
def tierLookupCommand (s : State) (x : BitVec 19) (ecc : Option HwEvent) : State :=
  let e := x.toNat % 8
  let reread := fun (again : Bool) =>
    let s1 := noteTierFault s 0xA4 x
    let o := retried s1 (eaveUnit e) 0xA4 s1.tier.faultInfo 0 0 again
    if o.2 then (tmcFixed o.1 e, true) else o
  let chk := match ecc with
    | some (.fixed 0xA4 _) => (tmcFixed s e, true)
    | some (.once 0xA4 _) => reread false
    | some (.twice 0xA4 _) => reread true
    | _ => (s, true)
  if chk.2 then (tierLookup chk.1 x).1 else chk.1

/-- CXL_LINK_DOWN (R436): lasting at once. -/
def cxlLinkDown (s : State) (port : Bool) : State :=
  let c := b2n port
  if !(cxlAt s c).up then s
  else
    let s1 := updCxl s c (fun v => { v with up := false, rate := 0, width := 0
                                            faultInfo := 0xA2000000 })
    let s2 := { s1 with tier := { s1.tier with fault := s1.tier.fault ||| 4, faultInfo := 0xA2000000 } }
    lastingResponse s2 (cxlUnit c) 0xA2 0xA2000000 0 0

/-! ### Meanings -/

/-- A lookup by the translating eave unit (R409). -/
def execTierLookup (extent : BitVec 19) (ecc : Option HwEvent) (s : State) : Out State :=
  .next (tierLookupCommand s extent ecc)

/-- A schedule record falls due (R432). -/
def execScheduleRecordIssue (k : BitVec 17) (s : State) : Out State :=
  .next (scheduleRecordIssue s k.toNat)

/-- A waiting promotion starts (R428). -/
def execPromotionStart (s : State) : Out State := .next (promotionStart s)

/-- An eviction is decided (R429). -/
def execEvictionRequest (extent : BitVec 19) (s : State) : Out State :=
  .next (evictionRequest s extent)

/-- A promotion ends (R428). -/
def execPromotionComplete (extent : BitVec 19) (s : State) : Out State :=
  .next (promotionComplete s extent)

/-- A CXL read response arrives (R425). -/
def execCxlReadResponse (port : Bool) (extent : BitVec 19) (block : BitVec 12) (hw : HwCheck)
    (s : State) : Out State := .next (cxlReadResponse s port extent block hw)

/-- A CXL link fails (R436). -/
def execCxlLinkDown (port : Bool) (s : State) : Out State := .next (cxlLinkDown s port)

end Sys2Proof.Machine
end

