-- ==== Sys2Proof/Machine/Streams.lean ====
section
/-!
DEFINITION. The stream engine (R236 to R242, R288 to R308): descriptors, plain, transposing and indexed
transfers, padding, conversion, prefetch, and the scratchpad ports. How far reads run ahead of writes is in log 96.
-/

namespace Sys2Proof.Machine

/-! ### Descriptors (R288) -/

def dType (d : Nat) : ElemType := (typeOfCode (field d 0 4)).getD .fp32
def dPadw (d : Nat) : Bool := field d 4 1 = 1
def dD0 (d : Nat) : Nat := field d 32 16
def dD1 (d : Nat) : Nat := field d 48 16
def dD2 (d : Nat) : Nat := field d 64 16
def signed32 (x : Nat) : Int := (BitVec.ofNat 32 x).toInt
def dSrs (d : Nat) : Int := signed32 (field d 96 32)
def dSps (d : Nat) : Int := signed32 (field d 128 32)
def dDrs (d : Nat) : Int := signed32 (field d 160 32)
def dDps (d : Nat) : Int := signed32 (field d 192 32)

/-! ### The four address spaces (Table 6.5) -/

/-- Bytes read by rafter `n` at position `p`. -/
def spaceRead (s : State) (n : RafterId) (p : Nat) (sp : Space) (a len : Nat) : State × Fetched :=
  match sp with
  | .scratch => (s, .ok (memRead (rafterAt s p).scratch a len))
  | .ownLoft => (s, .ok (memRead (trussAt s (p / 6)).loft a len))
  | .loft => (s, .ok (memRead (trussAt s (a / 2 ^ 25 % 16)).loft (a % 2 ^ 25) len))
  | .unified => unifiedRead s (some n) a len

/-- Bytes written by rafter `n`; in the unified range all of them or none (R412). -/
def spaceWrite (s : State) (n : RafterId) (p : Nat) (sp : Space) (a : Nat) (bs : List Byte) :
    State × Bool :=
  match sp with
  | .scratch =>
    let x := rafterAt s p
    (setRafter s p { x with scratch := memWrite x.scratch a bs }, true)
  | .ownLoft => (updTruss s (p / 6) (fun t => { t with loft := memWrite t.loft a bs }), true)
  | .loft =>
    (updTruss s (a / 2 ^ 25 % 16) (fun t => { t with loft := memWrite t.loft (a % 2 ^ 25) bs }), true)
  | .unified => unifiedWrite s (some n) a bs

/-- A read that has raised its fault where it failed. -/
def fetchRow (s : State) (n : RafterId) (p : Nat) (sp : Space) (a : Int) (len : Nat) :
    State × Option (List Byte) :=
  match spaceRead s n p sp a.toNat len with
  | (s1, .ok bs) => (setRafter s1 p (hitRafter (rafterAt s1 p) 0x40 bs.length), some bs)
  | (s1, f) => (fetchFault s1 (rafterUnit n) f, none)

/-- A write that has raised its fault where it failed. -/
def placeRow (s : State) (n : RafterId) (p : Nat) (sp : Space) (a : Int) (bs : List Byte) : State × Bool :=
  match spaceWrite s n p sp a.toNat bs with
  | (s1, true) => (setRafter s1 p (hitRafter (rafterAt s1 p) 0x41 bs.length), true)
  | (s1, false) => (accessFault s1 (rafterUnit n) a.toNat 3, false)

/-! ### Elements -/

/-- `k` dense elements of a type out of bytes. -/
def elemsFrom (t : ElemType) (bs : List Byte) (k : Nat) : List Nat :=
  let w := elemBits t
  (List.range k).map (fun e => field (natOfBytes ((bs.drop (e * w / 8)).take 5)) (e * w % 8) w)

/-- Elements packed into bytes; rows of an MX type fill whole bytes (R293). -/
def bytesFrom (t : ElemType) (l : List Nat) : List Byte :=
  if elemBits t % 8 = 0 then elemBytes t l else packBits (elemBits t) l

/-- Elements converted from the descriptor's type to DTYPE (R238). -/
def convElems (s : State) (n : RafterId) (j : SJob) (count : BitVec 56) (l : List Nat) :
    List Nat × BitVec 56 :=
  let t := dType j.desc.toNat
  if t = j.o.dtype then (l, count)
  else
    let r := toDests j.o.dtype false j.o.sat (rndOf s n 3 count j.o.rnd) (l.map (widen t false))
    (r.1, r.2.1.count)

/-- A conversion with the engine's stochastic count carried in the rafter. -/
def convOn (s : State) (n : RafterId) (p : Nat) (j : SJob) (l : List Nat) : State × List Nat :=
  let x := rafterAt s p
  let r := convElems s n j x.seCount l
  (setRafter s p (hitRafter { x with seCount := r.2 } 0x70 (r.2 - x.seCount).toNat), r.1)

/-- A row filled up to `k` elements with PADA (R298, R300). -/
def padRow (j : SJob) (k : Nat) (l : List Nat) : List Nat :=
  l ++ List.replicate (k - l.length) (padBits j.o.dtype (dPada j.desc.toNat))

/-- Elements per row and rows that a destination takes: the planned extents with PADW, else the run-time
ones. -/
def outD0 (j : SJob) : Nat := if dPadw j.desc.toNat then dD0 j.desc.toNat else j.d0
def outD1 (j : SJob) : Nat := if dPadw j.desc.toNat then dD1 j.desc.toNat else j.d1

/-! ### Destinations -/

/-- What a transfer has produced: bytes for an input queue. -/
structure SAcc where
  st : State
  out : List Byte
  ok : Bool

/-- A destination row: written at its address, or appended for the queue (R292). -/
def emitRow (n : RafterId) (p : Nat) (j : SJob) (a : Int) (bs : List Byte) (acc : SAcc) : SAcc :=
  if j.o.dq then { acc with out := acc.out ++ bs }
  else
    let r := placeRow acc.st n p j.dg.space a bs
    { acc with st := r.1, ok := r.2 }

/-- Tokens of 512 B payload sent to the input queue; `whole` sends only full ones (R237). -/
def feedBytes (n : RafterId) (q : Nat) (bs : List Byte) (whole : Bool) (x : Rafter) : Rafter :=
  (payloads (bs.length / 512 + 1) bs).foldl (fun y d =>
    if whole && decide (d.length < 512) then y else setIq y q (feedToken n (iqOf y q) 0 d)) x

/-! ### The transfers -/

/-- Row pairs (d2, d1) in visiting order. -/
def rowPairs (d2 d1 : Nat) : List (Nat × Nat) :=
  (List.range d2).flatMap (fun a => (List.range d1).map (fun b => (a, b)))

def srcAt (j : SJob) (d2 d1 : Nat) : Int :=
  j.src + (d2 : Int) * dSps j.desc.toNat + (d1 : Int) * dSrs j.desc.toNat
def dstAt (j : SJob) (d2 d1 : Nat) : Int :=
  j.dst + (d2 : Int) * dDps j.desc.toNat + (d1 : Int) * dDrs j.desc.toNat

/-- One row of a LOAD or STORE (R291); a row beyond the run-time D1 is padding. -/
def plainRow (n : RafterId) (p : Nat) (j : SJob) (acc : SAcc) (r : Nat × Nat) : SAcc :=
  if !acc.ok then acc
  else
    let t := dType j.desc.toNat
    let got : State × Option (List Nat) :=
      if r.2 < j.d1 then
        match fetchRow acc.st n p j.sg.space (srcAt j r.1 r.2) (denseBytes t j.d0) with
        | (s1, some bs) => let c := convOn s1 n p j (elemsFrom t bs j.d0); (c.1, some c.2)
        | (s1, none) => (s1, none)
      else (acc.st, some [])
    match got with
    | (s1, none) => { acc with st := s1, ok := false }
    | (s1, some l) =>
      emitRow n p j (dstAt j r.1 r.2) (bytesFrom j.o.dtype (padRow j (outD0 j) l)) { acc with st := s1 }

def plainRun (s : State) (n : RafterId) (p : Nat) (j : SJob) : SAcc :=
  (rowPairs (dD2 j.desc.toNat) (outD1 j)).foldl (plainRow n p j) { st := s, out := [], ok := true }

/-- The rows of one plane read in ascending d1. -/
def planeRows (n : RafterId) (p : Nat) (j : SJob) (d2 : Nat) :
    List Nat → State → State × Option (List (List Nat))
  | [], s => (s, some [])
  | d1 :: ds, s =>
    let t := dType j.desc.toNat
    match fetchRow s n p j.sg.space (srcAt j d2 d1) (denseBytes t j.d0) with
    | (s1, none) => (s1, none)
    | (s1, some bs) =>
      match planeRows n p j d2 ds s1 with
      | (s2, none) => (s2, none)
      | (s2, some rest) => (s2, some (elemsFrom t bs j.d0 :: rest))

/-- Destination row `d0` of an XLOAD: source column `d0` (R296). -/
def xloadRow (n : RafterId) (p : Nat) (j : SJob) (d2 : Nat) (rows : List (List Nat)) (acc : SAcc)
    (d0 : Nat) : SAcc :=
  if !acc.ok then acc
  else
    let c : State × List Nat :=
      if d0 < j.d0 then convOn acc.st n p j (rows.map (fun r => r.getD d0 0)) else (acc.st, [])
    emitRow n p j (dstAt j d2 d0) (bytesFrom j.o.dtype (padRow j (outD1 j) c.2)) { acc with st := c.1 }

def xloadPlane (n : RafterId) (p : Nat) (j : SJob) (acc : SAcc) (d2 : Nat) : SAcc :=
  if !acc.ok then acc
  else match planeRows n p j d2 (List.range j.d1) acc.st with
    | (s1, none) => { acc with st := s1, ok := false }
    | (s1, some rows) => (List.range (outD0 j)).foldl (xloadRow n p j d2 rows) { acc with st := s1 }

def xloadRun (s : State) (n : RafterId) (p : Nat) (j : SJob) : SAcc :=
  (List.range (dD2 j.desc.toNat)).foldl (xloadPlane n p j) { st := s, out := [], ok := true }

/-- Index `k` of the list, a signed word in the scratchpad (R295). -/
def indexAt (s : State) (p : Nat) (j : SJob) (k : Nat) : Int :=
  signed32 (memWord (rafterAt s p).scratch (j.idx + 4 * k) 4)

/-- `len` bytes at an address through a generator as it stood at issue. -/
def genOk (g : Ag) (a : Int) (len : Nat) : Bool :=
  decide (0 ≤ a) && decide (a + len ≤ (g.base.toNat + g.limit.toNat : Nat)) && inSpace g.space a.toNat len

/-- An index that is negative or whose row passes the limit (R240). -/
def indexBad (g : Ag) (i a : Int) (len : Nat) : Bool := decide (i < 0) || !genOk g a len

/-- One row of a GATHER. -/
def gatherRow (n : RafterId) (p : Nat) (j : SJob) (acc : SAcc) (k : Nat) : SAcc :=
  if !acc.ok then acc
  else if j.d1 ≤ k then
    emitRow n p j (dstAt j 0 k) (bytesFrom j.o.dtype (padRow j (outD0 j) [])) acc
  else
    let t := dType j.desc.toNat
    let i := indexAt acc.st p j k
    let a := j.src + i * dSrs j.desc.toNat
    if indexBad j.sg i a (denseBytes t j.d0) then { acc with st := boundFaultAt acc.st n j.place, ok := false }
    else match fetchRow acc.st n p j.sg.space a (denseBytes t j.d0) with
      | (s1, none) => { acc with st := s1, ok := false }
      | (s1, some bs) =>
        let c := convOn s1 n p j (elemsFrom t bs j.d0)
        emitRow n p j (dstAt j 0 k) (bytesFrom j.o.dtype (padRow j (outD0 j) c.2)) { acc with st := c.1 }

def gatherRun (s : State) (n : RafterId) (p : Nat) (j : SJob) : SAcc :=
  (List.range (outD1 j)).foldl (gatherRow n p j) { st := s, out := [], ok := true }

/-- FP32 rows added with one rounding per element (R240). -/
def addRows (a b : List Nat) : List Nat :=
  (a.zip b).map (fun e => (addR (BitVec.ofNat 32 e.1) (BitVec.ofNat 32 e.2)).1.toNat)

/-- One row of a SCATTER or SCATTER.ADD. -/
def scatterRow (n : RafterId) (p : Nat) (j : SJob) (acc : SAcc) (k : Nat) : SAcc :=
  if !acc.ok then acc
  else
    let t := dType j.desc.toNat
    let i := indexAt acc.st p j k
    let a := j.dst + i * dDrs j.desc.toNat
    let len := denseBytes j.o.dtype j.d0
    if indexBad j.dg i a len then { acc with st := boundFaultAt acc.st n j.place, ok := false }
    else match fetchRow acc.st n p j.sg.space (srcAt j 0 k) (denseBytes t j.d0) with
      | (s1, none) => { acc with st := s1, ok := false }
      | (s1, some bs) =>
        let c := convOn s1 n p j (elemsFrom t bs j.d0)
        if j.op = .scatterAdd then
          match fetchRow c.1 n p j.dg.space a len with
          | (s2, none) => { acc with st := s2, ok := false }
          | (s2, some old) =>
            emitRow n p j a (bytesFrom .fp32 (addRows (elemsFrom .fp32 old j.d0) c.2)) { acc with st := s2 }
        else emitRow n p j a (bytesFrom j.o.dtype c.2) { acc with st := c.1 }

def scatterRun (s : State) (n : RafterId) (p : Nat) (j : SJob) : SAcc :=
  (List.range j.d1).foldl (scatterRow n p j) { st := s, out := [], ok := true }

/-! ### STORE from an output queue (R237, R292) -/

/-- Payload bytes of the data tokens at the front of an output queue, up to `need`: the bytes, the tokens taken, and
whether a hip token stands in the way. -/
def takeTokens : Nat → List Token → List Byte × Nat × Bool
  | _, [] => ([], 0, false)
  | need, t :: ts =>
    if need = 0 then ([], 0, false)
    else if isHip t then ([], 0, true)
    else
      let r := takeTokens (need - t.data.length) ts
      (t.data ++ r.1, r.2.1 + 1, r.2.2)

/-- Rows of a queue-sourced transfer: the bytes in visiting order. -/
def queueRow (n : RafterId) (p : Nat) (j : SJob) (bs : List Byte) (acc : SAcc) (r : Nat × Nat) : SAcc :=
  if !acc.ok then acc
  else
    let t := dType j.desc.toNat
    let len := denseBytes t j.d0
    let c := convOn acc.st n p j (elemsFrom t (bs.drop ((r.1 * j.d1 + r.2) * len)) j.d0)
    emitRow n p j (dstAt j r.1 r.2) (bytesFrom j.o.dtype c.2) { acc with st := c.1 }

def queueBytes (j : SJob) : Nat := denseBytes (dType j.desc.toNat) j.d0 * j.d1 * dD2 j.desc.toNat

/-! ### Extents (R294, R305) -/

/-- Bytes from the lowest to past the highest that rows at two strides touch. -/
def spanOf (base : Int) (d2 d1 : Nat) (ps rs : Int) (bytes : Nat) : Int × Int :=
  let a := ((d2 : Int) - 1) * ps
  let b := ((d1 : Int) - 1) * rs
  (base + min 0 a + min 0 b, base + max 0 a + max 0 b + (bytes : Int))

/-- What a generator may reach: the extent of the side whose rows are indexed. -/
def reachOf (g : Ag) : Int × Int := (g.base.toNat, g.base.toNat + g.limit.toNat)

def srcSpan (j : SJob) : Int × Int :=
  let d := j.desc.toNat
  if j.o.sq then (0, 0)
  else if j.op = .gather then reachOf j.sg
  else spanOf j.src (dD2 d) j.d1 (dSps d) (dSrs d) (denseBytes (dType d) j.d0)

def dstSpan (j : SJob) : Int × Int :=
  let d := j.desc.toNat
  if j.o.dq then (0, 0)
  else if j.op = .scatter ∨ j.op = .scatterAdd then reachOf j.dg
  else if j.op = .xload then
    spanOf j.dst (dD2 d) (outD0 j) (dDps d) (dDrs d) (denseBytes j.o.dtype (outD1 j))
  else spanOf j.dst (dD2 d) (outD1 j) (dDps d) (dDrs d) (denseBytes j.o.dtype (outD0 j))

def meet (a b : Int × Int) : Bool := decide (a.1 < b.2) && decide (b.1 < a.2)

/-- What the transfers in flight write. -/
def flights (x : Rafter) : List (Space × Int × Int) := (unitQ x 1).filterMap (·.span)

/-- A transfer may start: fewer than two are in flight, and none of them writes what it reads or writes (R305). -/
def mayStart (x : Rafter) (j : SJob) : Bool :=
  decide ((flights x).length < 2) &&
  (flights x).all (fun f => !(f.1 = j.sg.space && meet f.2 (srcSpan j)) && !(f.1 = j.dg.space && meet f.2 (dstSpan j)))

/-! ### Running transfers -/

/-- A transfer that writes another loft or the unified range awaits an acknowledgement (R242). -/
def needsAck (j : SJob) : Bool :=
  (j.op == .store || j.op == .scatter) && (j.dg.space == .loft || j.dg.space == .unified)

/-- The oldest stream instruction that has not begun becomes `f` of itself. -/
def markStream (x : Rafter) (f : InFlight → InFlight) : Rafter :=
  let q := unitQ x 1
  match q.findIdx? (fun e => (e.kind == .stream || e.kind == .accept) && !e.done && e.span.isNone) with
  | some i => setUnitQ x 1 (q.modify i f)
  | none => x

/-- A transfer has read and sent all it has to: it is in flight until its data tokens are admitted and its writes are
acknowledged (R237, R242). -/
def finishJob (s : State) (n : RafterId) (p : Nat) (j : SJob) (tokens : Nat) : State :=
  let x := rafterAt s p
  let y := { x with jobs := x.jobs.tail, seDesc := j.o.desc, seXpose := j.op == .xload, progress := 0 }
  let flown := fun (e : InFlight) => { e with
    kind := if j.o.dq then .admits j.o.qi.toNat tokens else .stream, done := !j.o.dq
    span := some (j.dg.space, dstSpan j) }
  if needsAck j then
    let tag : W16 := BitVec.ofNat 16 (y.wgen.toNat * 256 + (y.seTag.toNat + 1) % 256)
    let s1 := setRafter s p (markStream { y with seTag := tag } (fun e => { flown e with acks := 1, tag := tag }))
    { s1 with acks := s1.acks ++ [{ dst := rafterUnit n, tag := tag, rgen := s.crs.resetGen }] }
  else setRafter s p (markStream y flown)

def streamCodes : List Byte := [0x62, 0xE0, 0xE2]

/-- What the fault registers say of a transfer: its index and where its source lies. -/
def streamAt (j : SJob) : WorkAt := { place := j.place, space := j.sg.space, addr := j.src.toNat, row := false }

/-- The checks of the CXL port that serves a source's extent from its home: the sectors are read once more, and a second
failure delivers nothing (R425, R436). -/
def homeChecks (s : State) (j : SJob) : State × Bool :=
  (j.hw.cycles.flatten.filter (fun e => !isFixed e && [0xA0#8, 0xA1#8, 0xA3#8].contains (eventCode e))).foldl (fun a e =>
    let x := BitVec.ofNat 19 (blockAddr (streamAt j) (eventInfo e) / 2 ^ 24)
    let t := tierEntry a.1 x
    if a.2 && j.sg.space == .unified && (entState t == stHomed || entState t == stPromoting) then
      cxlFault a.1 (entPort t) (eventCode e) x (isTwice e)
    else a) (s, true)

/-- A transfer's rows carried out, with its queue side. -/
def runRows (s : State) (n : RafterId) (p : Nat) (j : SJob) : State :=
  let h := homeChecks s j
  let c := if h.2 then rafterCheck h.1 n (streamAt j) streamCodes j.hw else h
  if !c.2 then c.1
  else
    let r := match j.op with
      | .xload => xloadRun c.1 n p j
      | .gather => gatherRun c.1 n p j
      | .scatter | .scatterAdd => scatterRun c.1 n p j
      | _ => plainRun c.1 n p j
    let s1 := if j.o.dq then
        setRafter r.st p (feedBytes n j.o.qi.toNat r.out (!r.ok) (rafterAt r.st p)) else r.st
    if r.ok then finishJob s1 n p j ((r.out.length + 511) / 512) else s1

/-- A STORE from an output queue takes the data tokens of the epoch as they arrive, and writes once it has them all; a
hip token at the head before that is a hip underrun (R237, R121). -/
def runStore (s : State) (n : RafterId) (p : Nat) (j : SJob) : State :=
  let x := rafterAt s p
  let q := j.o.qi.toNat
  let o := oqOf x q
  let t := takeTokens (if staleHead o then 0 else queueBytes j - j.got.length) o.tokens
  let k := { j with got := j.got ++ t.1 }
  let o1 := { o with tokens := o.tokens.drop t.2.1, sent := o.sent - t.2.1, taken := o.taken + BitVec.ofNat 24 t.2.1 }
  let s1 := if t.2.1 = 0 then s
    else hipsStep (setRafter s p { setOq x q o1 with jobs := k :: x.jobs.tail, progress := 0 }) n
  if k.got.length < queueBytes j then
    if t.2.2 then
      dataflowFault s1 n 0x37 j.place (faultInfoWord (headCount o1) 0x37 false true q) (low16 o1.taken)
    else s1
  else
    let c := rafterCheck s1 n { streamAt j with space := .scratch, addr := 0 } streamCodes j.hw
    if !c.2 then c.1
    else
      let r := (rowPairs (dD2 j.desc.toNat) j.d1).foldl (queueRow n p j k.got) { st := c.1, out := [], ok := true }
      if r.ok then finishJob r.st n p j 0 else r.st

/-- A PREFETCH enters the queue of 16 requests, which accepts it (R241, R308). -/
def runPrefetch (s : State) (p : Nat) (j : SJob) : State :=
  let x := rafterAt s p
  if 16 ≤ x.prefetch.length then s
  else
    setRafter s p (markStream { x with
      prefetch := x.prefetch ++ [(BitVec.ofNat 19 (j.src.toNat / 2 ^ 24), j.next, x.wgen)]
      jobs := x.jobs.tail, progress := 0 } (fun e => { e with done := true }))

/-- The oldest transfer, as far as it can go. -/
def runJob (s : State) (n : RafterId) (p : Nat) (j : SJob) : State :=
  if j.op = .prefetch then runPrefetch s p j
  else if !mayStart (rafterAt s p) j then s
  else if j.o.sq then runStore s n p j
  else runRows s n p j

/-- Transfers run in issue order until one waits (R305). -/
def runJobs (n : RafterId) (p : Nat) : Nat → State → State
  | 0, s => s
  | k + 1, s =>
    match (rafterAt s p).jobs with
    | [] => s
    | j :: rest =>
      if !working s then s
      else
        let s1 := runJob s n p j
        if (rafterAt s1 p).jobs = rest then runJobs n p k s1 else s1

/-- RFT_SE_STATUS.STATE and XPOSE: waiting for tokens, transferring, or idle. -/
def streamState (x : Rafter) : Rafter :=
  let waits := match x.jobs with
    | j :: _ => j.o.sq && mayStart x j
    | [] => (unitQ x 1).any (fun e => match e.kind with
      | .admits _ _ => !e.done
      | _ => false)
  { x with seState := if waits then 3 else if (flights x).isEmpty then 0 else 1
           seXpose := x.seXpose && !(flights x).isEmpty }

/-- The stream engine works on what it has taken. -/
def streamWork (s : State) (n : RafterId) : State :=
  match physOf s n with
  | none => s
  | some p => updRafter (runJobs n p ((rafterAt s p).jobs.length + 1) s) n streamState

/-! ### Issue -/

/-- The extent checks at issue (R294): the side whose rows are indexed is checked row by row. -/
def streamBoundsOk (x : Rafter) (j : SJob) (g : StreamOps) : Bool :=
  let srcOk := g.sq || j.op == .gather || agSpanOk x g.sag (srcSpan j).1 (srcSpan j).2
  let dstOk := g.dq || j.op == .scatter || j.op == .scatterAdd || agSpanOk x g.dag (dstSpan j).1 (dstSpan j).2
  let idxOk := !(j.op == .gather || j.op == .scatter || j.op == .scatterAdd) || scratchSpan x g.iag
  srcOk && dstOk && idxOk
where
  /-- the index list lies in the scratchpad within its generator -/
  scratchSpan (x : Rafter) (g : BitVec 4) : Bool :=
    (agOf x g).space == .scratch && agSpanOk x g (agAddr x g) (agAddr x g + (4 * j.d1 : Nat))

/-- A row of an MX type fills whole bytes (R293). -/
def mxRowOk (t : ElemType) (d0 : Nat) : Bool :=
  match t with
  | .mxfp4 => d0 % 2 == 0
  | .mxfp6 => d0 % 4 == 0
  | _ => true

def jobOf (x : Rafter) (op : StreamOp) (o : StreamOps) (hw : UnitCheck) (shape : Nat) : SJob :=
  { op := op, o := o, hw := hw, sg := agOf x o.sag, dg := agOf x o.dag, src := agAddr x o.sag
    dst := agAddr x o.dag, idx := (agAddr x o.iag).toNat, d0 := field shape 0 16, d1 := field shape 16 16
    desc := tableGet 0 x.descs o.desc.toNat, next := 0, place := x.seq.idx, got := [] }

/-- LOAD, STORE, XLOAD, GATHER, SCATTER and SCATTER.ADD. -/
def streamEffect (s : State) (n : RafterId) (f : Frame) (op : StreamOp) (o : StreamOps) (hw : UnitCheck) :
    State :=
  issue s n 1 true noFire (fun p x =>
    let d := descOf x o.desc
    let sw := shapeValue x o.shp (dD0 d + dD1 d * 2 ^ 16)
    let j := jobOf x op o hw sw
    if dD0 d < j.d0 ∨ dD1 d < j.d1 then shapeFault s n sw
    else if j.d0 = 0 ∨ j.d1 = 0 then setRafter s p (placedDone x 1 f)
    else if !mxRowOk (dType d) j.d0 then shapeFault s n sw
    else if !streamBoundsOk x j o then boundFault s n
    else
      let y := advanced x
      streamWork (setRafter s p
        (placed { y with jobs := y.jobs ++ [j] } 1 { flight f .stream false with place := j.place })) n)

def noStreamOps (sag : BitVec 4) : StreamOps :=
  { sag := sag, dag := 0, sq := false, dq := false, qi := 0, desc := 0, shp := .planned, dtype := .fp32
    rnd := false, sat := false, iag := 0 }

/-- PREFETCH (R241): an address beyond the unified range is an address-bound fault. -/
def prefetchEffect (s : State) (n : RafterId) (f : Frame) (sag : BitVec 4) (next : Byte) : State :=
  issue s n 1 true noFire (fun p x =>
    let j := { jobOf x .prefetch (noStreamOps sag) .pass 0 with next := next }
    if (agOf x sag).space ≠ .unified ∨ !agOk x sag (agAddr x sag) 1 then boundFault s n
    else
      let y := advanced x
      streamWork (setRafter s p (placed { y with jobs := y.jobs ++ [j] } 1
        { flight f .accept false with place := j.place })) n)

/-- PREFETCH_FORWARD (R308): the oldest request goes to the tier controller, with a hold of 1 (R432). -/
def prefetchForward (s : State) (n : RafterId) : State :=
  match physOf s n with
  | none => s
  | some p =>
    let x := rafterAt s p
    if s.saf.resetReq.isSome then s
    else match x.prefetch with
      | [] => s
      | (e, next, _) :: rest =>
        streamWork (requestPromotions false 1 (min (next.toNat + 1) (2 ^ 19 - e.toNat)) e.toNat
          (setRafter s p { x with prefetch := rest })) n

/-! ### Scratchpad ports (R166) -/

/-- The requests of one port by age, then by unit. -/
def spBefore (a b : SpReq) : Bool := decide (a.age < b.age) || (a.age == b.age && decide (a.unit < b.unit))

def insertReq (r : SpReq) : List SpReq → List SpReq
  | [] => [r]
  | q :: qs => if spBefore r q then r :: q :: qs else q :: insertReq r qs

/-- A granted read: its unit is given the 512 bytes as they stand. -/
def spRead (x : Rafter) (r : SpReq) : Rafter :=
  { x with spOut := tablePut [] x.spOut r.unit.toNat (memRead x.scratch r.addr.toNat 512) }

/-- A granted write. -/
def spWrite (x : Rafter) (r : SpReq) : Rafter :=
  { x with scratch := memWrite x.scratch r.addr.toNat (r.data.take 512) }

/-- SCRATCHPAD_PORT_GRANT: one cycle of both ports. Of the requests presented to each, the four first in age and unit
order are granted; the others stay presented. The reads return what stood before the writes (R35). -/
def scratchpadPortGrant (s : State) (n : RafterId) (reads writes : List SpReq) : State :=
  if !working s then s
  else updRafter s n (fun x =>
    let rds := (x.spReads ++ reads).foldl (fun l r => insertReq r l) []
    let wrs := (x.spWrites ++ writes).foldl (fun l r => insertReq r l) []
    (wrs.take 4).foldl spWrite ((rds.take 4).foldl spRead { x with
      spReads := rds.drop 4
      spWrites := wrs.drop 4
      progress := if rds.isEmpty && wrs.isEmpty then x.progress else 0 }))

/-! ### Meanings -/

/-- LOAD (R291). -/
def execLoad (r : RafterId) (f : Frame) (o : StreamOps) (hw : UnitCheck) (s : State) : Out State :=
  .next (streamEffect s r f .load o hw)

/-- STORE (R237, R291). -/
def execStore (r : RafterId) (f : Frame) (o : StreamOps) (hw : UnitCheck) (s : State) : Out State :=
  .next (streamEffect s r f .store o hw)

/-- XLOAD (R296). -/
def execXload (r : RafterId) (f : Frame) (o : StreamOps) (hw : UnitCheck) (s : State) : Out State :=
  .next (streamEffect s r f .xload o hw)

/-- GATHER (R240, R295). -/
def execGather (r : RafterId) (f : Frame) (o : StreamOps) (hw : UnitCheck) (s : State) : Out State :=
  .next (streamEffect s r f .gather o hw)

/-- SCATTER (R240, R295). -/
def execScatter (r : RafterId) (f : Frame) (o : StreamOps) (hw : UnitCheck) (s : State) : Out State :=
  .next (streamEffect s r f .scatter o hw)

/-- SCATTER.ADD (R240). -/
def execScatterAdd (r : RafterId) (f : Frame) (o : StreamOps) (hw : UnitCheck) (s : State) : Out State :=
  .next (streamEffect s r f .scatterAdd o hw)

/-- PREFETCH (R241, R308). -/
def execPrefetch (r : RafterId) (f : Frame) (sag : BitVec 4) (next : Byte) (s : State) : Out State :=
  .next (prefetchEffect s r f sag next)

/-- The prefetch queue forwards a request (R308). -/
def execPrefetchForward (r : RafterId) (s : State) : Out State := .next (prefetchForward s r)

/-- A cycle of the scratchpad's ports (R35, R166). -/
def execScratchpadPortGrant (r : RafterId) (reads writes : List SpReq) (s : State) : Out State :=
  .next (scratchpadPortGrant s r reads writes)

end Sys2Proof.Machine
end

