-- ==== Sys2Proof/Machine/Mesh.lean ====
section
/-!
DEFINITION. The mesh (R325 to R342): routers, planes and replay; loft banks (R36 to R39); read and write
messages and their replies.
-/

namespace Sys2Proof.Machine

/-! ### Geometry (Table 1.2, R326, R329) -/

def pLocal : Nat := 0
def pNorth : Nat := 1
def pEast : Nat := 2
def pSouth : Nat := 3
def pWest : Nat := 4

def colOf (rt : Nat) : Nat := rt % 4
def rowOfRouter (rt : Nat) : Nat := rt / 4

/-- The router that a port faces; none on a die edge. -/
def neighbour (rt port : Nat) : Option Nat :=
  if port = 1 then (if rt / 4 = 0 then none else some (rt - 4))
  else if port = 2 then (if rt % 4 = 3 then none else some (rt + 1))
  else if port = 3 then (if rt / 4 = 3 then none else some (rt + 4))
  else if port = 4 then (if rt % 4 = 0 then none else some (rt - 1))
  else none

/-- The port of the neighbour that faces back. -/
def opposite (port : Nat) : Nat :=
  if port = 1 then 3 else if port = 2 then 4 else if port = 3 then 1 else if port = 4 then 2 else 0

/-- An eave unit or a bridge node is attached (Table 1.2). -/
def attached (rt port : Nat) : Bool :=
  (port == 1 && decide (rt < 4)) || (port == 3 && decide (12 ≤ rt) && decide (rt < 16)) ||
  (port == 4 && rt == 4) || (port == 2 && rt == 11)

/-! ### The sideband (Tables 9.4 to 9.6) and parity -/

def flitField (fl : Flit) (lo n : Nat) : Nat := field fl.side.toNat lo n
def flitDx (fl : Flit) : Nat := flitField fl 0 2
def flitDy (fl : Flit) : Nat := flitField fl 2 2
def flitDport (fl : Flit) : Nat := flitField fl 4 3
def flitType (fl : Flit) : Nat := flitField fl 7 4
def flitLast (fl : Flit) : Bool := fl.side.getLsbD 11
def flitSrc (fl : Flit) : UnitId := BitVec.ofNat 16 (flitField fl 20 16)
def flitTag (fl : Flit) : W16 := BitVec.ofNat 16 (flitField fl 36 16)

/-- The parity bits of a payload and a sideband, even (R326, log 97). -/
def flitParity (data : BitVec 1024) (side : BitVec 128) : BitVec 20 :=
  (List.range 16).foldl (fun p k => if parityOf 64 (field data.toNat (64 * k) 64) then p ||| (1#20 <<< k) else p)
    ((List.range 4).foldl (fun p k => if parityOf 32 (field side.toNat (32 * k) 32) then p ||| (1#20 <<< (16 + k)) else p) 0)

/-- The checks that fail where the parity bits `err` arrive inverted: those and what the sender got wrong. -/
def flitOk (fl : Flit) (err : BitVec 20) : Bool := (flitParity fl.data fl.side ^^^ fl.par ^^^ err) == 0

/-! ### Planes (Table 9.7) -/

/-- The exclusive or of consecutive three-bit fields of a number, from a bit on. -/
def foldBits (x lo : Nat) : Nat → Nat
  | 0 => 0
  | n + 1 => field x lo 3 ^^^ foldBits x (lo + 3) n

/-- What a message carries that selects its plane. -/
inductive PlaneKey where
  | address (a : Nat)
  | route (src : UnitId) (oq : Nat)
  | spar (i : BitVec 12)
  | register (off : BitVec 26)
deriving DecidableEq, Repr

def meshPlane : PlaneKey → BitVec 3
  | .address a => BitVec.ofNat 3 (foldBits a 7 4)
  | .route src oq => BitVec.ofNat 3 (foldBits src.toNat 0 2 ^^^ oq)
  | .spar i => BitVec.ofNat 3 (foldBits i.toNat 0 4)
  | .register off => BitVec.ofNat 3 (foldBits off.toNat 7 2)

/-- A flit on the plane of its message, for the messages whose MSG the manual lays out. -/
def planeRight (fl : Flit) (plane : Nat) : Bool :=
  flitType fl != 7 || (meshPlane (.spar (BitVec.ofNat 12 (flitField fl 68 12)))).toNat == plane

/-! ### Bridge nodes (R26, R27) -/

/-- The bridge node that a transfer to or from an endpoint in a column crosses: that of the column, or the remaining one; none
where both are excluded. -/
def bridgeOf (s : State) (col : Nat) : Option Nat :=
  let own := col / 2
  if !s.hst.bridgeFence.getLsbD own then some own
  else if !s.hst.bridgeFence.getLsbD (1 - own) then some (1 - own) else none

/-- The bridge node that is attached to a port of a router. -/
def bridgeAt (rt port : Nat) : Option Nat := if rt = 4 ∧ port = 4 then some 0 else if rt = 11 ∧ port = 2 then some 1 else none

/-- A flit that a unit at this port may send: one that enters from a bridge node, or leaves for one, crosses that of its
compute-die endpoint's column. -/
def bridgeRight (s : State) (rt port : Nat) (fl : Flit) : Bool :=
  (match bridgeAt rt port with
    | some b => bridgeOf s (flitDx fl) == some b
    | none => true) &&
  (match bridgeAt (flitDx fl + 4 * flitDy fl) (flitDport fl) with
    | some b => (bridgeAt rt port).isSome || bridgeOf s (colOf rt) == some b
    | none => true)

/-- The output that a flit takes (R329). -/
def routeFlit (rt : Nat) (fl : Flit) : Nat :=
  let dx := flitDx fl
  let dy := flitDy fl
  if colOf rt < dx then pEast
  else if dx < colOf rt then pWest
  else if rowOfRouter rt < dy then pSouth
  else if dy < rowOfRouter rt then pNorth
  else flitDport fl

/-- A header that no flit of the device carries (R339). -/
def misrouted (rt : Nat) (fl : Flit) : Bool :=
  decide (11 ≤ flitType fl) || decide (5 ≤ flitDport fl) ||
  (colOf rt == flitDx fl && rowOfRouter rt == flitDy fl && flitDport fl != 0 &&
    (neighbour rt (flitDport fl)).isNone && !attached rt (flitDport fl))

/-! ### Buffers (R331, R337) -/

def bufKey (port plane : Nat) : Nat := 8 * port + plane

def bufOf (t : Truss) (k : Nat) : List Flit := tableGet [] t.bufs k
def setBuf (t : Truss) (k : Nat) (l : List Flit) : Truss := { t with bufs := tablePut [] t.bufs k l }

def meshInfoWord (code port : Nat) (inp : Bool) (plane : Nat) : W32 :=
  BitVec.ofNat 32 (code * 2 ^ 24 + port * 16 + b2n inp * 8 + plane)

def noteMesh (t : Truss) (code : Nat) (w : W32) : Truss :=
  { t with meshFault := t.meshFault ||| BitVec.ofNat 32 (2 ^ (code - 0x70)), meshInfo := w }

/-- A lasting router fault. -/
def meshLasting (s : State) (rt code : Nat) (w : W32) : State :=
  lastingResponse (updTruss s rt (fun t => noteMesh t code w)) (routerUnit rt) (BitVec.ofNat 8 code) w 0 0

/-- A flit written to the buffer of its output: the largest occupancy is kept, and one above 48 is a
budget fault (R337). -/
def pushFlit (s : State) (rt plane : Nat) (fl : Flit) : State :=
  let out := routeFlit rt fl
  let k := bufKey out plane
  let t := trussAt s rt
  let l := bufOf t k ++ [fl]
  let mark := t.backlog.modify out (fun b => if b.toNat < l.length then BitVec.ofNat 6 (min 63 l.length) else b)
  let s1 := setTruss s rt { setBuf t k l with backlog := mark }
  if l.length = 49 then meshLasting s1 rt 0x72 (meshInfoWord 0x72 out false plane) else s1

/-- The output has a free place. -/
def roomFor (s : State) (rt plane : Nat) (fl : Flit) : Bool :=
  decide ((bufOf (trussAt s rt) (bufKey (routeFlit rt fl) plane)).length < 64)

/-- A flit that an input has accepted: misrouted, or written to its output's buffer. -/
def acceptFlit (s : State) (rt port plane : Nat) (fl : Flit) : State :=
  if misrouted rt fl then meshLasting s rt 0x71 (meshInfoWord 0x71 port true plane)
  else pushFlit s rt plane fl

/-! ### Messages at an exit (R325, R327) -/

/-- The OP of a spar operation (Table 9.6). -/
def sparOpOf (n : Nat) : SparOp :=
  match n with
  | 0 => .waitGe | 1 => .waitEq | 2 => .waitDec | 3 => .signalAdd | 4 => .signalSet | 5 => .arrive | 6 => .arriveW
  | 7 => .read | _ => .other

/-- A spar operation as its flit carries it (Table 9.6). -/
def sparOfFlit (fl : Flit) : SparMsg :=
  { src := flitSrc fl, tag := flitTag fl, op := sparOpOf (flitField fl 64 4), index := BitVec.ofNat 12 (flitField fl 68 12)
    t := BitVec.ofNat 16 (flitField fl 80 16), v := BitVec.ofNat 32 (flitField fl 96 32) }

/-- Control messages are single flits. -/
def controlFlit (fl : Flit) : Bool := [3, 5, 6, 7, 8].contains (flitType fl)

def sameMessage (a b : Flit) : Bool := flitType a == flitType b && flitSrc a == flitSrc b && flitTag a == flitTag b

/-- A flit delivered to the unit at an exit: with the last one its message is there; a spar operation goes to the truss's
table (log 110). -/
def deliverFlit (rt port : Nat) (s : State) (fl : Flit) : State :=
  updTruss s rt (fun t =>
    let open' := tableGet [] t.rx port
    let all := if controlFlit fl then [fl] else open'.filter (sameMessage fl) ++ [fl]
    if controlFlit fl || flitLast fl then
      let t1 := { t with got := (port, all) :: t.got
                         rx := tablePut [] t.rx port (if controlFlit fl then open' else open'.filter (fun f => !sameMessage fl f)) }
      if port = 0 ∧ flitType fl = 7 then { t1 with inputs := t1.inputs.modify 6 (· ++ [sparOfFlit fl]) } else t1
    else { t with rx := tablePut [] t.rx port (open' ++ [fl]) })

/-! ### Arrival and replay (R331, R334, R337, R338) -/

/-- Where a flit is sent from: the router whose state holds the sender's queue and replay buffer, the replay buffer's key,
and whether the queue is an injection queue. -/
structure Sender where
  router : Nat
  key : Nat
  inj : Bool
deriving DecidableEq, Repr

/-- The sender of what arrives at an input, or, at an exit, at the unit there. -/
def senderOf (rt port plane : Nat) (out : Bool) : Option Sender :=
  if out then (if port = 0 ∨ attached rt port then some { router := rt, key := bufKey port plane, inj := false } else none)
  else if port = 0 ∨ attached rt port then some { router := rt, key := bufKey port plane, inj := true }
  else (neighbour rt port).map (fun nb => { router := nb, key := bufKey (opposite port) plane, inj := false })

def sendQueue (s : State) (w : Sender) : List Flit :=
  let t := trussAt s w.router
  if w.inj then tableGet [] t.inject w.key else bufOf t w.key

def setSendQueue (s : State) (w : Sender) (l : List Flit) : State :=
  updTruss s w.router (fun t => if w.inj then { t with inject := tablePut [] t.inject w.key l } else setBuf t w.key l)

def replayKey (w : Sender) : Nat := if w.inj then 40 + w.key else w.key

def replayOf (s : State) (w : Sender) : Replay := tableGet Replay.reset (trussAt s w.router).replay (replayKey w)

def setReplay (s : State) (w : Sender) (r : Replay) : State :=
  updTruss s w.router (fun t => { t with replay := tablePut Replay.reset t.replay (replayKey w) r })

/-- A flit leaves an output; the router counts it (Table 17.2). -/
def countSent (s : State) (w : Sender) : State :=
  if w.inj then s else updTruss s w.router (fun t => hitTruss t (0x120 + w.key / 8) 1)

/-- What the receiver does with a flit that passes. -/
def receive (s : State) (rt port plane : Nat) (out : Bool) (fl : Flit) : State :=
  if out then deliverFlit rt port s fl else acceptFlit s rt port plane fl

/-- The receiver can take the flit: at an exit always, at an input where its output has a place. -/
def canTake (s : State) (rt plane : Nat) (out : Bool) (fl : Flit) : Bool := out || misrouted rt fl || roomFor s rt plane fl

/-- The sender's next flit arrives, with `err` of its parity bits inverted. A refused flit and those sent after it stay in the
sender's replay buffer, of eight places, until they are resent; at a full buffer the input stalls. -/
def arriveNext (s : State) (rt port plane : Nat) (out : Bool) (w : Sender) (err : BitVec 20) : State :=
  let r := replayOf s w
  if r.refused then
    match sendQueue s w with
    | [] => s
    | f :: fs =>
      if 8 ≤ r.flits.length then s
      else setReplay (setSendQueue (countSent s w) w fs) w { r with flits := r.flits ++ [f] }
  else match r.flits with
    | f :: fs =>
      if !flitOk f err then setReplay s w { r with refused := true }
      else if canTake s rt plane out f then receive (setReplay s w { r with flits := fs }) rt port plane out f else s
    | [] =>
      match sendQueue s w with
      | [] => s
      | f :: fs =>
        if !flitOk f err then setReplay (setSendQueue (countSent s w) w fs) w { refused := true, flits := [f] }
        else if canTake s rt plane out f then receive (setSendQueue (countSent s w) w fs) rt port plane out f else s

/-- The source in a truss of a flit: a position, the loft (6) or the spar table (7), whose replies name the truss. -/
def sourceOf (s : State) (fl : Flit) : Nat :=
  if unitKind (flitSrc fl) = 0 then
    match physOf s (unitInst (flitSrc fl)) with
    | some p => p % 6
    | none => 6
  else if flitType fl = 8 then 7 else 6

/-- The truss's interface takes a flit from its next source in round-robin order into the plane's injection queue (R331). -/
def collect (plane : Nat) (t : Truss) : Truss :=
  let last := tableGet 7 t.turn plane
  match ((List.range 8).map (fun k => (last + 1 + k) % 8)).find? (fun i => !(tableGet [] t.outbound (8 * i + plane)).isEmpty) with
  | none => t
  | some i =>
    match tableGet [] t.outbound (8 * i + plane) with
    | [] => t
    | f :: fs => { t with outbound := tablePut [] t.outbound (8 * i + plane) fs, turn := tablePut 7 t.turn plane i
                          inject := tablePut [] t.inject (bufKey 0 plane) (tableGet [] t.inject (bufKey 0 plane) ++ [f]) }

/-- System traffic (R334): requests, writes and register accesses of an eave unit or a bridge node (log 111). -/
def systemFlit (rt port : Nat) (fl : Flit) : Bool := attached rt port && [0, 2, 9, 0xA].contains (flitType fl)

/-- Admissions of system flits that still fall in the window of 64 cycles. -/
def recentSys (s : State) (rt : Nat) : List Nat :=
  (trussAt s rt).sysTimes.filter (fun d => decide ((s.now - d) * (aclkMHz s.pwr.aclk * (16 - s.pwr.skip.toNat)) < 64 * 1600))

/-- The regulator at the injection port admits the flit; while no program is loaded no grant is in force (log 111). -/
def admits (s : State) (rt port : Nat) (fl : Flit) : Bool :=
  !systemFlit rt port fl || !s.prog.loaded || decide ((recentSys s rt).length < (trussAt s rt).sysGrant.toNat)

/-- A flit joins what its unit has to inject: by the truss's interface, or by the eave unit or bridge node attached. -/
def offerFlit (s : State) (rt port plane : Nat) (fl : Flit) : State :=
  if port = 0 then
    let i := 8 * sourceOf s fl + plane
    updTruss s rt (fun t => collect plane { t with outbound := tablePut [] t.outbound i (tableGet [] t.outbound i ++ [fl]) })
  else
    let times := recentSys s rt
    updTruss s rt (fun t => { t with
      inject := tablePut [] t.inject (bufKey port plane) (tableGet [] t.inject (bufKey port plane) ++ [fl])
      sysTimes := if systemFlit rt port fl then s.now :: times else t.sysTimes })

/-- A flit that a unit at this port may inject now; during a warm reset nothing enters the mesh (R325). -/
def injectable (s : State) (rt port plane : Nat) (fl : Flit) : Bool :=
  s.saf.resetReq.isNone && planeRight fl plane && bridgeRight s rt port fl && admits s rt port fl

/-- MESH_FLIT_ARRIVAL (R331, R334, R338, R339). At an injection port `fl` is a new flit of the unit there; on a link and at an
exit it is the flit that the sender sends next. -/
def meshArrival (s : State) (rt port plane : Nat) (out : Bool) (fl : Flit) (err : BitVec 20) : State :=
  match senderOf rt port plane out with
  | none => s
  | some w =>
    if w.inj then
      (if injectable s rt port plane fl then arriveNext (offerFlit s rt port plane fl) rt port plane out w err else s)
    else
      let r := replayOf s w
      let next := if r.refused then (sendQueue s w).head? else (r.flits ++ sendQueue s w).head?
      if next = some fl then arriveNext s rt port plane out w err else s

/-- Flits of a replay buffer received in order, as far as there is room. -/
def resendAll (rt port plane : Nat) (out : Bool) (w : Sender) : List Flit → State → State
  | [], s => setReplay s w Replay.reset
  | f :: fs, s =>
    if canTake s rt plane out f then resendAll rt port plane out w fs (receive s rt port plane out f)
    else setReplay s w { refused := false, flits := f :: fs }

/-- MESH_FLIT_REPLAY (R338): the refused flit and every flit after it are resent in order; a second failure is lasting. -/
def meshReplay (s : State) (rt port plane : Nat) (out ok : Bool) : State :=
  match senderOf rt port plane out with
  | none => s
  | some w =>
    let r := replayOf s w
    if !r.refused then s
    else
      let info := meshInfoWord 0x70 port (!out) plane
      if ok && !exhausted s (routerUnit rt) then
        resendAll rt port plane out w r.flits
          (updTruss (transientFault s (routerUnit rt) 0x70 info 0 0) rt
            (fun t => hitTruss { t with meshReplay := satInc16 t.meshReplay } 0x128 1))
      else meshLasting s rt 0x70 info

/-- An exit sends its next flit. -/
def exitOnce (rt port plane : Nat) (s : State) : State :=
  match senderOf rt port plane true with
  | some w => if (replayOf s w).refused then s else arriveNext s rt port plane true w 0
  | none => s

/-- A unit injects its next flit; during a warm reset nothing enters. -/
def injectOnce (rt port plane : Nat) (s : State) : State :=
  match senderOf rt port plane false with
  | some w =>
    if !w.inj ∨ s.saf.resetReq.isSome ∨ (replayOf s w).refused then s
    else arriveNext (if port = 0 then updTruss s rt (collect plane) else s) rt port plane false w 0
  | none => s

/-- What a cycle moves without a command at one port and plane. -/
def moveOnce (rt port plane : Nat) (s : State) : State := injectOnce rt port plane (exitOnce rt port plane s)

/-- A router has flits at an exit or to inject. -/
def meshBusy (t : Truss) : Bool := !t.bufs.isEmpty || !t.inject.isEmpty || !t.outbound.isEmpty || !t.replay.isEmpty

def moveRouter (s : State) (rt : Nat) : State :=
  if meshBusy (trussAt s rt) then
    (List.range 5).foldl (fun a port => (List.range 8).foldl (fun b plane => moveOnce rt port plane b) a) s
  else s

/-- `cycles` ACLK cycles of the exits and injection queues (R331). -/
def drainMesh (s : State) (cycles : Nat) : State :=
  if s.trs.all (fun t => !meshBusy t) then s
  else (List.range cycles).foldl (fun a _ => (List.range 16).foldl moveRouter a) s

/-! ### Loft banks (R36 to R39) -/

def bankOf (a : BitVec 25) : Nat := a.toNat / 512 % 16

/-- The port belongs to an enabled position, or to the mesh. -/
def portRequests (s : State) (t : Nat) (port : Nat) : Bool :=
  decide (port < 14) && (decide (12 ≤ port) || s.enabled.getLsbD (6 * t + port / 2))

/-- Requests added to those that a bank holds: one for each port. -/
def addReqs (l : List LoftReq) : List LoftReq → List LoftReq
  | [] => l
  | r :: rs => addReqs (if l.any (fun q => q.port = r.port) then l else l ++ [r]) rs

/-- The first request at or after the pointer in the sequence of R38. -/
def pickReq (ptr : Nat) (l : List LoftReq) : Option LoftReq :=
  ((List.range 14).map (fun k => (ptr + k) % 14)).findSome? (fun p => l.find? (fun r => r.port.toNat == p))

/-- LOFT_BANK_GRANT. -/
def loftBankGrant (s : State) (t bank : Nat) (reqs : List LoftReq) : State :=
  if !working s then s
  else
    let ok := reqs.filter (fun r => bankOf r.addr == bank && portRequests s t r.port.toNat &&
      decide (r.addr.toNat / 512 * 512 + 512 ≤ 0x1800000) && (r.write == (r.port.toNat % 2 == 1)))
    updTruss s t (fun x =>
      let l := addReqs (tableGet [] x.bankWait bank) ok
      match pickReq (x.bankPtr.getD bank 0).toNat l with
      | none => x
      | some r =>
        let base := r.addr.toNat / 512 * 512
        let y := hitTruss (hitTruss { x with
          bankWait := tablePut [] x.bankWait bank (l.erase r)
          bankPtr := x.bankPtr.set bank (BitVec.ofNat 4 ((r.port.toNat + 1) % 14)) } 0x101 1) 0x100 (l.length - 1)
        if r.write then { y with loft := memWrite y.loft base (r.data.take 512) }
        else { y with loftOut := tablePut [] y.loftOut r.port.toNat (memRead y.loft base 512) })

/-! ### Read and write messages (R81, R242, R328, R342, R409, R411) -/

/-- The work generation of a unit that can hold work across a boundary. -/
def unitWgen (s : State) (u : UnitId) : Byte :=
  if unitKind u = 0 then (rafterOf s (unitInst u)).wgen
  else if unitKind u = 2 then (eaveAt s (unitInst u)).wgen
  else if unitKind u = 4 then (s.lnk.ports.getD (unitInst u) LnkPort.reset).wgen
  else if unitKind u = 6 then (cxlAt s (unitInst u)).wgen
  else 0

/-- Units that carry a work generation (Table 2.4). -/
def hasWgen (u : UnitId) : Bool := unitKind u == 0 || unitKind u == 2 || unitKind u == 4 || unitKind u == 6

/-- A reply that a unit takes: of the current reset generation, and of its own work generation, which its
tags carry. -/
def replyCurrent (s : State) (u : UnitId) (tag : W16) (rgen : Byte) : Bool :=
  rgen == s.crs.resetGen &&
  (!hasWgen u || tag.toNat / 256 == (unitWgen s u).toNat)

/-- A loft that a message names: the sender's own, or by truss. -/
def loftOf (s : State) (src : UnitId) (sp : Space) (a : Nat) : Option (Nat × Nat) :=
  match sp with
  | .loft => if a < 0x20000000 ∧ a % 2 ^ 25 < 0x1800000 then some (a / 2 ^ 25, a % 2 ^ 25) else none
  | .ownLoft =>
    if unitKind src = 0 ∧ a < 0x1800000 then (physOf s (unitInst src)).map (fun p => (p / 6, a)) else none
  | _ => none

/-- A single check as the checks of a unit of work. -/
def asUnitCheck : HwCheck → UnitCheck
  | .pass => .pass
  | .once c i => .once c i
  | .twice c i => .twice c i

/-- The retry of a rafter's stream data (R250); other units answer for their own checks. -/
def readCheck (s : State) (src : UnitId) (sp : Space) (addr : Nat) (hw : HwCheck) : State × Bool :=
  if unitKind src = 0 then
    rafterCheck s (unitInst src) { place := streamPlace (rafterOf s (unitInst src)), space := sp, addr := addr, row := false }
      [0x62] (asUnitCheck hw)
  else (s, true)

def whoOf (src : UnitId) : Option RafterId := if unitKind src = 0 then some (unitInst src) else none

/-- READ_REQUEST: translated and served; the response is then on its way. -/
def readRequest (s : State) (src : UnitId) (tag : W16) (sp : Space) (addr : W64) (len : W16) (hw : HwCheck) :
    State :=
  if s.saf.resetReq.isSome then s
  else
    let c := readCheck s src sp addr.toNat hw
    if !c.2 then c.1
    else
      let pend := fun (s1 : State) =>
        { s1 with reads := (s1.reads.filter (fun r => !(r.src == src && r.tag == tag))) ++
            [{ src := src, tag := tag, rgen := s1.crs.resetGen, addr := addr.toNat, left := len.toNat
               got := [] }] }
      match sp with
      | .unified =>
        match unifiedRead c.1 (whoOf src) addr.toNat len.toNat with
        | (s1, .ok _) => pend s1
        | (s1, f) => fetchFault s1 src f
      | _ => if (loftOf s src sp addr.toNat).isSome then pend c.1 else c.1

/-- READ_RESPONSE: each flit is placed by its address; a late reply is discarded. -/
def readResponse (s : State) (dst : UnitId) (tag : W16) (rgen : Byte) (addr : W64) (data : List Byte) :
    State :=
  if !replyCurrent s dst tag rgen then s
  else
    { s with reads := s.reads.map (fun r =>
        if r.src == dst && r.tag == tag && r.rgen == rgen && decide (r.addr ≤ addr.toNat) &&
            decide (data.length ≤ r.left) then
          { r with got := memWrite r.got addr.toNat data, left := r.left - data.length }
        else r) }

/-- WRITE: applied to the target memory; its acknowledgement is then on its way. -/
def writeMessage (s : State) (src : UnitId) (tag : W16) (sp : Space) (addr : W64) (data : List Byte) :
    State :=
  if s.saf.resetReq.isSome then s
  else
    let ack := fun (s1 : State) =>
      { s1 with acks := s1.acks ++ [{ dst := src, tag := tag, rgen := s1.crs.resetGen }] }
    match sp with
    | .unified =>
      match unifiedWrite s (whoOf src) addr.toNat data with
      | (s1, true) => ack s1
      | (s1, false) => accessFault s1 src addr.toNat 3
    | _ =>
      match loftOf s src sp addr.toNat with
      | some (t, a) =>
        ack (updTruss s t (fun x => { x with loft := memWrite x.loft a (data.take (0x1800000 - a)) }))
      | none => s

/-- WRITE_ACKNOWLEDGEMENT (R242): a current one counts against the transfer of its tag; a late one is
discarded. -/
def writeAck (s : State) (dst : UnitId) (tag : W16) (rgen : Byte) : State :=
  if !replyCurrent s dst tag rgen then s
  else match s.acks.find? (fun a => a.dst == dst && a.tag == tag && a.rgen == rgen) with
    | none => s
    | some a =>
      let s1 := { s with acks := s.acks.erase a }
      if unitKind dst = 0 then
        updRafter s1 (unitInst dst) (fun x =>
          setUnitQ { x with progress := 0 } 1 ((unitQ x 1).map (fun e =>
            if e.done && e.tag == tag && e.acks != 0 then { e with acks := e.acks - 1 } else e)))
      else s1

/-! ### Meanings -/

/-- A flit at a router's input or at an exit (R331). -/
def execMeshFlitArrival (rt : BitVec 4) (side : MeshSide) (plane : BitVec 3) (fl : Flit) (err : BitVec 20) (s : State) :
    Out State := .next (meshArrival s rt.toNat side.port.toNat plane.toNat side.out fl err)

/-- A replay (R338). -/
def execMeshFlitReplay (rt : BitVec 4) (side : MeshSide) (plane : BitVec 3) (ok : Bool) (s : State) : Out State :=
  .next (meshReplay s rt.toNat side.port.toNat plane.toNat side.out ok)

/-- A loft bank's grant (R38). -/
def execLoftBankGrant (t bank : BitVec 4) (reqs : List LoftReq) (s : State) : Out State :=
  .next (loftBankGrant s t.toNat bank.toNat reqs)

/-- A read request is served (R409, R411). -/
def execReadRequest (src : UnitId) (tag : W16) (space : Space) (addr : W64) (len : W16) (hw : HwCheck)
    (s : State) : Out State := .next (readRequest s src tag space addr len hw)

/-- A read response arrives (R328). -/
def execReadResponse (dst : UnitId) (tag : W16) (rgen : Byte) (addr : W64) (data : List Byte) (s : State) :
    Out State := .next (readResponse s dst tag rgen addr data)

/-- A write is applied (R411). -/
def execWrite (src : UnitId) (tag : W16) (space : Space) (addr : W64) (data : List Byte) (s : State) :
    Out State := .next (writeMessage s src tag space addr data)

/-- A write acknowledgement arrives (R242). -/
def execWriteAcknowledgement (dst : UnitId) (tag : W16) (rgen : Byte) (s : State) : Out State :=
  .next (writeAck s dst tag rgen)

end Sys2Proof.Machine
end

