-- ==== Sys2Proof/Machine/Clock.lean ====
section
/-!
DEFINITION. The passing of time: the time base of R42, the clocks that the counters count (R573), and one 10 ns
tick with no command waiting.
-/

namespace Sys2Proof.Machine

/-- ACLK progress in `n` ticks, in 1,600ths of a cycle: skipped pulses are no cycles (R560). -/
def clockRate (s : State) : Nat := aclkMHz s.pwr.aclk * (16 - s.pwr.skip.toNat)

/-- Whole ACLK cycles that the next `n` ticks complete. -/
def cyclesIn (s : State) (n : Nat) : Nat :=
  (s.cnt.cycles + n * clockRate s) / 1600 - s.cnt.cycles / 1600

/-- A position is in use: its counters count (R572). -/
def inUse (s : State) (p : Nat) : Bool := s.enabled.getLsbD p && !s.fenced.getLsbD p

/-- Time passes: ACLK for rafters and trusses, 1.2 GHz for eave units, RCLK for the ports (R573). -/
def elapse (s : State) (n : Nat) : State :=
  let c := cyclesIn s n
  { s with
    now := s.now + n
    cnt := { s.cnt with cycles := s.cnt.cycles + n * clockRate s }
    rft := s.rft.mapIdx (fun p x => if inUse s p then hitRafter x 1 c else x)
    trs := s.trs.map (fun t => hitTruss t 1 c)
    eav := s.eav.map (fun e => { e with ctr := hitCtrs e.ctr 1 (12 * n) })
    lnk := { s.lnk with ports := s.lnk.ports.map (fun p => { p with ctr := hitCtrs p.ctr 1 (10 * n) }) }
    cxl := s.cxl.map (fun p => { p with ctr := hitCtrs p.ctr 1 (10 * n) })
    hst := { s.hst with ctr := hitCtrs s.hst.ctr 1 (10 * n) } }

/-- A rafter in a tick in which it does nothing: its progress counter rises, and stays at 0 while it holds or
idles (R128); cycles of a stall are counted (R573). -/
def tickRafter (c : Nat) (x : Rafter) : Rafter :=
  if x.hold || x.idle then x
  else
    let y := { x with progress := if x.progress = 0xFFFFF then x.progress else x.progress + 1 }
    if x.seq.stall = 0 then y else hitRafter y (0x10 + x.seq.stall.toNat) c

/-- One tick with no command waiting (log 2). -/
def tick (s : State) : State :=
  let c := cyclesIn s 1
  let s1 := drainMesh (elapse s 1) c
  if working s1 then { s1 with rft := s1.rft.mapIdx (fun p x => if inUse s1 p then tickRafter c x else x) } else s1

end Sys2Proof.Machine
end

