-- ==== Sys2Proof/Machine/Instances.lean ====
section
/-!
DEFINITION. Ixerta connections (R439 to R446) and the ends of collective instances (R246, R464, R465).
-/

namespace Sys2Proof.Machine

/-! ### Ports and connections -/

def portAt (s : State) (l : Nat) : LnkPort := s.lnk.ports.getD l LnkPort.reset
def setPort (s : State) (l : Nat) (p : LnkPort) : State :=
  { s with lnk := { s.lnk with ports := s.lnk.ports.set l p } }
def updPort (s : State) (l : Nat) (f : LnkPort → LnkPort) : State := setPort s l (f (portAt s l))

def connAt (p : LnkPort) (r : BitVec 10) : Conn := tableGet Conn.reset p.conns r.toNat
def setConn (p : LnkPort) (r : BitVec 10) (c : Conn) : LnkPort :=
  { p with conns := tablePut Conn.reset p.conns r.toNat c }
def updConn (s : State) (l : Nat) (r : BitVec 10) (f : Conn → Conn) : State :=
  updPort s l (fun p => setConn p r (f (connAt p r)))

/-- The peer-table entry of a rank is valid, and its family is the port's (R448). -/
def peerValid (p : LnkPort) (r : BitVec 10) : Bool :=
  let e := tableGet 0 p.peers r.toNat
  e.getLsbD 0 && (e.getLsbD 1 != p.fam)

/-- Connections of the port may be open (R441). -/
def portReady (s : State) (l : Nat) : Bool :=
  (portAt s l).up && (portAt s l).serve && s.lnk.udp != 0 && !s.saf.hwSafe

def openConnCount (p : LnkPort) : Nat := (p.conns.filter (fun e => e.2.isOpen)).length

/-- The largest payload that a port sends (R440). -/
def maxPayload (p : LnkPort) : Nat :=
  min 8192 (p.mtu.toNat - (if p.fam then 64 else 84)) / 512 * 512

def tNak : BitVec 4 := 2
def tOpen : BitVec 4 := 3

/-- A message with the device's own generations (R446). -/
def ownMsg (s : State) (l : Nat) (typ : BitVec 4) (dst : BitVec 10) (xfer : W16) (course : W32)
    (offset : Nat) (last : Bool) (payload : List Byte) : LinkMsg :=
  { typ := typ, dst := dst, last := last, retx := false, psn := 0, apsn := 0, xfer := xfer
    rgen := s.crs.resetGen, wgen := (portAt s l).wgen, course := course, offset := BitVec.ofNat 48 offset
    payload := payload, sentAt := 0 }

/-- Messages that carry data, flags, digests, aborts or requests: kept until acknowledged, at most 512 on a
connection (R443). -/
def transmit (s : State) (l : Nat) (m : LinkMsg) : State :=
  let c := connAt (portAt s l) m.dst
  if c.isOpen && decide (c.kept.length < 512) then
    let m' := { m with psn := c.tx, apsn := c.rx, sentAt := s.now }
    let s1 := updConn s l m.dst (fun c => { c with tx := c.tx + 1, kept := c.kept ++ [m'], sinceAck := 0
                                                   ackFrom := none })
    hitPort { s1 with lnk := { s1.lnk with out := (BitVec.ofNat 3 l, m') :: s1.lnk.out } } l 0x300
      m.payload.length
  else updConn s l m.dst (fun c => { c with waiting := c.waiting ++ [m] })

/-- Acknowledgements and openings: sent at once and not kept. -/
def sendControl (s : State) (l : Nat) (m : LinkMsg) : State :=
  let c := connAt (portAt s l) m.dst
  let m' := { m with psn := c.tx, apsn := c.rx, sentAt := s.now }
  let s1 := updConn s l m.dst (fun c => { c with sinceAck := 0, ackFrom := none })
  { s1 with lnk := { s1.lnk with out := (BitVec.ofNat 3 l, m') :: s1.lnk.out } }

/-- Waiting messages go out while there is room. -/
def pumpConn (s : State) (l : Nat) (r : BitVec 10) : State :=
  let c := connAt (portAt s l) r
  if c.isOpen then
    let room := 512 - c.kept.length
    (c.waiting.take room).foldl (fun a m => transmit a l m)
      (updConn s l r (fun c => { c with waiting := c.waiting.drop room }))
  else s

/-- APSN acknowledges every earlier PSN (R442). -/
def acknowledge (s : State) (l : Nat) (r : BitVec 10) (apsn : W32) : State :=
  let c := connAt (portAt s l) r
  let kept := c.kept.dropWhile (fun m => decide (0 < (apsn - m.psn).toNat ∧ (apsn - m.psn).toNat < 2 ^ 31))
  if kept.length < c.kept.length then
    pumpConn (updConn s l r (fun c => { c with kept := kept, timeouts := 0 })) l r
  else s

/-- Unacknowledged messages resent, from the one named (R443). -/
def resendFrom (s : State) (l : Nat) (r : BitVec 10) (psn : W32) : State :=
  let c := connAt (portAt s l) r
  let named := fun (m : LinkMsg) => decide ((m.psn - psn).toNat < 2 ^ 31)
  let again := (c.kept.filter named).map (fun m => { m with retx := true, apsn := c.rx, sentAt := s.now })
  let s1 := updPort s l (fun p => setConn { p with resent := satAdd16 p.resent again.length } r
    { c with kept := c.kept.filter (fun m => !named m) ++ again })
  let s2 := hitPort (hitPort s1 l 0x302 again.length) l 0x300 (again.foldl (fun a m => a + m.payload.length) 0)
  { s2 with lnk := { s2.lnk with out := (again.reverse.map (fun m => (BitVec.ofNat 3 l, m))) ++ s2.lnk.out } }

/-- A connection opens, or opens again: PSNs start at 0 and what was unacknowledged is sent from PSN 0 in
its order (R441). -/
def openConn (s : State) (l : Nat) (r : BitVec 10) : State :=
  let c := connAt (portAt s l) r
  let again := c.kept.map (fun m => { m with retx := true })
  let s1 := updPort s l (fun p => setConn { p with resent := satAdd16 p.resent again.length } r
    { Conn.reset with isOpen := true, waiting := again ++ c.waiting })
  pumpConn s1 l r

/-- A connection closes; what it has not had acknowledged waits for the next opening. -/
def closeConn (s : State) (l : Nat) (r : BitVec 10) : State :=
  updConn s l r (fun c => { Conn.reset with
    waiting := c.kept.map (fun m => { m with retx := true }) ++ c.waiting })

/-- The lower rank sends OPEN on a connection that may open and is not open (R441). -/
def sendOpen (s : State) (l : Nat) (r : BitVec 10) : State :=
  if portReady s l && peerValid (portAt s l) r && !(connAt (portAt s l) r).isOpen &&
      decide (s.lnk.rank < r) then
    sendControl s l (ownMsg s l tOpen r 0 0 0 false [])
  else s

/-- OPEN on every connection of a port that calls for it. -/
def openPort (s : State) (l : Nat) : State :=
  (portAt s l).peers.foldl (fun a e => sendOpen a l (BitVec.ofNat 10 e.1)) s

/-- Every connection of a port closes. -/
def closePort (s : State) (l : Nat) : State :=
  (portAt s l).conns.foldl (fun a e => closeConn a l (BitVec.ofNat 10 e.1)) s

/-! ### Descriptors (Table 13.5) and groups (R447) -/

def cdOf (s : State) (d : Nat) : BitVec 512 := tableGet 0 s.lnk.cdesc d
def cdOp (d : BitVec 512) : Nat := field d.toNat 0 8
def cdAxis (d : BitVec 512) : Nat := field d.toNat 8 8
def cdStype (d : BitVec 512) : ElemType := (typeOfCode (field d.toNat 16 4)).getD .fp32
def cdDtype (d : BitVec 512) : ElemType := (typeOfCode (field d.toNat 20 4)).getD .fp32
def cdComp (d : BitVec 512) : Nat := field d.toNat 24 8
def cdPort (d : BitVec 512) (l : Nat) : Bool := d.getLsbD (32 + l)
def cdK (d : BitVec 512) : Nat := field d.toNat 48 16
def cdCount (d : BitVec 512) : Nat := field d.toNat 64 32
def cdShard0 (d : BitVec 512) : Nat := field d.toNat 96 32
def cdArrive (d : BitVec 512) : Bool := cdShard0 d != 0xFFFFFFFF
def cdResid (d : BitVec 512) : Nat := field d.toNat 128 64
def cdStatus (d : BitVec 512) : Nat := field d.toNat 192 64

def axisSize (x : Lnk) (a : Nat) : Nat :=
  match a with
  | 0 => x.nd.toNat
  | 1 => x.nt.toNat
  | 2 => x.np.toNat
  | 3 => x.ns.toNat
  | _ => x.nd.toNat * x.nt.toNat * x.np.toNat * x.ns.toNat

/-- The distance in rank between neighbours along an axis. -/
def axisStride (x : Lnk) (a : Nat) : Nat :=
  match a with
  | 0 => x.nt.toNat * x.np.toNat * x.ns.toNat
  | 1 => x.np.toNat * x.ns.toNat
  | 2 => x.ns.toNat
  | _ => 1

/-- This device's place in its group along an axis. -/
def axisPlace (x : Lnk) (a : Nat) : Nat := x.rank.toNat / axisStride x a % axisSize x a

/-- The members of the group along an axis, in ring order. -/
def axisGroup (x : Lnk) (a : Nat) : List (BitVec 10) :=
  (List.range (axisSize x a)).map (fun k =>
    BitVec.ofNat 10 (x.rank.toNat + k * axisStride x a - axisPlace x a * axisStride x a))

/-- In-service ports among those of a descriptor, ascending (R453). -/
def portsFor (s : State) (d : BitVec 512) : List Nat :=
  (List.range 8).filter (fun l => cdPort d l && (portAt s l).serve)

/-! ### The ends of instances (R246, R464 to R466) -/

def instIs (a b : Inst) : Bool := a.xfer == b.xfer && a.course == b.course

def setInst (s : State) (i : Inst) : State :=
  { s with lnk := { s.lnk with insts := s.lnk.insts.map (fun j => if instIs j i then i else j) } }

/-- An instance leaves the device: no later message of it is taken. -/
def dropInst (s : State) (i : Inst) : State :=
  { s with lnk := { s.lnk with
      insts := s.lnk.insts.filter (fun j => !instIs j i)
      ended := s.lnk.ended ++ [(i.xfer, i.course)]
      ports := s.lnk.ports.map (fun p => { p with
        staged := p.staged.filter (fun m => !(m.2.xfer == i.xfer && m.2.course == i.course)) }) } }

/-- The link unit that speaks for an instance: its first in-service port. -/
def instUnit (s : State) (d : BitVec 512) : UnitId := linkUnit ((portsFor s d).headD 0)

/-- One addition to RSPAR: at once before the close point of the instance's course, held after it (R246). -/
def addRspar (s : State) (d : BitVec 512) (rspar : SparId) (course : W32) : State :=
  if rspar = 0xFFFF then s
  else if BitVec.ofNat 32 s.crs.course.toNat = course ∧ !s.crs.closed then
    signalDone s (instUnit s d) 0 rspar
  else { s with lnk := { s.lnk with held := s.lnk.held ++ [rspar] } }

/-- The status word, then the addition (R464). -/
def putStatus (s : State) (d : BitVec 512) (rspar : SparId) (course : W32) (status : Nat) : State :=
  let w := unifiedWrite s none (cdStatus d) (bytesOf 4 status)
  let s1 := if w.2 then w.1 else accessFault w.1 (instUnit s d) (cdStatus d) 3
  addRspar s1 d rspar course

/-- Instances that still have something to do after their status word: elements to pass on. -/
def instOver (i : Inst) : Bool := i.done && i.relay == 0

/-- An instance has completed. -/
def completeInst (s : State) (i : Inst) : State :=
  let j := { i with done := true }
  let s0 := hitPort s ((portsFor s i.cdesc).headD 0) 0x310 1
  let s1 := match i.agree with
    | some _ => s0
    | none => putStatus s0 i.cdesc i.rspar i.course 0
  match i.agree with
  | some _ => setInst s1 j
  | none => if instOver j then dropInst s1 j else setInst s1 j

/-- Update requests of an instance, one less to accept (R461). -/
def acceptInst (s : State) (xfer : W16) (course : W32) : State :=
  match s.lnk.insts.find? (fun i => i.xfer == xfer && i.course == course) with
  | none => s
  | some i =>
    let j := { i with accepts := i.accepts - 1 }
    if j.accepts = 0 ∧ i.accepts = 1 ∧ !i.done then completeInst s j else setInst s j

/-- RSPAR additions held back, applied in the order of the deliveries (R246). -/
def releaseHeld (s : State) : State :=
  s.lnk.held.foldl (fun a p => signalDone a (linkUnit 0) 0 p) { s with lnk := { s.lnk with held := [] } }

/-- LNK_FAULT and LNK_FAULT_INFO (R477). -/
def noteLink (s : State) (l : Nat) (code : Nat) (rank : BitVec 10) : State :=
  updPort s l (fun p => { p with
    fault := p.fault ||| BitVec.ofNat 32 (2 ^ (code - 0xB0))
    info := BitVec.ofNat 32 (code * 2 ^ 24 + rank.toNat) })

/-- The retried checks of a link engine: LDATA, LRES and, in a digest pass, LDIG (Table 13.9). -/
def linkCheck (s : State) (l : Nat) (rank : BitVec 10) (codes : List Byte) (hw : HwCheck) : State × Bool :=
  let run := fun (code : Byte) (again : Bool) =>
    if !codes.contains code then (s, true)
    else
      let s1 := noteLink s l code.toNat rank
      retried s1 (linkUnit l) code (portAt s1 l).info 0 0 again
  match hw with
  | .pass => (s, true)
  | .once code _ => run code false
  | .twice code _ => run code true

end Sys2Proof.Machine
end

