-- ==== Sys2Proof/Machine/Program.lean ====
section
/-!
DEFINITION. Update programs (R374 to R378): program words, the operations, the four sections, and the
conversion of a master to its ring entry.
-/

namespace Sys2Proof.Machine

/-! ### Program words (Table 11.4) -/

structure OpWord where
  kind : Nat
  d : Nat
  a : Nat
  b : Nat
  c : Nat
deriving DecidableEq, Repr

def opWord (w : W32) : OpWord :=
  { kind := field w.toNat 28 4, d := field w.toNat 22 6, a := field w.toNat 16 6
    b := field w.toNat 10 6, c := field w.toNat 4 6 }

/-- A program by sections, with MOM, FACT and PREREAD. -/
structure UProg where
  scal : List OpWord
  pre : List OpWord
  mid : List OpWord
  main : List OpWord
  mom : Nat
  fact : Bool
deriving DecidableEq, Repr

/-- The program in a slot's words, the header first. -/
def programOf (ws : List W32) : UProg :=
  let h := (ws.headD 0).toNat
  let ops := (ws.drop 2).map opWord
  let n1 := field h 0 6
  let n2 := field h 6 6
  let n3 := field h 12 6
  { scal := ops.take n1, pre := (ops.drop n1).take n2, mid := (ops.drop (n1 + n2)).take n3
    main := (ops.drop (n1 + n2 + n3)).take (field h 18 6), mom := field h 24 2, fact := field h 26 1 = 1 }

/-! ### Operations (Table 11.5, R375) -/

def divOf (a b : W32) : W32 :=
  match fv a, fv b with
  | .nan, _ => qnan
  | _, .nan => qnan
  | .inf _, .inf _ => qnan
  | .inf x, .fin y _ _ => f32 (.inf (x != y))
  | .fin x _ _, .inf y => f32 (.fin (x != y) 0 0)
  | .fin x m e, .fin y n k =>
    if n = 0 then (if m = 0 then qnan else f32 (.inf (x != y)))
    else if m = 0 then f32 (.fin (x != y) 0 0)
    else f32 (divV (.fin x m e) (.fin y n k))

def signOf (a : W32) : W32 :=
  if ltV (.fin false 0 0) (fv a) then 0x3F800000
  else if ltV (fv a) (.fin false 0 0) then 0xBF800000 else a

def opValue (k : Nat) (a b c : W32) : W32 :=
  if k = 0 then (laneOp .add false a b c).1
  else if k = 1 then (laneOp .sub false a b c).1
  else if k = 2 then (laneOp .mul false a b c).1
  else if k = 3 then (laneOp .fma false a b c).1
  else if k = 4 then divOf a b
  else if k = 5 then (sqrtOf (fv a)).1
  else if k = 6 then (rsqrtOf (fv a)).1
  else if k = 7 then pickV true a b
  else if k = 8 then pickV false a b
  else if k = 9 then (laneOp .abs false a b c).1
  else if k = 10 then signOf a
  else if k = 11 then (laneOp .sel false a b c).1
  else if k = 12 then (exp2Of (fv a)).1
  else if k = 13 then (log2Of (fv a)).1
  else a

/-! ### Operands (Table 11.6) -/

/-- Values by operand code, latest first. -/
abbrev UEnv := List (Nat × W32)

def ueGet (e : UEnv) (c : Nat) : W32 :=
  match e.find? (fun p => p.1 = c) with
  | some p => p.2
  | none => 0

def ueOp (e : UEnv) (o : OpWord) : W32 := opValue o.kind (ueGet e o.a) (ueGet e o.b) (ueGet e o.c)

/-- Operations whose destinations are plain values. -/
def ueRun (e : UEnv) (ops : List OpWord) : UEnv := ops.foldl (fun v o => (o.d, ueOp v o) :: v) e

def natF (n : Nat) : W32 := f32 (.fin false n 0)

/-- Temporaries T0 to T15 of an environment. -/
def ueTemps (e : UEnv) : UEnv := e.filter (fun p => decide (4 ≤ p.1) && decide (p.1 ≤ 0x13))

/-! ### PRE (R376, R377) -/

structure PreAcc where
  sum0 : Table W32
  sum1 : Table W32
  rows : Table W32
  cols : Table W32
deriving DecidableEq, Repr

/-- An operation's result added to an accumulator: an exact product with one rounding for MUL. -/
def accAdd (e : UEnv) (o : OpWord) (old : W32) : W32 :=
  if o.kind = 2 then (fusedOp (ueGet e o.a) (ueGet e o.b) old).1 else (addR old (ueOp e o)).1

def bump (t : Table W32) (k : Nat) (f : W32 → W32) : Table W32 := tablePut 0 t k (f (tableGet 0 t k))

/-- The operations of PRE at element `i` of a shard with `cols` columns. -/
def preElem (cols i : Nat) : List OpWord → UEnv → PreAcc → PreAcc
  | [], _, a => a
  | o :: os, e, a =>
    if o.d = 0x14 then preElem cols i os e { a with sum0 := bump a.sum0 (i % 512) (accAdd e o) }
    else if o.d = 0x15 then preElem cols i os e { a with sum1 := bump a.sum1 (i % 512) (accAdd e o) }
    else if o.d = 0x16 then preElem cols i os e { a with rows := bump a.rows (i / cols) (accAdd e o) }
    else if o.d = 0x17 then preElem cols i os e { a with cols := bump a.cols (i % cols) (accAdd e o) }
    else preElem cols i os ((o.d, ueOp e o) :: e) a

/-- 512 partials folded for w = 256 to 1 (R377). -/
def fold512 (t : Table W32) : W32 :=
  ((foldLanes false 9 256 ((List.range 512).map (fun l => tableGet 0 t l))).1).getD 0 0

/-! ### A shard's update -/

/-- What an update works on: the gradient, the live master and moments, the shard's shape, and the scalars
of its group. -/
structure UIn where
  g : List W32
  w : List W32
  m1 : List W32
  m2 : List W32
  rows : Nat
  cols : Nat
  scalars : UEnv
deriving DecidableEq, Repr

/-- New master, moments and factors. -/
structure UOut where
  w : List W32
  m1 : List W32
  m2 : List W32
deriving DecidableEq, Repr

/-- The values that an element brings to PRE and MAIN. -/
def elemEnv (u : UIn) (i : Nat) : UEnv :=
  [(0, u.g.getD i 0), (1, u.w.getD i 0), (2, u.m1.getD i 0), (3, u.m2.getD i 0)]

/-- One factor through MID: the new value of FA. -/
def midFactor (ops : List OpWord) (scal : UEnv) (factor sum : W32) (n : Nat) : W32 :=
  ueGet (ueRun ([(0x16, factor), (0x17, sum), (0x18, natF n)] ++ scal) ops) 0x16

/-- The four sections in order (R376). -/
def runProgram (p : UProg) (u : UIn) : UOut :=
  let scal := ueRun u.scalars p.scal
  let base := ueTemps scal ++ u.scalars
  let n := u.rows * u.cols
  let acc := (List.range n).foldl (fun a i => preElem u.cols i p.pre (elemEnv u i ++ base) a)
    { sum0 := [], sum1 := [], rows := [], cols := [] }
  let sums : UEnv := [(0x14, fold512 acc.sum0), (0x15, fold512 acc.sum1)]
  let rowF := (List.range u.rows).map (fun r =>
    midFactor p.mid (sums ++ base) (u.m2.getD r 0) (tableGet 0 acc.rows r) u.cols)
  let colF := (List.range u.cols).map (fun c =>
    midFactor p.mid (sums ++ base) (u.m2.getD (u.rows + c) 0) (tableGet 0 acc.cols c) u.rows)
  let rtot := rowF.foldl (fun a f => (addR a f).1) 0
  let fixed : UEnv := if p.fact then (0x19, rtot) :: (sums ++ base)
    else ueTemps (ueRun (sums ++ base) p.mid) ++ sums ++ base
  let es := (List.range n).map (fun i =>
    let fac : UEnv := if p.fact then [(0x16, rowF.getD (i / u.cols) 0), (0x17, colF.getD (i % u.cols) 0)]
      else []
    ueRun (elemEnv u i ++ fac ++ fixed) p.main)
  { w := es.map (fun e => ueGet e 1)
    m1 := if p.mom = 1 ∨ p.mom = 2 then es.map (fun e => ueGet e 2) else u.m1
    m2 := if p.fact then rowF ++ colF else if 2 ≤ p.mom then es.map (fun e => ueGet e 3) else u.m2 }

/-! ### The menu (chapter 11) -/

/-- An operation word from its fields. -/
def mkOp (k d a b c : Nat) : W32 :=
  BitVec.ofNat 32 (k * 2 ^ 28 + d * 2 ^ 22 + a * 2 ^ 16 + b * 2 ^ 10 + c * 2 ^ 4)

def mkHeader32 (ns np nm nn mom : Nat) (fact preread : Bool) : W32 :=
  BitVec.ofNat 32 (ns + np * 2 ^ 6 + nm * 2 ^ 12 + nn * 2 ^ 18 + mom * 2 ^ 24 + b2n fact * 2 ^ 26 +
    b2n preread * 2 ^ 27)

def oG : Nat := 0
def oW : Nat := 1
def oM1 : Nat := 2
def oM2 : Nat := 3
def oT (k : Nat) : Nat := 4 + k
def oSum0 : Nat := 0x14
def oSum1 : Nat := 0x15
def oFa : Nat := 0x16
def oFb : Nat := 0x17
def oFn : Nat := 0x18
def oRtot : Nat := 0x19
def oLr : Nat := 0x1A
def oWd : Nat := 0x1B
def oClip : Nat := 0x1C
def oTstep : Nat := 0x1D
def oOne : Nat := 0x1E
def oZero : Nat := 0x1F
def oS (k : Nat) : Nat := 0x20 + k

def mADD (d a b : Nat) : W32 := mkOp 0 d a b 0
def mSUB (d a b : Nat) : W32 := mkOp 1 d a b 0
def mMUL (d a b : Nat) : W32 := mkOp 2 d a b 0
def mFMA (d a b c : Nat) : W32 := mkOp 3 d a b c
def mDIV (d a b : Nat) : W32 := mkOp 4 d a b 0
def mSQRT (d a : Nat) : W32 := mkOp 5 d a 0 0
def mRSQRT (d a : Nat) : W32 := mkOp 6 d a 0 0
def mSIGN (d a : Nat) : W32 := mkOp 0xA d a 0 0
def mSEL (d a b c : Nat) : W32 := mkOp 0xB d a b c
def mEXP2 (d a : Nat) : W32 := mkOp 0xC d a 0 0
def mLOG2 (d a : Nat) : W32 := mkOp 0xD d a 0 0

/-- The bias corrections that Adam, AdamW and LAMB share; `top` is divided by 1 − β1^t. -/
def adamScal (top : Nat) : List W32 :=
  [mLOG2 (oT 0) (oS 0), mMUL (oT 0) (oT 0) oTstep, mEXP2 (oT 0) (oT 0), mSUB (oT 0) oOne (oT 0),
   mDIV (oT 0) top (oT 0), mLOG2 (oT 1) (oS 1), mMUL (oT 1) (oT 1) oTstep, mEXP2 (oT 1) (oT 1),
   mSUB (oT 1) oOne (oT 1), mRSQRT (oT 1) (oT 1), mSUB (oT 2) oOne (oS 0), mSUB (oT 3) oOne (oS 1)]

/-- The moment updates that Adam and AdamW share, to the scaled step T9. -/
def adamMain : List W32 :=
  [mMUL oM1 oM1 (oS 0), mFMA oM1 (oT 8) (oT 2) oM1, mMUL (oT 9) (oT 8) (oT 8), mMUL oM2 oM2 (oS 1),
   mFMA oM2 (oT 9) (oT 3) oM2, mSQRT (oT 9) oM2, mFMA (oT 9) (oT 9) (oT 1) (oS 2), mDIV (oT 9) oM1 (oT 9),
   mMUL (oT 9) (oT 9) (oT 0)]

def menuSgd : List W32 :=
  [mkHeader32 1 0 0 3 0 false false, 0x53500000, mSUB (oT 0) oZero oLr, mMUL (oT 8) oG oClip,
   mFMA (oT 8) oW oWd (oT 8), mFMA oW (oT 8) (oT 0) oW]

def menuMomentum : List W32 :=
  [mkHeader32 2 0 0 5 1 false false, 0x53500001, mSUB (oT 0) oZero oLr, mSUB (oT 1) oOne (oS 1),
   mMUL (oT 8) oG oClip, mFMA (oT 8) oW oWd (oT 8), mMUL (oT 9) (oT 8) (oT 1), mFMA oM1 oM1 (oS 0) (oT 9),
   mFMA oW oM1 (oT 0) oW]

def menuNesterov : List W32 :=
  [mkHeader32 1 0 0 5 1 false false, 0x53500002, mSUB (oT 0) oZero oLr, mMUL (oT 8) oG oClip,
   mFMA (oT 8) oW oWd (oT 8), mFMA oM1 oM1 (oS 0) (oT 8), mFMA (oT 9) oM1 (oS 0) (oT 8),
   mFMA oW (oT 9) (oT 0) oW]

def menuAdam : List W32 :=
  [mkHeader32 12 0 0 12 2 false false, 0x53500003] ++ adamScal oLr ++
  [mMUL (oT 8) oG oClip, mFMA (oT 8) oW oWd (oT 8)] ++ adamMain ++ [mSUB oW oW (oT 9)]

def menuAdamW : List W32 :=
  [mkHeader32 14 0 0 12 2 false false, 0x53500004] ++ adamScal oLr ++
  [mMUL (oT 4) oLr oWd, mSUB (oT 4) oOne (oT 4), mMUL (oT 8) oG oClip] ++ adamMain ++
  [mMUL oW oW (oT 4), mSUB oW oW (oT 9)]

def menuLion : List W32 :=
  [mkHeader32 5 0 0 8 1 false false, 0x53500005, mSUB (oT 0) oOne (oS 0), mSUB (oT 1) oOne (oS 1),
   mMUL (oT 2) oLr oWd, mSUB (oT 2) oOne (oT 2), mSUB (oT 3) oZero oLr, mMUL (oT 8) oG oClip,
   mMUL (oT 9) oM1 (oS 0), mFMA (oT 9) (oT 8) (oT 0) (oT 9), mSIGN (oT 9) (oT 9), mMUL oW oW (oT 2),
   mFMA oW (oT 9) (oT 3) oW, mMUL oM1 oM1 (oS 1), mFMA oM1 (oT 8) (oT 1) oM1]

def menuLamb : List W32 :=
  [mkHeader32 12 13 7 12 2 false true, 0x53500006] ++ adamScal oOne ++
  [mMUL (oT 8) oG oClip, mMUL (oT 9) oM1 (oS 0), mFMA (oT 9) (oT 8) (oT 2) (oT 9),
   mMUL (oT 10) (oT 8) (oT 8), mMUL (oT 11) oM2 (oS 1), mFMA (oT 11) (oT 10) (oT 3) (oT 11),
   mSQRT (oT 11) (oT 11), mFMA (oT 11) (oT 11) (oT 1) (oS 2), mMUL (oT 9) (oT 9) (oT 0),
   mDIV (oT 9) (oT 9) (oT 11), mFMA (oT 9) oW oWd (oT 9), mMUL oSum1 (oT 9) (oT 9), mMUL oSum0 oW oW] ++
  [mSQRT (oT 4) oSum0, mSQRT (oT 5) oSum1, mDIV (oT 6) (oT 4) (oT 5), mMUL (oT 7) (oT 4) (oT 5),
   mSEL (oT 6) (oT 6) oOne (oT 7), mMUL (oT 6) (oT 6) oLr, mSUB (oT 6) oZero (oT 6)] ++
  [mMUL (oT 8) oG oClip, mMUL oM1 oM1 (oS 0), mFMA oM1 (oT 8) (oT 2) oM1, mMUL (oT 10) (oT 8) (oT 8),
   mMUL oM2 oM2 (oS 1), mFMA oM2 (oT 10) (oT 3) oM2, mSQRT (oT 11) oM2,
   mFMA (oT 11) (oT 11) (oT 1) (oS 2), mMUL (oT 9) oM1 (oT 0), mDIV (oT 9) (oT 9) (oT 11),
   mFMA (oT 9) oW oWd (oT 9), mFMA oW (oT 9) (oT 6) oW]

def menuAdafactor : List W32 :=
  [mkHeader32 4 4 3 7 3 true false, 0x53500007, mSUB (oT 0) oOne (oS 0), mMUL (oT 1) oLr oWd,
   mSUB (oT 1) oOne (oT 1), mSUB (oT 2) oZero oLr, mMUL (oT 8) oG oClip, mFMA (oT 9) (oT 8) (oT 8) (oS 1),
   mADD oFa (oT 9) oZero, mADD oFb (oT 9) oZero, mDIV (oT 10) oFb oFn, mMUL (oT 11) oFa (oS 0),
   mFMA oFa (oT 10) (oT 0) (oT 11), mMUL (oT 8) oG oClip, mMUL (oT 9) oFa oFb, mDIV (oT 9) (oT 9) oRtot,
   mRSQRT (oT 9) (oT 9), mMUL (oT 9) (oT 8) (oT 9), mMUL oW oW (oT 1), mFMA oW (oT 9) (oT 2) oW]

def menuPrecond : List W32 :=
  [mkHeader32 4 0 0 5 1 false false, 0x53500008, mSUB (oT 0) oOne (oS 0), mMUL (oT 1) oLr oWd,
   mSUB (oT 1) oOne (oT 1), mSUB (oT 2) oZero oLr, mMUL (oT 8) oG oClip, mMUL oM1 oM1 (oS 0),
   mFMA oM1 (oT 8) (oT 0) oM1, mMUL oW oW (oT 1), mFMA oW oM1 (oT 2) oW]

/-- The menu, slots 0x00 to 0x08. -/
def menu : List (List W32) :=
  [menuSgd, menuMomentum, menuNesterov, menuAdam, menuAdamW, menuLion, menuLamb, menuAdafactor, menuPrecond]

/-! ### Ring entries (R378) -/

/-- A ring entry's bytes: packed elements, then MX scales. -/
def entryBytes (fmt : ElemType) (vals : List W32) : List Byte :=
  if isMx fmt then
    let q := quantAll fmt 0 (vals.length / 32 + 1) vals
    q.1 ++ q.2.1
  else match fmtOf fmt with
    | some f => vals.flatMap (fun w => bytesOf (elemBits fmt / 8)
        (encodeF f .nearest true (fv w)).bits)
    | none => []

/-- Bytes of a ring entry of `n` elements. -/
def entrySize (fmt : ElemType) (n : Nat) : Nat :=
  if isMx fmt then mxBytes fmt n + (n + 31) / 32 else denseBytes fmt n

end Sys2Proof.Machine
end

