-- ==== Sys2Proof/Machine/Update.lean ====
section
/-!
DEFINITION. Parameter update (chapter 11): UPD, the receiving units and the stages of Table 11.8, version
guards (R362 to R365), global agreement, and the outcome of the step (R392).
-/

namespace Sys2Proof.Machine

/-! ### Tables (Tables 11.1 and 11.2) -/

/-- Bytes of the unified range as a unit reads them now (Table 12.4); zeros where no read is served. -/
def peekPieces (s : State) : List (BitVec 19 × Nat × Nat) → List Byte
  | [] => []
  | (x, off, n) :: ps =>
    (match (unitReadExtent s x (tierEntry s x) off n).2 with
     | .ok bs => bs
     | _ => List.replicate n 0) ++ peekPieces s ps

/-- What a table holds; the access itself is made by `unitRead` where a unit reads it. -/
def peekUnified (s : State) (a n : Nat) : List Byte := peekPieces s (piecesOf a n)

def imgAddr (s : State) (f : Image → Option W64) : Option Nat :=
  match s.prog.img with
  | some i => (f i).map (·.toNat)
  | none => none

/-- A shard-table entry as a number of 64 bytes. -/
def shardEntry (s : State) (k : BitVec 20) : Nat :=
  match imgAddr s (·.stab) with
  | some a => natOfBytes (peekUnified s (a + 64 * k.toNat) 64)
  | none => 0

def shGroup (e : Nat) : BitVec 8 := BitVec.ofNat 8 e
def shEave (e : Nat) : Nat := field e 8 3
def shMirror (e : Nat) : Bool := field e 16 8 = 1
def shRows (e : Nat) : Nat := field e 32 32
def shCols (e : Nat) : Nat := field e 64 32
def shElems (e : Nat) : Nat := shRows e * shCols e
def shMaster (e : Nat) : Nat := field e 128 64
def shM1 (e : Nat) : Nat := field e 192 64
def shM2 (e : Nat) : Nat := field e 256 64
def shSlot (e : Nat) : Nat := field e 320 64
def shRing0 (e : Nat) : Nat := field e 384 64
def shGrad (e : Nat) : Nat := field e 448 64

/-- A group-table entry as a number of 128 bytes. -/
def groupEntry (s : State) (g : BitVec 8) : Nat :=
  match imgAddr s (·.gtab) with
  | some a => natOfBytes (peekUnified s (a + 128 * g.toNat) 128)
  | none => 0

def gProg (e : Nat) : Nat := field e 0 8
def gFmt (e : Nat) : ElemType := (typeOfCode (field e 8 8)).getD .fp32
def gAgree (e : Nat) : Bool := field e 16 1 = 1
def gArrive (e : Nat) : Bool := field e 17 1 = 1
def gCtl (e : Nat) : Bool := field e 18 1 = 1
def gPart (e : Nat) : Bool := field e 19 1 = 1
def gFirst (e : Nat) : Nat := field e 32 32
def gCount (e : Nat) : Nat := field e 64 32
def gWord (e k : Nat) : W32 := BitVec.ofNat 32 (field e (8 * k) 32)
def gNormMax (e : Nat) : W32 := gWord e 0x34
def gAbsMax (e : Nat) : W32 := gWord e 0x38
def gCtlSpar (e : Nat) : SparId := BitVec.ofNat 16 (field e 0x1E0 16)
def gPartSpar (e : Nat) : SparId := BitVec.ofNat 16 (field e 0x1F0 16)
def gCtlAddr (e : Nat) : Nat := field e 0x200 64
def gPartAddr (e : Nat) : Nat := field e 0x240 64
def gAgDesc (e : Nat) : BitVec 10 := BitVec.ofNat 10 (field e 0x280 16)
def gAgTo (e : Nat) : Nat := field e 0x290 16

def groupAt (s : State) (g : BitVec 8) : Group := tableGet Group.reset s.upd.groups g.toNat
def setGroup (s : State) (g : BitVec 8) (v : Group) : State :=
  { s with upd := { s.upd with groups := tablePut Group.reset s.upd.groups g.toNat v } }
def updGroup (s : State) (g : BitVec 8) (f : Group → Group) : State := setGroup s g (f (groupAt s g))

/-- The shards of a group. -/
def groupShards (s : State) (g : BitVec 8) : List (BitVec 20) :=
  let e := groupEntry s g
  (List.range (gCount e)).map (fun k => BitVec.ofNat 20 (gFirst e + k))

/-- Groups in use. -/
def usedGroups (s : State) : List (BitVec 8) :=
  ((List.range 256).map (BitVec.ofNat 8)).filter (fun g => gCount (groupEntry s g) ≠ 0)

/-! ### Receiving units (Table 11.3) -/

def uuAt (s : State) (k : Nat) : UpdUnit := s.upd.units.getD k UpdUnit.reset
def setUu (s : State) (k : Nat) (v : UpdUnit) : State :=
  { s with upd := { s.upd with units := s.upd.units.set k v } }
def updUu (s : State) (k : Nat) (f : UpdUnit → UpdUnit) : State := setUu s k (f (uuAt s k))

/-- The unit for an owned shard of eave `e`. -/
def receiver (s : State) (e : Nat) : Nat := if s.upd.nmuFence.getLsbD e then 8 + e else e

/-- The unit that serves a shard (Table 11.3): a link engine for a mirror and under update on arrival. -/
def shardUnit (s : State) (q : BitVec 20) : UnitId :=
  let e := shardEntry s q
  updUnitId (if shMirror e || gArrive (groupEntry s (shGroup e)) then 8 + shEave e else receiver s (shEave e))

/-! ### Waits (R362, R363, R388) -/

/-- Waits of a unit that are registered and unsatisfied in one table. -/
def openWaits (u : UpdUnit) (t : Nat) : Nat :=
  (u.waits.filter (fun w => !w.done && sparTruss w.spar == t)).length

/-- A wait registered for a unit, at most one for each spar in a course and two for each table. -/
def registerUnitWait (s : State) (k : Nat) (spar : SparId) (need : W32) (guard : Bool) : State :=
  let u := uuAt s k
  if u.waits.any (fun w => w.spar == spar) || decide (2 ≤ openWaits u (sparTruss spar)) then s
  else
    let s1 := setUu s k { u with waits := u.waits ++
      [{ spar := spar, need := need, done := false, since := s.now, guard := guard }] }
    sendSpar s1 (updUnitId k) 0 spar .waitGe 0 need

/-- The guard wait of a request, registered on its receipt (R362). -/
def registerGuard (k : Nat) (s : State) (r : UpdReq) : State :=
  let g := groupAt s r.group
  if g.guarded && !r.served then registerUnitWait s k g.guard (BitVec.ofNat 32 g.gn.toNat) true else s

/-- The waits that a unit's requests call for, in their order of arrival: guards on receipt, of all that are not yet
accepted, and the control word's at stage 3. -/
def registerWaits (s : State) (k : Nat) : State :=
  let u := uuAt s k
  let s1 := (((u.jobs.filter (fun j => !j.accepted)).map (·.req)) ++ u.queue).foldl (registerGuard k) s
  match (uuAt s1 k).jobs with
  | [] => s1
  | j :: _ =>
    let e := groupEntry s1 j.req.group
    if gCtl e && j.stage == 2 && j.req.entry.isNone then registerUnitWait s1 k (gCtlSpar e) 1 false else s1

/-- A request received: it stands in the unit's queue, and its guard wait is registered. -/
def enqueueReq (s : State) (k : Nat) (r : UpdReq) : State :=
  registerWaits (updUu s k (fun u => { u with queue := u.queue ++ [r] })) k

/-! ### UPD (R243, R244, R247, R349) -/

/-- The tiles of a read-out in order, row-major. -/
def tileVals (x : Rafter) (vt0 : BitVec 6) (n : Nat) : List W32 :=
  (List.range n).flatMap (fun k =>
    (List.range 4096).map (fun i => tableGet 0 x.valley (4096 * ((vt0.toNat + k) % 64) + i)))

/-- The read-out of one tile by the instruction at index `i`: its dirty bit clears, and reading a clean tile is an event
(0x80). -/
def readTile (s : State) (n : RafterId) (i t : Nat) : State :=
  let x := rafterOf s n
  let s1 := updRafter s n (fun y => { y with dirty := y.dirty &&& ~~~(1#64 <<< t) })
  if x.dirty.getLsbD t then s1
  else event s1 (rafterUnit n) 0x80 (BitVec.ofNat 32 t) ((placeTag x i).zeroExtend 32)

def readTiles (s : State) (n : RafterId) (i : Nat) (vt0 : BitVec 6) (c : Nat) : State :=
  (List.range c).foldl (fun s1 k => readTile s1 n i ((vt0.toNat + k) % 64)) s

def nextTag (x : Rafter) : W16 := BitVec.ofNat 16 (x.wgen.toNat * 256 + (x.seTag.toNat + 1) % 256)

def updCodes : List Byte := [0x62, 0xE0, 0xE1, 0xE2]

/-- A tile lies among those that a UPD reads. -/
def readsTile (o : UpdOps) (c : Nat) (t : BitVec 6) : Bool :=
  decide (o.src = .valley) && decide ((t.toNat + 64 - o.vt0.toNat) % 64 < c)

/-- An entry of the tensor array's queue is a TMMV issued before the UPD whose write-back to one of its tiles has not
ended (R149). -/
def writesTile (o : UpdOps) (c : Nat) (e : InFlight) : Bool :=
  (match e.job with
   | some (.product .tmmv p _ _ _ _ _ _ _ held) => held == 0 && readsTile o c p.vt
   | _ => false) || e.old.any (fun w => readsTile o c (BitVec.ofNat 6 (w.1 / 4096)))

/-- A UPD may read its source: every earlier TMMV to its tiles has written back. -/
def mayRead (x : Rafter) (o : UpdOps) (c : Nat) : Bool := !(unitQ x 2).any (writesTile o c)

/-- A product that waits for one read-out fewer. -/
def heldLess (o : UpdOps) (c : Nat) (e : InFlight) : InFlight :=
  match e.job with
  | some (.product k p hw m n d a b z held) =>
    if readsTile o c p.vt then { e with job := some (.product k p hw m n d a b z (held - 1)) } else e
  | _ => e

/-- The elements that a UPD sends. -/
def updSource (y : Rafter) (o : UpdOps) (c : Nat) (src : Int) (n : Nat) : List W32 :=
  match o.src with
  | .valley => tileVals y o.vt0 c
  | .scratch => (List.range n).map (fun i => BitVec.ofNat 32 (memWord y.scratch (src.toNat + 4 * i) 4))
  | .hbm => []

/-- A UPD reads its source and sends its request; later TMMVs to its tiles may then begin. -/
def beginUpd (s : State) (n : RafterId) (p i : Nat) (e : InFlight) (o : UpdOps) (hw : UnitCheck) (c : Nat) (src : Int) :
    State :=
  let h := if o.src = .hbm then (s, true)
    else rafterCheck s n { workAt e.place false with addr := if o.src = .scratch then src.toNat else 0 } updCodes hw
  let y := rafterAt h.1 p
  if !h.2 then setRafter h.1 p (begun y 9 i e false)
  else
    let sh := shardEntry s o.shard
    let tag := nextTag y
    let z := begun { y with seTag := tag } 9 i { e with tag := tag } false
    let s1 := setRafter h.1 p (setUnitQ z 2 ((unitQ z 2).map (heldLess o c)))
    let s2 := if o.src = .valley then readTiles s1 n e.place o.vt0 c else s1
    let k := receiver s2 (shEave sh)
    startTensor (enqueueReq s2 k { rafter := some n, inst := none, group := o.group, shard := o.shard, src := o.src
                                   vals := updSource y o c src (shElems sh), entry := none
                                   wgen := unitWgen s2 (updUnitId k), tag := tag, served := false }) n

/-- UPDs at the front of the issue port's queue, as far as they may read. -/
def updJobs : Nat → State → RafterId → State
  | 0, s, _ => s
  | k + 1, s, n =>
    match physOf s n with
    | none => s
    | some p =>
      match nextJob (unitQ (rafterAt s p) 9) 0 with
      | some (i, e, .upd o hw c src) =>
        if working s && mayRead (rafterAt s p) o c then updJobs k (beginUpd s n p i e o hw c src) n else s
      | _ => s

def startUpds (s : State) (n : RafterId) : State := updJobs 4 s n

/-- UPD. -/
def updEffect (s : State) (n : RafterId) (f : Frame) (o : UpdOps) (hw : UnitCheck) : State :=
  issue s n 9 true noFire (fun p x =>
    let c := shapeValue x o.shp o.vtn.toNat
    let bytes := 4 * shElems (shardEntry s o.shard)
    if o.src = .valley ∧ o.vtn.toNat < c then shapeFault s n c
    else if (c = 0 ∧ (o.src = .valley ∨ o.shp ≠ .planned)) ∨ s.saf.hold then setRafter s p (placedDone x 9 f)
    else if s.upd.lstop then event (setRafter s p (placedDone x 9 f)) (rafterUnit n) 0x9C 0 0
    else if o.src = .scratch ∧ !agSpanOk x o.sag (agAddr x o.sag) (agAddr x o.sag + (bytes : Nat)) then
      boundFault s n
    else
      startUpds (setRafter s p (placed (advanced x) 9 { flight f .accept false with
        job := some (.upd o hw c (agAddr x o.sag)), place := x.seq.idx })) n)

/-- A request is accepted (R244): the rafter's UPD has finished, or one delivery of an instance (R461). -/
def acceptReq (s : State) (r : UpdReq) : State :=
  match r.rafter with
  | none =>
    match r.inst with
    | some i => acceptInst s i.1 i.2
    | none => s
  | some n => updRafter s n (fun x =>
      setUnitQ { x with progress := 0 } 9 ((unitQ x 9).map (fun e =>
        if e.kind == .accept && e.tag == r.tag then { e with done := true } else e)))

/-! ### Faults of the units (R400) -/

def noteNmu (u : UpdUnit) (code : Nat) (shard : BitVec 20) : UpdUnit :=
  { u with fault := u.fault ||| BitVec.ofNat 32 (2 ^ (code - 0x90))
           info := BitVec.ofNat 32 (code * 2 ^ 24 + shard.toNat) }

/-- A unit's hardware check: NRES and NDATA are retried, NPROG is lasting. -/
def nmuCheck (s : State) (k : Nat) (shard : BitVec 20) (hw : HwCheck) : State × Bool :=
  let run := fun (code : Byte) (again : Bool) =>
    let c := code.toNat
    if c ≠ 0x90 ∧ c ≠ 0x91 ∧ c ≠ 0x92 then (s, true)
    else
      let s1 := updUu s k (fun u => noteNmu u c shard)
      let info := (uuAt s1 k).info
      if c = 0x92 then (lastingResponse s1 (updUnitId k) code info 0 0, false)
      else
        let o := retried s1 (updUnitId k) code info 0 0 again
        if o.2 then (updUu o.1 k (fun u => if c = 0x90 then { u with retry := satInc16 u.retry }
          else { u with eccFix := satInc16 u.eccFix }), true) else o
  match hw with
  | .pass => (s, true)
  | .once code _ => run code false
  | .twice code _ => run code true

/-- A read of the unified range by a receiving unit. -/
def unitRead (s : State) (k a n : Nat) : State × Option (List Byte) :=
  match unifiedRead s none a n with
  | (s1, .ok bs) => (s1, some bs)
  | (s1, f) => (fetchFault s1 (updUnitId k) f, none)

def unitWrite (s : State) (k a : Nat) (bs : List Byte) : State × Bool :=
  match unifiedWrite s none a bs with
  | (s1, true) => (s1, true)
  | (s1, false) => (accessFault s1 (updUnitId k) a 3, false)

def wordsOf : Nat → List Byte → List W32
  | 0, _ => []
  | n + 1, bs => BitVec.ofNat 32 (natOfBytes (bs.take 4)) :: wordsOf n (bs.drop 4)

def bytesOfWords (l : List W32) : List Byte := l.flatMap (fun w => bytesOf 4 w.toNat)

/-! ### Replies (R228, R363) -/

/-- The shard whose partial an addition reports: of those in progress, the one that its tag names. -/
def tagShard (u : UpdUnit) (tag : W16) : BitVec 20 :=
  match u.jobs.find? (fun j => j.req.shard.truncate 16 == tag) with
  | some j => j.req.shard
  | none => tag.zeroExtend 20

/-- A refused addition (R228, NSPOVF of Table 11.12): resent once; a second refusal is lasting. -/
def refusedAddition (s : State) (k : Nat) (r : SparRep) : State :=
  let u := uuAt s k
  let before := u.resent.find? (fun e => e.1 == r.spar && e.2.1 == r.tag)
  let v := noteNmu u 0x94 (tagShard u r.tag)
  match before with
  | some e =>
    lastingResponse (setUu s k { v with resent := u.resent.erase e }) (updUnitId k) 0x94 v.info (r.spar.zeroExtend 32) 0
  | none =>
    if exhausted s (updUnitId k) then lastingResponse (setUu s k v) (updUnitId k) 0x94 v.info (r.spar.zeroExtend 32) 0
    else
      sendSpar (setUu s k { v with resent := u.resent ++ [(r.spar, r.tag, v.info)] }) (updUnitId k) r.tag r.spar
        .signalAdd 0 r.v

/-- One reply from a spar table at a receiving unit: a wait is satisfied, or an addition has been refused. -/
def takeUnitReply (k : Nat) (s : State) (r : SparRep) : State :=
  let u := uuAt s k
  if r.ovf then refusedAddition s k r
  else
    let held := (u.waits.filter (fun w => w.spar == r.spar && w.guard && !w.done)).foldl
      (fun a w => max a (s.now - w.since)) 0
    setUu s k { u with
      waits := u.waits.map (fun w => if w.spar == r.spar then { w with done := true } else w)
      guardMax := if u.guardMax.toNat < held then BitVec.ofNat 32 held else u.guardMax }

/-- The replies that have reached a unit. -/
def takeUnitReplies (s : State) (k : Nat) : State :=
  let mine := s.sparInbox.filter (fun r => r.dest == updUnitId k)
  let s1 := { s with sparInbox := s.sparInbox.filter (fun r => r.dest != updUnitId k) }
  registerWaits (mine.foldl (takeUnitReply k) s1) k

def waitDone (s : State) (k : Nat) (spar : SparId) : Bool :=
  (uuAt s k).waits.any (fun w => w.spar == spar && w.done)

/-- The guard of a request's group admits its ring entry (R362, R363). -/
def guardDone (s : State) (k : Nat) (r : UpdReq) : Bool :=
  !(groupAt s r.group).guarded || r.served || waitDone s k (groupAt s r.group).guard

/-- At the end of a course, the requests that its satisfied guard waits serve keep that; the waits end with it, but those
that are not satisfied (R363). -/
def endWaitsOf (s : State) (k : Nat) : State :=
  updUu s k (fun u =>
    let mark := fun (r : UpdReq) => { r with served := r.served || ((groupAt s r.group).guarded && guardDone s k r) }
    { u with queue := u.queue.map mark, jobs := u.jobs.map (fun j => { j with req := mark j.req })
             waits := u.waits.filter (fun w => !w.done) })

/-! ### Stages 1 and 2 -/

/-- Where an area lies: writable extents of the unit's stack (R605). An area of no bytes lies anywhere. -/
def areaOk (s : State) (e a n : Nat) : Bool :=
  n == 0 || decide (a + n ≤ 2 ^ 43) && (piecesOf a n).all (fun q =>
    let t := tierEntry s q.1
    entState t == stResident && entRo t == 0 && entStack t == e)

/-- Bytes of each moment array that the group's program names. -/
def momBytes (p : UProg) (e : Nat) : Nat × Nat :=
  (if p.mom = 1 ∨ p.mom = 2 then 4 * shElems e else 0,
   if p.fact then 4 * (shRows e + shCols e) else if 2 ≤ p.mom then 4 * shElems e else 0)

def progAt (s : State) (slot : Nat) : UProg :=
  programOf ((List.range 50).map (fun k => tableGet 0 s.upd.uprog (64 * slot + k)))

/-- The entry checks of R605, but for the element count. -/
def entriesOk (s : State) (k : Nat) (r : UpdReq) : Bool :=
  let e := shardEntry s r.shard
  let ge := groupEntry s r.group
  let g := groupAt s r.group
  let p := progAt s (gProg ge)
  let st := k % 8
  let n := shElems e
  shGroup e == r.group && shEave e == st &&
  areaOk s st (shMaster e) (4 * n) && areaOk s st (shMaster e + shSlot e) (4 * n) &&
  areaOk s st (shM1 e) (momBytes p e).1 && areaOk s st (shM1 e + shSlot e) (momBytes p e).1 &&
  areaOk s st (shM2 e) (momBytes p e).2 && areaOk s st (shM2 e + shSlot e) (momBytes p e).2 &&
  areaOk s st (shGrad e) (4 * n) &&
  (List.range (g.depth.toNat + 1)).all (fun i =>
    areaOk s st (shRing0 e + i * g.rstride.toNat * 2 ^ 24) (entrySize (gFmt ge) n)) &&
  (r.src != .valley || (shRows e % 64 == 0 && shCols e % 64 == 0)) &&
  (gProg ge != 8 || (shRows e % 128 == 0 && shCols e % 128 == 0))

/-- The element count delivered is the shard's (R373). -/
def countOk (s : State) (r : UpdReq) : Bool := r.src == .hbm || r.vals.length == shElems (shardEntry s r.shard)

/-- The element index of the `i`-th element of a tile read-out (R373). -/
def tileIndex (cols i : Nat) : Nat :=
  let c := cols / 64
  let k := i / 4096
  let q := i % 4096
  (64 * (k / c) + q / 64) * cols + 64 * (k % c) + q % 64

/-- The elements of a tile read-out at their element indices. -/
def untile (cols : Nat) (vals : List W32) : Table W32 :=
  (vals.mapIdx (fun i v => (i, v))).foldl (fun t e => tablePut 0 t (tileIndex cols e.1) e.2) []

def gradVals (e : Nat) (r : UpdReq) : List W32 :=
  match r.src with
  | .valley => let t := untile (shCols e) r.vals; (List.range (shElems e)).map (fun i => tableGet 0 t i)
  | _ => r.vals

/-- The squares added to 512 partials with one rounding each, and folded (R383, R377). -/
def guardSum (l : List W32) : W32 :=
  fold512 ((l.mapIdx (fun i v => (i, v))).foldl (fun t e => bump t (e.1 % 512) (fun p => (fusedOp e.2 e.2 p).1)) [])

def maxMagnitude (l : List W32) : W32 := l.foldl (fun a v => pickV false a (v &&& 0x7FFFFFFF)) 0

/-- The local condition of R383. -/
def localSkip (j : UpdJob) (ge : Nat) : Bool :=
  j.nf || j.sq == 0x7F800000 || ltV (fv (gNormMax ge)) (fv (sqrtOf (fv j.sq)).1) ||
  ltV (fv (gAbsMax ge)) (fv j.maxa)

/-- A group is skipped for the step (R385, R386, R373). -/
def skipGroup (s : State) (k : Nat) (g : BitVec 8) : State :=
  let s1 := updGroup s g (fun v => { v with st := 3 })
  event (updUu s1 k (fun u => { u with skipGroup := satInc16 u.skipGroup })) (updUnitId k) 0x99
    (g.zeroExtend 32) 0

def newJob (r : UpdReq) (stage : Nat) : UpdJob :=
  { req := r, stage := stage, nf := false, sq := 0, maxa := 0, skip := false, groupSkip := false
    accepted := false }

def addJob (s : State) (k : Nat) (j : UpdJob) : State :=
  registerWaits (updUu s k (fun u => { u with jobs := u.jobs ++ [j] })) k

def startGroup (s : State) (g : BitVec 8) : State :=
  updGroup s g (fun v => if v.st = 0 then { v with st := 1 } else v)

/-- The elements that a request has delivered, with their indices; those beyond the shard are dropped. -/
def arrivals (e : Nat) (r : UpdReq) : List (Nat × W32) :=
  (match r.src with
   | .valley => r.vals.mapIdx (fun i v => (tileIndex (shCols e) i, v))
   | .scratch => r.vals.mapIdx (fun i v => (i, v))
   | .hbm => []).filter (fun a => decide (a.1 < shElems e))

/-- Elements written one by one at their indices. -/
def putElems (k base : Nat) : List (Nat × W32) → State → State × Bool
  | [], s => (s, true)
  | (i, v) :: l, s =>
    match unitWrite s k (base + 4 * i) (bytesOf 4 v.toNat) with
    | (s1, true) => putElems k base l s1
    | r => r

/-- NCOUNT (R373, R400): an event and a skipped group, neither retried nor lasting. -/
def countFault (s : State) (k : Nat) (r : UpdReq) : State :=
  let s1 := updUu s k (fun u => noteNmu u 0x93 r.shard)
  let s2 := gutterPut s1 (gutterRec s1 (updUnitId k) .event 0x93 (uuAt s1 k).info (r.shard.zeroExtend 32) 0)
  addJob (skipGroup s2 k r.group) k { newJob r 2 with groupSkip := true }

/-- The guard pass over GRAD, and the clipping partial (R383, R387). -/
def guardPass (s : State) (k : Nat) (r : UpdReq) : State :=
  let e := shardEntry s r.shard
  let ge := groupEntry s r.group
  match unitRead s k (shGrad e) (4 * shElems e) with
  | (s1, none) => s1
  | (s1, some bs) =>
    let l := wordsOf (shElems e) bs
    let j := { newJob r 2 with nf := l.any (fun v => !isFin (fv v)), sq := guardSum l, maxa := maxMagnitude l }
    if gPart ge then
      let w := unitWrite s1 k (gPartAddr ge + 4 * (r.shard.toNat - gFirst ge)) (bytesOf 4 j.sq.toNat)
      if w.2 then addJob (sendSpar w.1 (updUnitId k) (r.shard.truncate 16) (gPartSpar ge) .signalAdd 0 1) k j else w.1
    else addJob s1 k j

/-- Stage 1 and 2 of a request that is neither a duplicate nor malformed. -/
def takeSource (s : State) (k : Nat) (r : UpdReq) : State :=
  let e := shardEntry s r.shard
  if r.src = .hbm then guardPass s k r
  else
    let w := unitWrite s k (shGrad e) (bytesOfWords (gradVals e r))
    if w.2 then guardPass w.1 k r else w.1

/-! ### Stages 3 to 5 -/

/-- The control word (R369): the scale and VETO. -/
def controlWord (bs : List Byte) : W32 × Bool :=
  let w := natOfBytes bs
  (BitVec.ofNat 32 w, decide (w / 2 ^ 33 ≠ 0) || field w 32 1 == 1)

/-- The scalars of a group entry. -/
def groupScalars (s : State) (g : BitVec 8) (ge : Nat) (clip : W32) : UEnv :=
  [(0x1A, gWord ge 0x0C), (0x1B, gWord ge 0x10), (0x1C, clip),
   (0x1D, natF (((groupAt s g).ver + 1).toNat)), (0x1E, 0x3F800000), (0x1F, 0)] ++
  (List.range 8).map (fun i => (0x20 + i, gWord ge (0x14 + 4 * i)))

/-- Offset of the live slot and of the idle slot. -/
def liveOff (s : State) (g : BitVec 8) (e : Nat) : Nat := if (groupAt s g).live then shSlot e else 0
def idleOff (s : State) (g : BitVec 8) (e : Nat) : Nat := if (groupAt s g).live then 0 else shSlot e

/-- Arrays written to the idle slot: moments and factors, then the master (Table 11.8). -/
def writeIdle (s : State) (k : Nat) (e off : Nat) (o : UOut) (mom : Nat × Nat) : State × Bool :=
  let w1 := if mom.1 = 0 then (s, true) else unitWrite s k (shM1 e + off) (bytesOfWords o.m1)
  if !w1.2 then w1
  else
    let w2 := if mom.2 = 0 then (w1.1, true) else unitWrite w1.1 k (shM2 e + off) (bytesOfWords o.m2)
    if !w2.2 then w2 else unitWrite w2.1 k (shMaster e + off) (bytesOfWords o.w)

/-- Several arrays read in order. -/
def readArrays (s : State) (k : Nat) : List (Nat × Nat) → State × Option (List (List W32))
  | [] => (s, some [])
  | (a, n) :: rest =>
    match (if n = 0 then (s, some []) else unitRead s k a (4 * n)) with
    | (s1, none) => (s1, none)
    | (s1, some bs) =>
      match readArrays s1 k rest with
      | (s2, none) => (s2, none)
      | (s2, some ls) => (s2, some (wordsOf n bs :: ls))

/-- Stage 5: the program, or the copy of R384. -/
def runStage5 (s : State) (k : Nat) (j : UpdJob) (clip : W32) : State × Bool :=
  let e := shardEntry s j.req.shard
  let ge := groupEntry s j.req.group
  let p := progAt s (gProg ge)
  let mom := momBytes p e
  let lo := liveOff s j.req.group e
  let io := idleOff s j.req.group e
  match readArrays s k [(shGrad e, shElems e), (shMaster e + lo, shElems e), (shM1 e + lo, mom.1 / 4),
      (shM2 e + lo, mom.2 / 4)] with
  | (s1, none) => (s1, false)
  | (s1, some ls) =>
    let u : UIn := { g := ls.getD 0 [], w := ls.getD 1 [], m1 := ls.getD 2 [], m2 := ls.getD 3 []
                     rows := shRows e, cols := shCols e
                     scalars := groupScalars s j.req.group ge clip }
    writeIdle s1 k e io (if j.skip then { w := u.w, m1 := u.m1, m2 := u.m2 } else runProgram p u) mom

/-! ### A request is taken (R373, R389, R390, R605) -/

/-- Update on arrival runs MAIN on each block as it arrives: no PRE or MID section, control word or partials (R373). -/
def mainOnArrival (ge : Nat) (p : UProg) : Bool :=
  gArrive ge && p.pre.isEmpty && p.mid.isEmpty && !p.fact && !gCtl ge && !gPart ge

def picked (l : List (Nat × W32)) (vals : List W32) : List (Nat × W32) := l.map (fun a => (a.1, vals.getD a.1 0))

/-- MAIN on the elements that have arrived, into the idle slot. -/
def arriveMain (s : State) (k : Nat) (r : UpdReq) (l : List (Nat × W32)) : State × Bool :=
  let e := shardEntry s r.shard
  let ge := groupEntry s r.group
  let p := progAt s (gProg ge)
  let mom := momBytes p e
  let lo := liveOff s r.group e
  let io := idleOff s r.group e
  let g : Table W32 := l.foldl (fun t a => tablePut 0 t a.1 a.2) []
  match readArrays s k [(shMaster e + lo, shElems e), (shM1 e + lo, mom.1 / 4), (shM2 e + lo, mom.2 / 4)] with
  | (s1, none) => (s1, false)
  | (s1, some ls) =>
    let o := runProgram p { g := (List.range (shElems e)).map (fun i => tableGet 0 g i), w := ls.getD 0 []
                            m1 := ls.getD 1 [], m2 := ls.getD 2 [], rows := shRows e, cols := shCols e
                            scalars := groupScalars s r.group ge 0x3F800000 }
    let w1 := if mom.1 = 0 then (s1, true) else putElems k (shM1 e + io) (picked l o.m1) s1
    if !w1.2 then w1
    else
      let w2 := if mom.2 = 0 then (w1.1, true) else putElems k (shM2 e + io) (picked l o.m2) w1.1
      if !w2.2 then w2 else putElems k (shMaster e + io) (picked l o.w) w2.1

/-- The elements of a delivery that is not whole: each is in GRAD at its index, and where MAIN runs on arrival its result
is in the idle slot. -/
def placeArrivals (s : State) (k : Nat) (r : UpdReq) (l : List (Nat × W32)) : State × Bool :=
  let ge := groupEntry s r.group
  let w := putElems k (shGrad (shardEntry s r.shard)) l s
  if w.2 && mainOnArrival ge (progAt s (gProg ge)) && !l.isEmpty then arriveMain w.1 k r l else w

/-- The unit reads the entries of a request's shard and group (R605). -/
def readTables (s : State) (k : Nat) (r : UpdReq) : State × Bool :=
  match imgAddr s (·.stab), imgAddr s (·.gtab) with
  | some a, some b =>
    (match unitRead s k (a + 64 * r.shard.toNat) 64 with
     | (s1, none) => (s1, false)
     | (s1, some _) =>
       match unitRead s1 k (b + 128 * r.group.toNat) 128 with
       | (s2, none) => (s2, false)
       | (s2, some _) => (s2, true))
  | _, _ => (s, true)

/-- Stages 1 and 2 of a request, whose entries are checked first. -/
def takeRequest (s : State) (k : Nat) (r : UpdReq) : State :=
  if !entriesOk s k r then countFault s k r
  else if countOk s r then takeSource s k r
  else
    let w := placeArrivals s k r (arrivals (shardEntry s r.shard) r)
    if w.2 then countFault w.1 k r else w.1

/-- UPDATE_REQUEST (R389, R390): the unit takes its oldest request. -/
def updateRequest (s : State) (u : UnitId) (hw : HwCheck) : State :=
  match updIndex u with
  | none => s
  | some k =>
    if !working s then s
    else
      let v := uuAt s k
      match v.queue with
      | [] => s
      | r :: rest =>
        if 2 ≤ v.jobs.length ∨ v.jobs.any (fun j => decide (j.stage < 3)) then s
        else
          let s0 := setUu s k { v with queue := rest }
          if r.wgen ≠ unitWgen s u then updGroup (event s0 u 0xAB (r.shard.zeroExtend 32) 0) r.group (fun g => { g with st := 3 })
          else if s.upd.taken.contains r.shard then acceptReq (event s0 u 0x9B (r.shard.zeroExtend 32) 0) r
          else if r.entry.isSome then addJob (startGroup s0 r.group) k (newJob r 5)
          else
            let c := nmuCheck s0 k r.shard hw
            if !c.2 then c.1
            else
              let s1 := startGroup { c.1 with upd := { c.1.upd with taken := c.1.upd.taken ++ [r.shard] } } r.group
              let t := readTables s1 k r
              if t.2 then takeRequest t.1 k r else t.1

def setHead (s : State) (k : Nat) (j : UpdJob) : State :=
  updUu s k (fun u => { u with jobs := match u.jobs with
    | [] => []
    | _ :: js => j :: js })

/-- The acceptance of R389: the end of stage 3 and the guard. -/
def tryAccept (s : State) (k : Nat) (j : UpdJob) : State × UpdJob :=
  if !j.accepted && decide (3 ≤ j.stage) && guardDone s k j.req then
    (acceptReq s j.req, { j with accepted := true })
  else (s, j)

/-- Stage 4 (R384 to R386): what is decided for a shard, given VETO. -/
def decideShard (s : State) (k : Nat) (j : UpdJob) (veto : Bool) : State × UpdJob :=
  let g := j.req.group
  let ge := groupEntry s g
  if j.groupSkip ∨ (groupAt s g).st = 3 then
    (if j.groupSkip then s else updUu s k (fun u => { u with skipGroup := satInc16 u.skipGroup }),
      { j with groupSkip := true })
  else if gAgree ge then
    (updGroup s g (fun v => { v with flags := v.flags ++ [(j.req.shard, localSkip j ge || veto)], agw := true }), j)
  else if veto then (skipGroup s k g, { j with groupSkip := true })
  else if localSkip j ge then
    (event (updUu s k (fun u => { u with skipShard := satInc16 u.skipShard })) (updUnitId k) 0x98
      (j.req.shard.zeroExtend 32) 0, { j with skip := true })
  else (s, j)

/-- CONTROL_WAIT_SATISFIED: stages 3 to 5 of the unit's oldest shard. -/
def controlWait (s : State) (u : UnitId) (hw : HwCheck) : State :=
  match updIndex u with
  | none => s
  | some k =>
    if !working s then s
    else
      let s0 := takeUnitReplies s k
      match (uuAt s0 k).jobs with
      | [] => s0
      | j :: _ =>
        let ge := groupEntry s0 j.req.group
        if j.stage ≠ 2 ∨ (gCtl ge ∧ !waitDone s0 k (gCtlSpar ge)) then s0
        else
          let c := nmuCheck s0 k j.req.shard hw
          if !c.2 then c.1
          else
            let t := readTables c.1 k j.req
            let cw := if !t.2 then (t.1, none)
              else if gCtl ge then unitRead t.1 k (gCtlAddr ge) 8 else (t.1, some (bytesOf 8 0x3F800000))
            match cw with
            | (s1, none) => s1
            | (s1, some bs) =>
              let w := controlWord bs
              let d := decideShard s1 k j w.2
              let r := if d.2.groupSkip then (d.1, true) else runStage5 d.1 k d.2 w.1
              if !r.2 then r.1
              else
                let a := tryAccept r.1 k { d.2 with stage := 5 }
                setHead a.1 k a.2

/-! ### Stages 6 to 8 -/

def nextHead (g : Group) : BitVec 2 := BitVec.ofNat 2 ((g.head.toNat + 1) % (g.depth.toNat + 1))

def entryAddr (s : State) (g : BitVec 8) (e : Nat) (k : BitVec 2) : Nat :=
  shRing0 e + k.toNat * (groupAt s g).rstride.toNat * 2 ^ 24

/-- The new ring entry: of the final master, of the head entry for a skipped shard, or as delivered. -/
def ringBytes (s : State) (k : Nat) (j : UpdJob) : State × Option (List Byte) :=
  let e := shardEntry s j.req.shard
  let ge := groupEntry s j.req.group
  match j.req.entry with
  | some bs => (s, some bs)
  | none =>
    if j.skip then
      unitRead s k (entryAddr s j.req.group e (groupAt s j.req.group).head) (entrySize (gFmt ge) (shElems e))
    else match unitRead s k (shMaster e + idleOff s j.req.group e) (4 * shElems e) with
      | (s1, none) => (s1, none)
      | (s1, some bs) => (s1, some (entryBytes (gFmt ge) (wordsOf (shElems e) bs)))

/-- The commit record of a shard (Table 11.9). -/
def commitRecord (s : State) (j : UpdJob) : List Byte :=
  let g := groupAt s j.req.group
  let body := bytesOf 4 ((g.ver + 1).toNat) ++
    [BitVec.ofNat 8 (b2n (!g.live) + (nextHead g).toNat * 2 + b2n j.skip * 8 + b2n g.live * 16 + g.head.toNat * 32)] ++
    [j.req.group] ++ [0, 0] ++ bytesOf 8 s.crs.step.toNat ++ bytesOf 8 s.crs.course.toNat ++
    bytesOf 4 j.sq.toNat ++ bytesOf 4 j.maxa.toNat ++ bytesOf 4 j.req.shard.toNat ++ List.replicate 24 0
  body ++ bytesOf 4 (crc32c (body ++ [0, 0, 0, 0])).toNat

/-- Where a commit record lies in its stack (Table 14.9). -/
def commitAddr (k : BitVec 20) : Nat := resvBase + 0x4000000 + 64 * k.toNat

/-- A shard of its group has been prepared; the group has an outcome once all have. -/
def notePrepared (s : State) (g : BitVec 8) (sh : BitVec 20) : State :=
  let all := groupShards s g
  updGroup s g (fun v =>
    let p := if v.prep.contains sh then v.prep else v.prep ++ [sh]
    { v with prep := p, st := if all.all (fun q => p.contains q) && v.st != 3 then 2 else v.st })

def dropJob (s : State) (k : Nat) : State :=
  registerWaits (updUu s k (fun u => { u with jobs := u.jobs.tail })) k

/-- Stages 7 and 8, after which the ring entry of an owned shard goes to the mirrors (R462): the second
component is that entry. -/
def ringPass (s : State) (k : Nat) (j : UpdJob) : State × Option (List Byte) :=
  let e := shardEntry s j.req.shard
  match ringBytes s k j with
  | (s1, none) => (s1, none)
  | (s1, some bs) =>
    let w := unitWrite s1 k (entryAddr s1 j.req.group e (nextHead (groupAt s1 j.req.group))) bs
    if !w.2 then (w.1, none)
    else
      let s2 := updEave w.1 (shEave e) (fun v =>
        { v with hbm := memWrite v.hbm (commitAddr j.req.shard) (commitRecord w.1 j) })
      let s3 := hitEave s2 (shEave e) (if j.skip then 0x212 else 0x211) 1
      (dropJob (notePrepared s3 j.req.group j.req.shard) k, some bs)

/-! ### Work given up (R81, R397) -/

def bumpUnitGen (s : State) (k : Nat) : State :=
  if k < 8 then updEave s k (fun v => { v with wgen := v.wgen + 1 })
  else updPort s (k - 8) (fun p => { p with wgen := p.wgen + 1 })

/-- A receiving unit gives up the requests that it holds: one DROPPED each, their groups skipped (R397). -/
def dropUnitWork (s : State) (k : Nat) : State :=
  let u := uuAt s k
  let held := u.queue ++ u.jobs.map (·.req)
  if held.isEmpty then s
  else
    let s1 := bumpUnitGen (updUu s k (fun v => { v with queue := [], jobs := [], waits := [], resent := [] })) k
    held.foldl (fun a r => updGroup (event a (updUnitId k) 0xAB (r.shard.zeroExtend 32) 0) r.group
      (fun g => { g with st := 3 })) s1

/-! ### Agreement (R385) -/

/-- The owned shards of a group that this device has flags for. -/
def ownedShards (s : State) (g : BitVec 8) : List (BitVec 20) :=
  (groupShards s g).filter (fun q => !shMirror (shardEntry s q))

def flagsComplete (s : State) (g : BitVec 8) : Bool :=
  (ownedShards s g).all (fun q => (groupAt s g).flags.any (fun f => f.1 == q)) &&
  !(ownedShards s g).isEmpty

def flagOr (v : Group) : Bool := v.flags.any (·.2)

/-- Shards marked suspect, with an event of the unit that serves the first (R400, log 106). -/
def markSuspects (s : State) (l : List (BitVec 20)) : State :=
  if l.isEmpty then s
  else event { s with upd := { s.upd with
      suspects := s.upd.suspects ++ l.filter (fun q => !s.upd.suspects.contains q) } } (shardUnit s (l.headD 0)) 0x9A
    (BitVec.ofNat 32 (l.headD 0).toNat) (BitVec.ofNat 32 l.length)

/-- The result of an agreement counted for a group; the unit that serves its first owned shard writes the event (log 106). -/
def countResult (s : State) (g : BitVec 8) (skip timeout : Bool) : State :=
  let s1 := updGroup s g (fun v => { v with result := some skip, timedOut := timeout, agw := false })
  if skip then event (updGroup s1 g (fun v => { v with st := 3 })) (shardUnit s ((ownedShards s g).headD 0)) 0x99 (g.zeroExtend 32) 0 else s1

/-- AGREEMENT_TIMEOUT: AGTO µs after the flag-reduce started with no result, it counts as 1. -/
def agreementTimeout (s : State) (g : BitVec 8) : State :=
  let v := groupAt s g
  match v.reduceAt with
  | none => s
  | some t =>
    if v.result.isSome ∨ s.now < t + 100 * gAgTo (groupEntry s g) then s else countResult s g true true

/-! ### Meanings -/

/-- UPD (R243). -/
def execUpd (r : RafterId) (f : Frame) (o : UpdOps) (hw : UnitCheck) (s : State) : Out State :=
  .next (updEffect s r f o hw)

/-- Stages 1 and 2 of a request (R389). -/
def execUpdateRequest (u : UnitId) (hw : HwCheck) (s : State) : Out State := .next (updateRequest s u hw)

/-- Stages 3 to 5 of a shard (R388, R389). -/
def execControlWaitSatisfied (u : UnitId) (hw : HwCheck) (s : State) : Out State :=
  .next (controlWait s u hw)

/-- The agreement timeout (R385). -/
def execAgreementTimeout (g : BitVec 8) (s : State) : Out State := .next (agreementTimeout s g)

end Sys2Proof.Machine
end

