-- ==== Sys2Proof/Machine/Collective.lean ====
section
/-!
DEFINITION. Collectives (R245 to R247, R451 to R469): the shape of an instance, compression and error
feedback, what a member sends and takes, results, and failures.
-/

namespace Sys2Proof.Machine

/-! ### Compression (R458, R459) -/

/-- Bytes of a block on the wire. -/
def compBytes (d : BitVec 512) : Nat := if cdComp d = 1 then 6 * cdK d else 516

/-- The key that top-k orders by: magnitude, with NaN and infinities greatest. -/
def topKey (a : W32) : Nat := if isFin (fv a) then field a.toNat 0 31 else 2 ^ 31

/-- Indices of the K greatest elements, ascending; ties go to the lower index. -/
def topIndices (k : Nat) (l : List W32) : List Nat :=
  let t := (l.mapIdx (fun i a => (i, topKey a)))
  (t.filter (fun p => decide ((t.filter (fun q => decide (p.2 < q.2) || (q.2 == p.2 && decide (q.1 < p.1)))).length
    < k))).map (·.1)

/-- The scale of sign compression: the mean magnitude, one rounding at each addition. -/
def signScale (l : List W32) : W32 :=
  (mulR (l.foldl (fun a v => (addR a (v &&& 0x7FFFFFFF)).1) 0) 0x39800000).1

def signBits (l : List W32) : List Byte := packBits 1 (l.map (fun a => field a.toNat 31 1))

def compressBlock (d : BitVec 512) (l : List W32) : List Byte :=
  if cdComp d = 1 then
    let ix := topIndices (cdK d) l
    ix.flatMap (fun i => bytesOf 2 i) ++ bytesOfWords (ix.map (fun i => l.getD i 0))
  else bytesOf 4 (signScale l).toNat ++ signBits l

def expandBlock (d : BitVec 512) (bs : List Byte) : List W32 :=
  if cdComp d = 1 then
    let k := cdK d
    let vals := wordsOf k (bs.drop (2 * k))
    let t : Table W32 := (List.range k).foldl (fun t i =>
      tablePut 0 t (natOfBytes ((bs.drop (2 * i)).take 2) % 4096) (vals.getD i 0)) []
    (List.range 4096).map (fun i => tableGet 0 t i)
  else
    let s := BitVec.ofNat 32 (natOfBytes (bs.take 4))
    let bits := natOfBytes (bs.drop 4)
    (List.range 4096).map (fun i => if field bits i 1 = 1 then s ^^^ 0x80000000 else s)

/-- A block as it is sent, with its new residual. -/
def feedbackBlock (d : BitVec 512) (g r : List W32) : List Byte × List W32 :=
  let a := List.zipWith (fun x y => (addR x y).1) g r
  let bs := compressBlock d a
  (bs, if a.all (fun v => isFin (fv v)) then List.zipWith (fun x y => (subR x y).1) a (expandBlock d bs)
       else a.map (fun _ => 0))

def wordBlocks : Nat → List W32 → List (List W32)
  | 0, _ => []
  | k + 1, l => l.take 4096 :: wordBlocks k (l.drop 4096)

/-- The compressed stream of a chunk, and its new residuals. -/
def feedbackChunk (d : BitVec 512) (g r : List W32) : List Byte × List W32 :=
  let k := g.length / 4096
  let o := List.zipWith (fun a b => feedbackBlock d a b) (wordBlocks k g) (wordBlocks k r)
  (o.flatMap (·.1), o.flatMap (·.2))

def expandChunk (d : BitVec 512) : Nat → List Byte → List W32
  | 0, _ => []
  | k + 1, bs => expandBlock d bs ++ expandChunk d k (bs.drop (compBytes d))

/-! ### The layout of an instance -/

def groupSize (i : Inst) : Nat := i.group.length
def chunkElems (i : Inst) : Nat := i.n / groupSize i
def memberAt (i : Inst) (k : Nat) : BitVec 10 := i.group.getD (k % groupSize i) 0
def nextMember (i : Inst) : BitVec 10 := memberAt i (i.me + 1)

/-- Bytes of a 4,096-element block of a type, with its scales. -/
def typeBlock (t : ElemType) : Nat := 4096 * elemBits t / 8 + (if isMx t then 128 else 0)

def chunkBytes (i : Inst) : Nat := chunkElems i / 4096 * typeBlock (cdDtype i.cdesc)
def compChunk (i : Inst) : Nat := chunkElems i / 4096 * compBytes i.cdesc

/-- Where the gathering part of an all-reduce starts in the numbering of OFFSET (log 40). -/
def gatherBase (i : Inst) : Nat :=
  if i.op = 2 then (if cdComp i.cdesc = 0 then 4 * i.n else compChunk i) else 0

/-- A stream cut into messages: each block on its port (R453), no message above its port's largest
payload (R440). -/
def cutStream (ports : List (Nat × Nat)) (bb b0 : Nat) : Nat → Nat → List Byte → List (Nat × Nat × List Byte)
  | 0, _, _ => []
  | fuel + 1, off, bs =>
    if bs.isEmpty then []
    else
      let q := ports.getD ((b0 + off / bb) % ports.length) (0, 512)
      let len := if ports.length = 1 then max 1 q.2 else min (max 1 q.2) (bb - off % bb)
      (q.1, off, bs.take len) :: cutStream ports bb b0 fuel (off + len) (bs.drop len)

/-- Bytes of a part sent to a member, from byte `off` of the part; `endOff` is where the chunk ends. -/
def sendPart (s : State) (i : Inst) (dst : BitVec 10) (base bb b0 off endOff : Nat) (bs : List Byte) : State :=
  let ports := (portsFor s i.cdesc).map (fun l => (l, maxPayload (portAt s l)))
  if ports.isEmpty then s
  else (cutStream ports bb b0 bs.length off bs).foldl (fun a m =>
    transmit a m.1 (ownMsg a m.1 0 dst i.xfer i.course (base + m.2.1) (m.2.1 + m.2.2.length == endOff) m.2.2)) s

/-- The ring's partial sums of elements from `e` on, sent to the next member. -/
def sendSums (s : State) (i : Inst) (e : Nat) (vals : List W32) : State :=
  sendPart s i (nextMember i) 0 16384 0 (4 * e) (4 * ((e / chunkElems i + 1) * chunkElems i)) (bytesOfWords vals)

/-- Gathered bytes from `off` of the whole result's stream, sent to the next member. -/
def sendGather (s : State) (i : Inst) (off : Nat) (bs : List Byte) : State :=
  sendPart s i (nextMember i) (gatherBase i) (typeBlock (cdDtype i.cdesc)) 0 off
    ((off / chunkBytes i + 1) * chunkBytes i) bs

/-! ### Results -/

/-- A reduction's values in DTYPE, rounded to nearest even. -/
def resultBytes (t : ElemType) (vals : List W32) : List Byte :=
  if t = .bf16 then vals.flatMap (fun w => bytesOf 2 (encodeF fmtBf16 .nearest false (fv w)).bits)
  else bytesOfWords vals

def resultWords (t : ElemType) (vals : List W32) : List W32 :=
  if t = .bf16 then vals.map (fun w => BitVec.ofNat 32 ((encodeF fmtBf16 .nearest false (fv w)).bits * 2 ^ 16))
  else vals

/-- The order of the sum of R454: members after this one, and this one last. -/
def sumOrder (i : Inst) : List Nat := (List.range (groupSize i)).map (fun k => (i.me + 1 + k) % groupSize i)

def ownChunk (i : Inst) : List W32 := (i.own.drop (i.me * chunkElems i)).take (chunkElems i)

/-- What a member contributed to this member's chunk, in a compressed reduce-scatter. -/
def contribution (i : Inst) (k : Nat) : List W32 :=
  if k = i.me then ownChunk i
  else match i.bufs.find? (fun b => b.1 == memberAt i k) with
    | some b => expandChunk i.cdesc (chunkElems i / 4096) (memRead b.2 0 (compChunk i))
    | none => []

/-- The reduced values of this member's chunk. -/
def reducedChunk (i : Inst) : List W32 :=
  if groupSize i = 1 then ownChunk i
  else if cdComp i.cdesc = 0 then (List.range (chunkElems i)).map (fun e => tableGet 0 i.acc e)
  else match (sumOrder i).map (contribution i) with
    | [] => []
    | l :: ls => ls.foldl (fun a b => List.zipWith (fun x y => (addR x y).1) a b) l

/-- A gathered result as it is laid out at DAG: packed elements, then scales (R457). -/
def gatheredBytes (i : Inst) : List Byte :=
  let t := cdDtype i.cdesc
  let pb := 4096 * elemBits t / 8
  let blocks := (List.range (i.n / 4096)).map (fun b => memRead i.got (b * typeBlock t) (typeBlock t))
  blocks.flatMap (fun b => b.take pb) ++ blocks.flatMap (fun b => b.drop pb)

/-- Shards from SHARD0 on, and the elements that each is given. -/
def shardSplit (s : State) : Nat → Nat → List W32 → List (BitVec 20 × List W32)
  | 0, _, _ => []
  | fuel + 1, q, vals =>
    let k := shElems (shardEntry s (BitVec.ofNat 20 q))
    if vals.isEmpty ∨ k = 0 then []
    else (BitVec.ofNat 20 q, vals.take k) :: shardSplit s fuel (q + 1) (vals.drop k)

def arriveReq (s : State) (i : Inst) (q : BitVec 20) (vals : List W32) : Nat × UpdReq :=
  let e := shardEntry s q
  let k := 8 + shEave e
  (k, { rafter := none, inst := some (i.xfer, i.course), group := shGroup e, shard := q, src := .scratch
        vals := vals, entry := none, wgen := unitWgen s (updUnitId k), tag := 0, served := false })

/-- Requests to the link engines that update on arrival (R461). -/
def deliverArrival (s : State) (i : Inst) (vals : List W32) : State :=
  if s.upd.lstop then completeInst s i
  else
    let parts := shardSplit s (vals.length + 1) (cdShard0 i.cdesc) vals
    let s1 := setInst s { i with accepts := parts.length }
    if parts.isEmpty then completeInst s i
    else parts.foldl (fun a p => let r := arriveReq a i p.1 p.2; enqueueReq a r.1 r.2) s1

/-- A result written at DAG, after which the instance completes. -/
def writeResult (s : State) (i : Inst) (bs : List Byte) : State :=
  let w := unifiedWrite s none i.dag bs
  if w.2 then completeInst w.1 i else accessFault w.1 (instUnit s i.cdesc) i.dag 3

/-- The own chunk's reduction is over: an all-reduce passes it on. -/
def sumStep (s : State) (i : Inst) : State × Inst :=
  if (i.op = 0 ∨ i.op = 2) ∧ !i.summed ∧ i.left = 0 then
    let vals := reducedChunk i
    let j := { i with summed := true, acc := (vals.mapIdx (fun k v => (k, v))).filter (fun p => p.2 ≠ 0) }
    if i.op = 2 then
      let off := i.me * chunkBytes i
      let bs := resultBytes (cdDtype i.cdesc) vals
      let j2 := { j with got := memWrite j.got off bs }
      (if groupSize i = 1 then s else sendGather s j2 off bs, j2)
    else (s, j)
  else (s, i)

/-- Whatever an instance can do now: its sum, its result, its end. -/
def advanceInst (s : State) (i : Inst) : State :=
  let a := sumStep s i
  let j := a.2
  let s1 := setInst a.1 j
  if j.done then (if instOver j && j.agree.isNone then dropInst s1 j else s1)
  else if j.accepts ≠ 0 then s1
  else if j.op = 0 then
    if !j.summed then s1
    else
      let vals := (List.range (chunkElems j)).map (fun e => tableGet 0 j.acc e)
      if cdArrive j.cdesc then deliverArrival s1 j (resultWords (cdDtype j.cdesc) vals)
      else writeResult s1 j (resultBytes (cdDtype j.cdesc) vals)
  else if j.op = 1 ∨ j.op = 2 then
    if j.gleft = 0 ∧ (j.op = 1 ∨ j.summed) then writeResult s1 j (gatheredBytes j) else s1
  else if j.left = 0 then
    (match j.agree with
      | some _ => completeInst s1 j
      | none => writeResult s1 j (bytesOf 4 (b2n j.flag)))
  else s1

/-! ### What arrives -/

/-- Partial sums from the previous member of the ring (R454). -/
def takeSums (s : State) (i : Inst) (off : Nat) (bs : List Byte) : State :=
  let e := off / 4
  let vals := List.zipWith (fun v g => (addR v g).1) (wordsOf (bs.length / 4) bs) (i.own.drop e)
  if e / chunkElems i = i.me then
    let e0 := e - i.me * chunkElems i
    let acc := (vals.mapIdx (fun k v => (k, v))).foldl (fun t p => tablePut 0 t (e0 + p.1) p.2) i.acc
    advanceInst s { i with acc := acc, left := i.left - vals.length, came := i.came ++ [(e0, vals.length)] }
  else
    let j := { i with relay := i.relay - vals.length }
    advanceInst (sendSums (setInst s j) j e vals) j

def putBuf (l : List (BitVec 10 × Mem)) (src : BitVec 10) (off : Nat) (bs : List Byte) :
    List (BitVec 10 × Mem) :=
  if l.any (fun b => b.1 == src) then l.map (fun b => if b.1 == src then (src, memWrite b.2 off bs) else b)
  else l ++ [(src, memWrite [] off bs)]

def takeGather (s : State) (i : Inst) (off : Nat) (bs : List Byte) : State :=
  let j := { i with got := memWrite i.got off bs, gleft := i.gleft - bs.length }
  let c := off / chunkBytes i
  let s1 := setInst s j
  advanceInst (if c = (i.me + 1) % groupSize i then s1 else sendGather s1 j off bs) j

/-- A DATA message of an instance, placed by its OFFSET. -/
def takeInstData (s : State) (i : Inst) (src : BitVec 10) (off : Nat) (bs : List Byte) : State :=
  if i.op = 1 ∨ (i.op = 2 ∧ gatherBase i ≤ off) then takeGather s i (off - gatherBase i) bs
  else if cdComp i.cdesc = 0 then takeSums s i off bs
  else advanceInst s { i with bufs := putBuf i.bufs src off bs, left := i.left - bs.length }

def takeInstFlag (s : State) (i : Inst) (bs : List Byte) : State :=
  if i.done ∨ i.left = 0 then s
  else advanceInst s { i with flag := i.flag || natOfBytes bs % 2 == 1, left := i.left - 1 }

/-- A message of an instance that has started here. -/
def takeMsg (s : State) (src : BitVec 10) (m : LinkMsg) : State :=
  match s.lnk.insts.find? (fun i => i.xfer == m.xfer && i.course == m.course) with
  | none => s
  | some i =>
    if m.typ = 5 then (if i.op = 3 then takeInstFlag s i m.payload else s)
    else if i.op = 3 then s else takeInstData s i src m.offset.toNat m.payload

/-- Messages that were held for an instance, when it starts (R467). -/
def takeStaged (s : State) (i : Inst) : State :=
  let mine := fun (m : BitVec 10 × LinkMsg) => m.2.xfer == i.xfer && m.2.course == i.course
  let ms := s.lnk.ports.flatMap (fun p => p.staged.filter mine)
  let s1 := { s with lnk := { s.lnk with
    ports := s.lnk.ports.map (fun p => { p with staged := p.staged.filter (fun m => !mine m) }) } }
  ms.foldl (fun a m => takeMsg a m.1 m.2) s1

/-! ### Starting (R245, R452) -/

def bareInst (s : State) (op : Nat) (xfer : W16) (d : BitVec 512) (dag : Nat) (rspar : SparId) : Inst :=
  { xfer := xfer, course := BitVec.ofNat 32 s.crs.course.toNat, op := BitVec.ofNat 4 op, cdesc := d
    group := axisGroup s.lnk (cdAxis d), me := axisPlace s.lnk (cdAxis d), n := 0, dag := dag
    rspar := rspar, own := [], acc := [], bufs := [], left := 0, relay := 0, summed := false, got := []
    gleft := 0, accepts := 0, came := [], done := false, flag := false, start := s.now, agree := none }

def addInst (s : State) (i : Inst) : State := { s with lnk := { s.lnk with insts := s.lnk.insts ++ [i] } }

/-- The contribution of a reduction as FP32 values (R457). -/
def sourceVals (t : ElemType) (n : Nat) (bs : List Byte) : List W32 :=
  if t = .bf16 then (wordsOf' n bs) else wordsOf n bs
where
  wordsOf' : Nat → List Byte → List W32
    | 0, _ => []
    | k + 1, l => BitVec.ofNat 32 (natOfBytes (l.take 2) * 2 ^ 16) :: wordsOf' k (l.drop 2)

/-- The gathered stream of one chunk out of a source laid out as R457 says. -/
def sourceChunk (t : ElemType) (n b0 k : Nat) (bs : List Byte) : List Byte :=
  let pb := 4096 * elemBits t / 8
  let scales := bs.drop (n / 4096 * pb)
  (List.range k).flatMap (fun b => (bs.drop ((b0 + b) * pb)).take pb ++
    (if isMx t then (scales.drop ((b0 + b) * 128)).take 128 else []))

/-- The compressed chunk for one other member, sent, with its residuals written (R458, R459). -/
def sendCompressed (s : State) (i : Inst) (k : Nat) : State :=
  let cs := chunkElems i
  let g := (i.own.drop (k * cs)).take cs
  let ra := cdResid i.cdesc + 4 * (k * cs)
  match unifiedRead s none ra (4 * cs) with
  | (s1, .ok bs) =>
    let o := feedbackChunk i.cdesc g (wordsOf cs bs)
    let s2 := sendPart s1 i (memberAt i k) 0 (compBytes i.cdesc) (k * cs / 4096) 0 (compChunk i) o.1
    let w := unifiedWrite s2 none ra (bytesOfWords o.2)
    if w.2 then w.1 else accessFault w.1 (instUnit s i.cdesc) ra 3
  | (s1, f) => fetchFault s1 (instUnit s i.cdesc) f

/-- A reduction starts: every other member's chunk goes out, or the first partial sums. -/
def startReduce (s : State) (i : Inst) : State :=
  let k := groupSize i
  if k = 1 then s
  else if cdComp i.cdesc = 0 then
    let c := (i.me + k - 1) % k
    sendSums s i (c * chunkElems i) ((i.own.drop (c * chunkElems i)).take (chunkElems i))
  else ((List.range k).filter (· ≠ i.me)).foldl (fun a m => sendCompressed a i m) s

/-- An instance of a reduction or an all-gather, from its source's bytes. -/
def startVector (s : State) (i0 : Inst) (n : Nat) (bs : List Byte) : State :=
  let i1 := { i0 with n := n }
  let k := groupSize i1
  let cs := chunkElems i1
  if i1.op = 1 then
    let own := sourceChunk (cdDtype i1.cdesc) n (i1.me * cs / 4096) (cs / 4096) bs
    let off := i1.me * chunkBytes i1
    let i := { i1 with got := memWrite [] off own, gleft := (k - 1) * chunkBytes i1 }
    let s1 := addInst s i
    advanceStaged (if k = 1 then s1 else sendGather s1 i off own) i
  else
    let i := { i1 with
      own := sourceVals (cdStype i1.cdesc) n bs
      left := if k = 1 then 0 else if cdComp i1.cdesc = 0 then cs else (k - 1) * compChunk i1
      relay := if cdComp i1.cdesc = 0 then (k - 2) * cs else 0
      gleft := if i1.op = 2 then (k - 1) * chunkBytes i1 else 0 }
    advanceStaged (startReduce (addInst s i) i) i
where
  advanceStaged (s : State) (i : Inst) : State := takeStaged (advanceInst s i) i

/-- A flag-reduce starts: its flag to every other member, on the first in-service port (R469). -/
def startFlag (s : State) (i0 : Inst) (flag : Bool) : State :=
  let i := { i0 with flag := flag, left := i0.group.length - 1, n := 1 }
  let s1 := match portsFor s i.cdesc with
    | [] => s
    | l :: _ => (i.group.filter (· ≠ memberAt i i.me)).foldl (fun a r =>
        transmit a l (ownMsg a l 5 r i.xfer i.course 0 true (bytesOf 4 (b2n flag)))) s
  takeStaged (advanceInst (addInst s1 i) i) i

/-- The ordinal of a COLL among those of its descriptor in the course (R452). -/
def nextOrdinal (s : State) (d : Nat) : Nat × State :=
  let k := tableGet 0 s.lnk.ordinals d
  (k, { s with lnk := { s.lnk with ordinals := tablePut 0 s.lnk.ordinals d (k + 1) } })

/-- Bytes of the source or of the result of a collective of `n` elements. -/
def vectorBytes (t : ElemType) (n : Nat) : Nat := n / 4096 * typeBlock t

def collCodes : List Byte := [0xB1, 0xB2]

/-- The checks that a link engine's source meets. -/
def linkChecks (s : State) (l : Nat) (hw : UnitCheck) : State × Bool :=
  -- of two faults in one cycle the one with the lower code stays in LNK_FAULT_INFO (R477)
  ((hw.cycles.flatMap (fun c => c.filter (eventCode · == 0xB2) ++ c.filter (eventCode · != 0xB2))).filter
    (fun e => !isFixed e)).foldl (fun a e =>
    if a.2 then linkCheck a.1 l 0 collCodes (if isTwice e then .twice (eventCode e) (eventInfo e)
      else .once (eventCode e) (eventInfo e)) else a) (s, true)

/-- The source of a collective read by its link engine, and the instance begun; whether the read went through. -/
def startColl (s : State) (op : Nat) (o : CollOps) (hw : UnitCheck) (n : Nat) (src dst : Int) (xfer : W16) : State × Bool :=
  let d := cdOf s o.cdesc.toNat
  let i := bareInst s op xfer d dst.toNat o.rspar
  if op = 3 then (startFlag s i o.flag, true)
  else
    let h := linkChecks s ((portsFor s d).headD 0) hw
    if !h.2 then h
    else match unifiedRead h.1 none src.toNat (vectorBytes (cdStype d) n) with
      | (s1, .ok bs) => (startVector s1 i n bs, true)
      | (s1, e) => (fetchFault s1 (instUnit s d) e, false)

/-- The issue port passes a COLL on (R245, R247): nothing is sent for a zero shape or in safe hold. -/
def beginColl (s : State) (n : RafterId) (p i : Nat) (e : InFlight) (op : Nat) (o : CollOps) (hw : UnitCheck) (c : Nat)
    (src dst : Int) : State :=
  let d := cdOf s o.cdesc.toNat
  let a := nextOrdinal (setRafter s p (begun (rafterAt s p) 9 i e true)) o.cdesc.toNat
  let crs := BitVec.ofNat 32 s.crs.course.toNat
  if op ≠ 3 ∧ c = 0 then addRspar a.2 d o.rspar crs
  else if s.saf.hold then putStatus a.2 d o.rspar crs 6
  else
    let r := startColl a.2 op o hw c src dst (BitVec.ofNat 16 (a.1 * 1024 + o.cdesc.toNat))
    if r.2 then r.1 else updRafter r.1 n (fun x => setUnitQ x 9 ((unitQ x 9).set i { e with job := none }))

/-- The issue port's instructions in issue order, as far as they may go (R247). -/
def issueJobs : Nat → State → RafterId → State
  | 0, s, _ => s
  | k + 1, s, n =>
    match physOf s n with
    | none => s
    | some p =>
      if !working s then s
      else match nextJob (unitQ (rafterAt s p) 9) 0 with
        | some (i, e, .upd o hw c src) =>
          if mayRead (rafterAt s p) o c then issueJobs k (beginUpd s n p i e o hw c src) n else s
        | some (i, e, .coll op o hw c src dst) => issueJobs k (beginColl s n p i e op o hw c src dst) n
        | _ => s

def startIssue (s : State) (n : RafterId) : State := issueJobs 4 s n

/-- A COLL takes its place in the issue port's queue. -/
def enqueueColl (s : State) (n : RafterId) (p : Nat) (f : Frame) (x : Rafter) (op : Nat) (o : CollOps) (hw : UnitCheck)
    (c : Nat) (src dst : Int) : State :=
  startIssue (setRafter s p (placed (advanced x) 9 { flight f .none false with
    job := some (.coll op o hw c src dst), place := x.seq.idx })) n

/-- COLL.RS, COLL.AG and COLL.AR. -/
def collEffect (s : State) (n : RafterId) (f : Frame) (o : CollOps) (op : Nat) (hw : UnitCheck) : State :=
  issue s n 9 true noFire (fun p x =>
    let d := cdOf s o.cdesc.toNat
    let c := shapeValue x o.shp (cdCount d)
    let k := axisSize s.lnk (cdAxis d)
    let src := agAddr x o.sag
    let dst := agAddr x o.dag
    let sb := vectorBytes (cdStype d) c
    let db := vectorBytes (cdDtype d) (if op = 0 then c / k else c)
    if cdCount d < c ∨ c % (4096 * k) ≠ 0 then shapeFault s n c
    else if c ≠ 0 ∧ !s.saf.hold ∧ (!agSpanOk x o.sag src (src + sb) ||
        (!(op == 0 && cdArrive d) && !agSpanOk x o.dag dst (dst + db))) then boundFault s n
    else enqueueColl s n p f x op o hw c src dst)

/-- COLL.FR. -/
def collFlag (s : State) (n : RafterId) (f : Frame) (o : CollOps) : State :=
  issue s n 9 true noFire (fun p x =>
    let dst := agAddr x o.dag
    if !s.saf.hold ∧ !agSpanOk x o.dag dst (dst + 4) then boundFault s n
    else enqueueColl s n p f x 3 o .pass 0 0 dst)

/-! ### Failure (R465, R466) -/

/-- Elements `b` to `b + n` of the own chunk that have arrived, by their index from `b`. -/
def cameIn (i : Inst) (b n : Nat) : List (Nat × W32) :=
  (i.came.flatMap (fun c => (List.range c.2).map (fun k => c.1 + k))).filterMap (fun e =>
    if b ≤ e ∧ e < b + n then some (e - b, tableGet 0 i.acc e) else none)

/-- One shard of a delivery that stays short: what has arrived is placed (R373), and the request delivers no more. -/
def deliverPart (i : Inst) (a : State × Nat) (q : BitVec 20 × List W32) : State × Nat :=
  let r := arriveReq a.1 i q.1 []
  let req := { r.2 with inst := none }
  let l := cameIn i a.2 q.2.length
  let s1 := if l.isEmpty || !entriesOk a.1 r.1 req then a.1 else (placeArrivals a.1 r.1 req l).1
  (enqueueReq s1 r.1 req, a.2 + q.2.length)

/-- Deliveries that a failed instance under update on arrival leaves short (R465). -/
def deliverShort (s : State) (i : Inst) : State :=
  if i.op = 0 ∧ cdArrive i.cdesc ∧ i.accepts = 0 ∧ !s.upd.lstop then
    ((shardSplit s (chunkElems i + 1) (cdShard0 i.cdesc) (List.replicate (chunkElems i) 0)).foldl (deliverPart i) (s, 0)).1
  else s

/-- A failed instance is counted, CFAIL is written, and it leaves the device. -/
def endFailed (s : State) (i : Inst) (status : Nat) : State :=
  dropInst (event (hitPort s ((portsFor s i.cdesc).headD 0) 0x311 1) (instUnit s i.cdesc) 0xB9 (i.xfer.zeroExtend 32)
    (BitVec.ofNat 32 status)) i

/-- An instance fails: its status word, RSPAR, and event CFAIL. -/
def failInst (s : State) (i : Inst) (status : Nat) : State :=
  if i.done then dropInst s i
  else endFailed (match i.agree with
      | some _ => s
      | none => putStatus (deliverShort s i) i.cdesc i.rspar i.course status) i status

def failWhere (s : State) (p : Inst → Bool) (status : Nat) : State :=
  (s.lnk.insts.filter p).foldl (fun a i => failInst a i status) s

/-- A connection holds data of an instance, or its flag. -/
def onConn (c : Conn) (i : Inst) : Bool :=
  (c.kept ++ c.waiting).any (fun m => (m.typ == 0 || m.typ == 5) && m.xfer == i.xfer && m.course == i.course)

/-- An instance that is not over has blocks, or its flags, on a port (R453, R469). -/
def usesPort (s : State) (l : Nat) (i : Inst) : Bool :=
  let ports := portsFor s i.cdesc
  !i.done && ports.contains l &&
  (if i.op = 3 then ports.headD 0 == l else decide (ports.findIdx (· == l) < max 1 (i.n / 4096)))

/-- COLLECTIVE_TIMEOUT: LNK_COLL_TO µs after the local start (R465). -/
def collectiveTimeout (s : State) (xfer : W16) (course : W32) : State :=
  failWhere s (fun i => i.xfer == xfer && i.course == course && !i.done &&
    decide (i.start + 100 * s.lnk.collTo.toNat ≤ s.now)) 5

/-- An instance that a warm reset abandons: it fails, with no status word and no addition to RSPAR (R466). -/
def abandonInst (s : State) (i : Inst) : State := if i.done then dropInst s i else endFailed s i 4

/-- The device aborts its own instances of a course and tells every open connection (R466). -/
def abortCourse (s : State) (course : W32) : State :=
  let s1 := (s.lnk.insts.filter (fun i => i.course == course)).foldl abandonInst s
  (List.range 8).foldl (fun a l =>
    (portAt a l).conns.foldl (fun b e => if e.2.isOpen then
      transmit b l (ownMsg b l 7 (BitVec.ofNat 10 e.1) 0 course 0 false []) else b) a) s1

/-- Work of a link engine that is outstanding (Table 2.4): instances on its port, messages, and requests. -/
def linkBusy (s : State) (l : Nat) : Bool :=
  let p := portAt s l
  let u := uuAt s (8 + l)
  s.lnk.insts.any (usesPort s l) || p.conns.any (fun e => !e.2.kept.isEmpty || !e.2.waiting.isEmpty) ||
  !p.staged.isEmpty || !u.queue.isEmpty || !u.jobs.isEmpty

/-- A port out of service (Table 13.8): its instances fail, what it carried and the requests that its link engine holds are
dropped by work generation with one event each (R81, R397), and its connections close. -/
def retirePort (s : State) (l : Nat) : State :=
  let g := (portAt s l).wgen
  let busy := linkBusy s l
  let s1 := dropUnitWork (failWhere s (usesPort s l) 3) (8 + l)
  let dropped := (portAt s1 l).conns.flatMap (fun e => e.2.kept ++ e.2.waiting)
  let s2 := updPort s1 l (fun p => { p with serve := false, wgen := if busy then g + 1 else g, conns := [], staged := [] })
  dropped.foldl (fun a m => event a (linkUnit l) 0xAB (m.xfer.zeroExtend 32) (m.dst.zeroExtend 32)) s2

/-! ### Meanings -/

/-- COLL.RS (R245, R454). -/
def execCollRs (r : RafterId) (f : Frame) (o : CollOps) (hw : UnitCheck) (s : State) : Out State :=
  .next (collEffect s r f o 0 hw)

/-- COLL.AG (R245, R455). -/
def execCollAg (r : RafterId) (f : Frame) (o : CollOps) (hw : UnitCheck) (s : State) : Out State :=
  .next (collEffect s r f o 1 hw)

/-- COLL.AR (R245, R455). -/
def execCollAr (r : RafterId) (f : Frame) (o : CollOps) (hw : UnitCheck) (s : State) : Out State :=
  .next (collEffect s r f o 2 hw)

/-- COLL.FR (R245, R469). -/
def execCollFr (r : RafterId) (f : Frame) (o : CollOps) (s : State) : Out State := .next (collFlag s r f o)

/-- COLLECTIVE_TIMEOUT (R465). -/
def execCollectiveTimeout (xfer : W16) (course : W32) (s : State) : Out State :=
  .next (collectiveTimeout s xfer course)

end Sys2Proof.Machine
end

