-- ==== Sys2Proof/Machine/Links.lean ====
section
/-!
DEFINITION. Ixerta links (chapter 13): messages received, connections' timers, ring deliveries, the last
stages of an update, global agreement, digests and suspect shards, and PTP.
-/

namespace Sys2Proof.Machine

/-! ### Ring deliveries (R462) -/

/-- The replica descriptor. -/
def repDesc (s : State) : Option (BitVec 10) :=
  match s.prog.img with
  | some i => i.repdesc
  | none => none

/-- OFFSET of a delivery: the shard, and the byte offset in blocks of 512 B (log 41). -/
def ringOffset (q : BitVec 20) (off : Nat) : Nat := q.toNat + off / 512 * 2 ^ 20

/-- A shard's new entry, sent to every other member along the replica axis. -/
def ringDeliver (s : State) (r : BitVec 10) (q : BitVec 20) (fmt : ElemType) (bs : List Byte) : State :=
  let d := cdOf s r.toNat
  let ports := (portsFor s d).map (fun l => (l, maxPayload (portAt s l)))
  let course := BitVec.ofNat 32 s.crs.course.toNat
  if ports.isEmpty then s
  else
    let ms := cutStream ports (4096 * elemBits fmt / 8) 0 bs.length 0 bs
    ((axisGroup s.lnk (cdAxis d)).filter (· ≠ s.lnk.rank)).foldl (fun a dst => ms.foldl (fun b m =>
      transmit b m.1 (ownMsg b m.1 0 dst (r.zeroExtend 16) course (ringOffset q m.2.1)
        (m.2.1 + m.2.2.length == bs.length) m.2.2)) a) s

def ringPart (l : List (BitVec 20 × Mem × Nat)) (q : BitVec 20) : Mem × Nat :=
  match l.find? (fun e => e.1 == q) with
  | some e => e.2
  | none => ([], 0)

/-- A delivery that arrives: once whole, the link engine of the mirror's eave takes it to stages 6 to 8. -/
def takeRing (s : State) (off : Nat) (bs : List Byte) : State :=
  let q := BitVec.ofNat 20 off
  let e := shardEntry s q
  let old := ringPart s.lnk.rings q
  let m := memWrite old.1 (off / 2 ^ 20 * 512) bs
  let total := entrySize (gFmt (groupEntry s (shGroup e))) (shElems e)
  let rest := s.lnk.rings.filter (fun r => r.1 != q)
  if old.2 + bs.length < total then
    { s with lnk := { s.lnk with rings := rest ++ [(q, m, old.2 + bs.length)] } }
  else
    let s1 := { s with lnk := { s.lnk with rings := rest } }
    if s.upd.lstop then s1
    else
      let k := 8 + shEave e
      enqueueReq s1 k { rafter := none, inst := none, group := shGroup e, shard := q, src := .hbm, vals := []
                        entry := some (memRead m 0 total), wgen := unitWgen s1 (updUnitId k), tag := 0, served := false }

/-! ### Stages 6 to 8 (R389) -/

/-- A shard leaves without a ring pass: its group is skipped. -/
def leaveSkipped (s : State) (k : Nat) (j : UpdJob) : State :=
  let s0 := hitEave s (shEave (shardEntry s j.req.shard)) 0x212 1
  let s1 := if j.groupSkip then s0 else updUu s0 k (fun u => { u with skipGroup := satInc16 u.skipGroup })
  dropJob s1 k

/-- The ring pass of a group of depth 1 waits for the shard's digest (R470). -/
def digestPending (s : State) (j : UpdJob) : Bool :=
  (groupAt s j.req.group).depth == 0 && s.lnk.digest.running &&
  !(s.lnk.digest.own.any (fun e => e.1 == j.req.shard))

/-- A mirror shard whose ring entry is written in this step (R390). -/
def noteMirror (s : State) (q : BitVec 20) : State := { s with upd := { s.upd with taken := s.upd.taken ++ [q] } }

/-- Stages 7 and 8. A second ring delivery for a mirror past stage 6 in the step is discarded (R390). -/
def passRing (s : State) (k : Nat) (j : UpdJob) (hw : HwCheck) : State :=
  let mirror := j.req.entry.isSome
  if mirror && s.upd.taken.contains j.req.shard then
    dropJob (event s (updUnitId k) 0x9B (j.req.shard.zeroExtend 32) 0) k
  else
  let c := nmuCheck s k j.req.shard hw
  if !c.2 then c.1
  else
    let p := ringPass c.1 k j
    let r := (if mirror && p.2.isSome then noteMirror p.1 j.req.shard else p.1, p.2)
    match r.2, repDesc s with
    | some bs, some d =>
      if s.upd.lstop || s.saf.hold || shMirror (shardEntry s j.req.shard) || j.req.entry.isSome then r.1
      else ringDeliver r.1 d j.req.shard (gFmt (groupEntry s j.req.group)) bs
    | _, _ => r.1

/-- GUARD_WAIT_SATISFIED: stages 6 to 8 of the unit's oldest shard. -/
def guardWait (s : State) (u : UnitId) (hw : HwCheck) : State :=
  match updIndex u with
  | none => s
  | some k =>
    if !working s then s
    else
      let s0 := takeUnitReplies s k
      match (uuAt s0 k).jobs with
      | [] => s0
      | j :: _ =>
        if j.stage ≠ 5 ∨ !guardDone s0 k j.req then s0
        else
          let a := tryAccept s0 k j
          let s1 := setHead a.1 k a.2
          let g := groupAt s1 j.req.group
          if a.2.groupSkip ∨ g.st = 3 then leaveSkipped s1 k a.2
          else if gAgree (groupEntry s1 j.req.group) && j.req.entry.isNone && g.result.isNone then s1
          else if digestPending s1 a.2 then s1
          else passRing s1 k a.2 hw

/-! ### Global agreement (R385, R452, R469) -/

/-- The place of a group among those that use global agreement with its descriptor. -/
def agreePlace (s : State) (g : BitVec 8) : Nat :=
  ((usedGroups s).filter (fun h => gAgree (groupEntry s h) && gAgDesc (groupEntry s h) == gAgDesc (groupEntry s g)
    && decide (h < g))).length

/-- FLAG_REDUCE_START: the ridge has every owned shard's flag of a group and starts its flag-reduce. -/
def flagReduceStart (s : State) (g : BitVec 8) : State :=
  let v := groupAt s g
  let e := groupEntry s g
  if !working s || !gAgree e || v.reduceAt.isSome || v.result.isSome || !flagsComplete s g then s
  else
    let s1 := updGroup s g (fun v => { v with reduceAt := some s.now })
    let xfer := BitVec.ofNat 16 (agreePlace s g % 64 * 1024 + (gAgDesc e).toNat)
    startFlag s1 { bareInst s1 3 xfer (cdOf s1 (gAgDesc e).toNat) 0 0xFFFF with agree := some g } (flagOr v)

/-- AGREEMENT_RESULT: the result of a group's flag-reduce reaches the ridge. -/
def agreementResult (s : State) (g : BitVec 8) : State :=
  match s.lnk.insts.find? (fun i => i.agree == some g && i.done) with
  | none => s
  | some i =>
    let s1 := dropInst s i
    let v := groupAt s g
    if v.timedOut then
      (if i.flag then s1 else markSuspects s1 (ownedShards s1 g ++ (groupShards s1 g).filter (fun q =>
        shMirror (shardEntry s1 q))))
    else if v.result.isSome then s1
    else countResult s1 g i.flag false

/-! ### Digests (R470 to R472) -/

def insertShard (q : BitVec 20) : List (BitVec 20) → List (BitVec 20)
  | [] => [q]
  | p :: l => if q ≤ p then q :: p :: l else p :: insertShard q l

/-- Every shard, in ascending order. -/
def allShards (s : State) : List (BitVec 20) :=
  ((usedGroups s).flatMap (groupShards s)).foldl (fun l q => insertShard q l) []

def preamble (s : State) (q : BitVec 20) (e : Nat) : List Byte :=
  bytesOf 4 q.toNat ++ [shGroup e] ++ bytesOf 1 (field (groupEntry s (shGroup e)) 8 8) ++ [0, 0] ++
  bytesOf 4 (groupAt s (shGroup e)).ver.toNat ++ bytesOf 4 (shRows e) ++ bytesOf 4 (shCols e) ++
  List.replicate 44 0

/-- What an eave unit hashes after the preamble: its reads in order, none where one has an access fault (R411). -/
def digestRead (k : Nat) : State → List (Nat × Nat) → State × Option (List Byte)
  | s, [] => (s, some [])
  | s, (a, n) :: l =>
    match unitRead s k a n with
    | (s1, none) => (s1, none)
    | (s1, some bs) =>
      match digestRead k s1 l with
      | (s2, none) => (s2, none)
      | (s2, some rest) => (s2, some (bs ++ rest))

/-- The areas of a shard's entry digest (false) and of its state digest (true). -/
def digestAreas (s : State) (q : BitVec 20) (kind : Bool) : List (Nat × Nat) :=
  let e := shardEntry s q
  let g := shGroup e
  let m := momBytes (progAt s (gProg (groupEntry s g))) e
  let lo := liveOff s g e
  if kind then [(shMaster e + lo, 4 * shElems e), (shM1 e + lo, m.1), (shM2 e + lo, m.2)]
  else [(entryAddr s g e (groupAt s g).head, entrySize (gFmt (groupEntry s g)) (shElems e))]

/-- One digest of a pass, added to those before it; none after an access fault. -/
def passDigest (a : State × Option (List (BitVec 20 × Bool × BitVec 512))) (w : BitVec 20 × Bool) :
    State × Option (List (BitVec 20 × Bool × BitVec 512)) :=
  match a.2 with
  | none => a
  | some l =>
    match digestRead (shEave (shardEntry a.1 w.1)) a.1 (digestAreas a.1 w.1 w.2) with
    | (s1, none) => (s1, none)
    | (s1, some bs) => (s1, some (l ++ [(w.1, w.2, Config.sha3 (preamble a.1 w.1 (shardEntry a.1 w.1) ++ bs))]))

/-- The digests that a pass computes (R470). -/
def digestWork (s : State) : List (BitVec 20 × Bool) :=
  (allShards s).flatMap (fun q => (q, false) ::
    (if axisSize s.lnk s.lnk.saxis.toNat > 1 && !shMirror (shardEntry s q) then [(q, true)] else []))

/-- Both kinds of digest of every shard. -/
def passDigests (s : State) : State × Option (List (BitVec 20 × Bool × BitVec 512)) :=
  (digestWork s).foldl passDigest (s, some [])

/-- Bytes that the digest engines hash in a pass, counted at each eave unit. -/
def countHashed (s : State) : State :=
  (allShards s).foldl (fun a q =>
    let e := shardEntry s q
    let m := momBytes (progAt s (gProg (groupEntry s (shGroup e)))) e
    hitEave a (shEave e) 0x220 (64 + entrySize (gFmt (groupEntry s (shGroup e))) (shElems e) +
      (if axisSize s.lnk s.lnk.saxis.toNat > 1 && !shMirror e then 64 + 4 * shElems e + m.1 + m.2 else 0))) s

def ownOf (d : Digest) (kind : Bool) : List (BitVec 20 × BitVec 512) :=
  (d.own.filter (fun e => e.2.1 == kind)).map (fun e => (e.1, e.2.2))

def digestBytes (d : BitVec 512) : List Byte := bytesOf 64 d.toNat

def roofDigest (d : Digest) (kind : Bool) : BitVec 512 :=
  Config.sha3 ((ownOf d kind).flatMap (fun e => digestBytes e.2))

def digestAxis (s : State) (kind : Bool) : Nat := if kind then s.lnk.saxis.toNat else s.lnk.axis.toNat

def digestPeers (s : State) (kind : Bool) : List (BitVec 10) :=
  (axisGroup s.lnk (digestAxis s kind)).filter (· ≠ s.lnk.rank)

/-- The first port that can carry system traffic to a rank. -/
def railTo (s : State) (r : BitVec 10) : Option Nat :=
  (List.range 8).find? (fun l => portReady s l && peerValid (portAt s l) r)

/-- A DIGEST payload to one member, in messages; XFER says which kind, and roof or shards (log 42). -/
def sendDigest (s : State) (kind perShard : Bool) (dst : BitVec 10) (bs : List Byte) : State :=
  match railTo s dst with
  | none => s
  | some l =>
    (cutStream [(l, maxPayload (portAt s l))] 8192 0 bs.length 0 bs).foldl (fun a m =>
      transmit a l (ownMsg a l 6 dst (BitVec.ofNat 16 (b2n kind + 2 * b2n perShard))
        (BitVec.ofNat 32 s.crs.step.toNat) m.2.1 (m.2.1 + m.2.2.length == bs.length) m.2.2)) s

def setDigest (s : State) (d : Digest) : State := { s with lnk := { s.lnk with digest := d } }

/-- One entry of the divergence list (R472). -/
def divEntry (q : BitVec 20) (kind : Bool) (rank : Nat) : List Byte :=
  bytesOf 8 (q.toNat + b2n kind * 2 ^ 20 + rank * 2 ^ 32)

/-- A shard written to the divergence list. -/
def listShard (s : State) (e : BitVec 20 × Bool × Nat) : State :=
  let at_ := s.lnk.divlist.toNat + 8 * s.lnk.divCount
  let w := unifiedWrite s none at_ (divEntry e.1 e.2.1 e.2.2)
  let s1 := if w.2 then w.1 else accessFault w.1 ridgeUnit at_ 3
  { s1 with lnk := { s1.lnk with divCount := s1.lnk.divCount + 1, listed := s1.lnk.listed ++ [e.1] } }

/-- Shards marked suspect by a comparison, and those that update has marked since the last one: each is
written to the list, with event DIVERG and vector 4 (R472). -/
def enterSuspects (s : State) (l : List (BitVec 20 × Bool × Nat)) : State :=
  let marked := (s.upd.suspects.filter (fun q => !s.lnk.listed.contains q && !l.any (fun e => e.1 == q))).map
    (fun q => (q, false, 0))
  let all := l ++ marked
  if all.isEmpty then s
  else
    let s1 := { s with upd := { s.upd with
      suspects := s.upd.suspects ++ (l.map (·.1)).filter (fun q => !s.upd.suspects.contains q) } }
    sendMsix (event (all.foldl listShard s1) ridgeUnit 0xBA (BitVec.ofNat 32 all.length) 0) 4

/-- The digest that a member sent for the `i`-th shard of a kind. -/
def peerDigest (d : Digest) (kind : Bool) (r : BitVec 10) (i : Nat) : Option (BitVec 512) :=
  match d.shards.find? (fun e => e.1 == r && e.2.1 == kind) with
  | some e => if 64 * i + 64 ≤ e.2.2.2 then some (BitVec.ofNat 512 (memWord e.2.2.1 (64 * i) 64)) else none
  | none => none

/-- Shards whose digest differs from another member's, with the lowest such rank. -/
def divergent (s : State) (kind : Bool) : List (BitVec 20 × Bool × Nat) :=
  let d := s.lnk.digest
  ((ownOf d kind).mapIdx (fun i e => (i, e))).filterMap (fun e =>
    let bad := (digestPeers s kind).filter (fun r => peerDigest d kind r e.1 != some e.2.2)
    match bad with
    | [] => none
    | r :: rs => some (e.2.1, kind, (rs.foldl (fun a q => if q < a then q else a) r).toNat))

/-- A kind's comparison is over. -/
def endKind (s : State) (kind : Bool) (l : List (BitVec 20 × Bool × Nat)) : State :=
  let d := s.lnk.digest
  enterSuspects (setDigest s { d with
    kinds := d.kinds.filter (fun k => k.1 != kind)
    roofs := d.roofs.filter (fun e => e.2.1 != kind)
    shards := d.shards.filter (fun e => e.2.1 != kind) }) l

/-- The comparison of one kind, as far as what has arrived allows (R471). -/
def compareKind (s : State) (k : Bool × Bool) : State :=
  let d := s.lnk.digest
  let peers := digestPeers s k.1
  let got := fun (r : BitVec 10) => d.roofs.find? (fun e => e.1 == r && e.2.1 == k.1)
  if d.running then s
  else if k.2 then
    (if peers.all (fun r => (d.shards.find? (fun e => e.1 == r && e.2.1 == k.1)).any (fun e =>
        decide (64 * (ownOf d k.1).length ≤ e.2.2.2)))
     then endKind s k.1 (divergent s k.1) else s)
  else if peers.all (fun r => (got r).any (fun e => e.2.2 == roofDigest d k.1)) then endKind s k.1 []
  else if peers.all (fun r => (got r).isSome) then
    let bs := (ownOf d k.1).flatMap (fun e => digestBytes e.2)
    let s1 := setDigest s { d with kinds := d.kinds.map (fun q => if q.1 == k.1 then (q.1, true) else q) }
    peers.foldl (fun a r => sendDigest a k.1 true r bs) s1
  else s

def compareDigests (s : State) : State := s.lnk.digest.kinds.foldl compareKind s

/-- A digest pass starts (R470). -/
def digestStart (s : State) : State :=
  setDigest s { s.lnk.digest with
    running := true, own := []
    kinds := (false, false) :: (if axisSize s.lnk s.lnk.saxis.toNat > 1 then [(true, false)] else []) }

/-- DIGEST_PASS_COMPLETE: the pass ends and the roof digests go out. -/
def digestPassComplete (s : State) (hw : HwCheck) : State :=
  if !s.lnk.digest.running then s
  else
    let c := linkCheck s 0 0 [0xB1, 0xB3] hw
    if !c.2 then c.1
    else
      let r := passDigests c.1
      match r.2 with
      | none => setDigest r.1 { r.1.lnk.digest with running := false, own := [], kinds := [] }
      | some own =>
      let d := { r.1.lnk.digest with running := false, own := own }
      let s1 := setDigest (countHashed r.1) d
      compareDigests (d.kinds.foldl (fun a k => (digestPeers a k.1).foldl (fun b r =>
        sendDigest b k.1 false r (digestBytes (roofDigest d k.1))) a) s1)

/-- A DIGEST message: another member's roof digest, or its shard digests. -/
def takeDigest (s : State) (src : BitVec 10) (m : LinkMsg) : State :=
  let d := s.lnk.digest
  let kind := m.xfer.getLsbD 0
  if m.xfer.getLsbD 1 then
    let old := d.shards.find? (fun e => e.1 == src && e.2.1 == kind)
    let mem := match old with
      | some e => e.2.2
      | none => ([], 0)
    compareDigests (setDigest s { d with
      shards := d.shards.filter (fun e => !(e.1 == src && e.2.1 == kind)) ++
        [(src, kind, memWrite mem.1 m.offset.toNat m.payload, mem.2 + m.payload.length)] })
  else
    compareDigests (setDigest s { d with
      roofs := d.roofs.filter (fun e => !(e.1 == src && e.2.1 == kind)) ++
        [(src, kind, BitVec.ofNat 512 (natOfBytes m.payload))] })

/-! ### Receiving (R439 to R446) -/

/-- A message received, in the form it is kept. -/
def toMsg (s : State) (typ : BitVec 4) (m : IxMsg) : LinkMsg :=
  { typ := typ, dst := s.lnk.rank, last := m.last, retx := m.retx, psn := m.psn, apsn := m.apsn
    xfer := m.xfer, rgen := m.rgen, wgen := m.wgen, course := m.course, offset := m.offset
    payload := m.payload, sentAt := 0 }

/-- CRC and checksum, then the sender (R444, R445): the second component says that the message goes on. -/
def rxCheck (s : State) (l : Nat) (m : IxMsg) : State × Bool :=
  let p := portAt s l
  if !portReady s l then (s, false)
  else if !m.crcOk then
    let s1 := hitPort (updPort s l (fun p => { p with badCrc := satInc16 p.badCrc })) l 0x303 1
    if (connAt p m.src).badPsn = some m.psn then
      let s2 := noteLink s1 l 0xB0 m.src
      (lastingResponse s2 (linkUnit l) 0xB0 (portAt s2 l).info 0 0, false)
    else (updConn s1 l m.src (fun c => { c with badPsn := some m.psn }), false)
  else if !peerValid p m.src || !m.addrOk then
    (updPort s l (fun p => { p with foreign := satInc16 p.foreign }), false)
  else (s, true)

/-- A message past its checks acknowledges what APSN says (R442). -/
def rxGate (s : State) (l : Nat) (m : IxMsg) : State × Bool :=
  let g := rxCheck s l m
  if g.2 then (acknowledge g.1 l m.src m.apsn, true) else g

/-- An ACK that carries no data. -/
def sendAck (s : State) (l : Nat) (r : BitVec 10) : State := sendControl s l (ownMsg s l 1 r 0 0 0 false [])

def staleDrop (s : State) (l : Nat) : State :=
  updPort s l (fun p => { p with stale := satInc16 p.stale })

/-- A message with a PSN: taken in order only; the first one after a gap is answered with a NAK, and every
16 accepted with an ACK (R442). -/
def rxSeq (s : State) (l : Nat) (m : IxMsg) : State × Bool :=
  let g := rxGate s l m
  if !g.2 then g
  else
    let c := connAt (portAt g.1 l) m.src
    if !c.isOpen then (g.1, false)
    else if m.psn = c.rx then
      let s1 := updConn (hitPort g.1 l 0x301 m.payload.length) l m.src (fun c => { c with
        rx := c.rx + 1, nak := false, badPsn := none, sinceAck := c.sinceAck + 1
        ackFrom := match c.ackFrom with
          | some t => some t
          | none => some s.now })
      if 16 ≤ c.sinceAck + 1 then (sendAck s1 l m.src, true) else (s1, true)
    else if (m.psn - c.rx).toNat < 2 ^ 31 ∧ !c.nak then
      let s1 := sendControl g.1 l (ownMsg g.1 l tNak m.src 0 0 0 false [])
      (updConn s1 l m.src (fun c => { c with nak := true }), false)
    else (g.1, false)

def stagedBytes (p : LnkPort) : Nat := p.staged.foldl (fun a m => a + m.2.payload.length) 0

/-- The instance that a message names has started here. -/
def started (s : State) (m : IxMsg) : Bool :=
  s.lnk.insts.any (fun i => i.xfer == m.xfer && i.course == m.course)

def isRing (s : State) (m : IxMsg) : Bool := (repDesc s).any (fun r => m.xfer == r.zeroExtend 16)

/-- Data that is of no more use: its instance has ended, or its sender has aborted the course. -/
def isStale (s : State) (m : IxMsg) : Bool :=
  s.lnk.ended.contains (m.xfer, m.course) || s.lnk.aborted.contains (m.course, m.src)

/-- An import from this rank is running, and the message answers it (R446, R476). -/
def importing (s : State) (m : IxMsg) : Bool :=
  m.xfer == 0xFFFF &&
  s.hst.xfers.any (fun x => x.imp && x.o.byRank && !x.failed && BitVec.ofNat 10 x.o.rank.toNat == m.src)

def answerCurrent (s : State) (l : Nat) (m : IxMsg) : Bool :=
  m.rgen == s.crs.resetGen && m.wgen == (portAt s l).wgen

/-- DATA, or a FLAG of an instance that has not started, needs a place in the staging area (R467). -/
def mustStage (s : State) (m : IxMsg) : Bool :=
  !started s m && !isStale s m && !isRing s m && !importing s m

/-- In safe hold, a flag-reduce of global agreement that a peer starts is answered with FLAG 1, once
(R526). -/
def holdFlag (s : State) (m : IxMsg) : State :=
  let d := cdOf s (m.xfer.toNat % 1024)
  let used := (usedGroups s).any (fun g =>
    gAgree (groupEntry s g) && (gAgDesc (groupEntry s g)).toNat == m.xfer.toNat % 1024)
  if !used then s
  else
    let s1 := match portsFor s d with
      | [] => s
      | l :: _ => ((axisGroup s.lnk (cdAxis d)).filter (· ≠ s.lnk.rank)).foldl (fun a r =>
          transmit a l (ownMsg a l 5 r m.xfer m.course 0 true (bytesOf 4 1))) s
    { s1 with lnk := { s1.lnk with ended := s1.lnk.ended ++ [(m.xfer, m.course)] } }

/-- DATA and FLAG (R453, R467, R469). -/
def rxInstance (s : State) (l : Nat) (typ : BitVec 4) (m : IxMsg) : State :=
  if mustStage s m && decide (2 ^ 23 < stagedBytes (portAt s l) + m.payload.length) then
    let g := rxGate s l m
    if g.2 then staleDrop g.1 l else g.1
  else
    let g := rxSeq s l m
    if !g.2 then g.1
    else if isStale g.1 m then staleDrop g.1 l
    else if started g.1 m then takeMsg g.1 m.src (toMsg g.1 typ m)
    else if typ = 5 && g.1.saf.hold then holdFlag g.1 m
    else if typ = 0 && isRing g.1 m then takeRing g.1 m.offset.toNat m.payload
    else if typ = 0 && importing g.1 m then (if answerCurrent g.1 l m then g.1 else staleDrop g.1 l)
    else updPort g.1 l (fun p => { p with staged := p.staged ++ [(m.src, toMsg g.1 typ m)] })

/-- IXERTA_DATA; a failed check in the link engine delivers nothing. -/
def rxData (s : State) (l : Nat) (m : IxMsg) (hw : HwCheck) : State :=
  let c := linkCheck s l m.src [0xB1, 0xB2] hw
  if c.2 then rxInstance c.1 l 0 m else c.1

/-- IXERTA_NAK: every unacknowledged message from the one named is sent again (R443). -/
def rxNak (s : State) (l : Nat) (m : IxMsg) : State :=
  let g := rxGate s l m
  if g.2 then resendFrom g.1 l m.src m.apsn else g.1

/-- IXERTA_OPEN: the connection opens or starts again, and OPEN_ACK carries the request's generations. -/
def rxOpen (s : State) (l : Nat) (m : IxMsg) : State :=
  let g := rxCheck s l m
  if !g.2 then g.1
  else
    let answer := { ownMsg g.1 l 4 m.src 0 0 0 false [] with rgen := m.rgen, wgen := m.wgen }
    let s1 := updConn g.1 l m.src (fun c => { c with tx := 0, rx := 0 })
    openConn (sendControl s1 l answer) l m.src

/-- IXERTA_OPEN_ACK: an answer, taken when its generations are current (R446). -/
def rxOpenAck (s : State) (l : Nat) (m : IxMsg) : State :=
  let g := rxCheck s l m
  if !g.2 then g.1
  else if !answerCurrent g.1 l m then staleDrop g.1 l
  else if (connAt (portAt g.1 l) m.src).isOpen then g.1
  else openConn g.1 l m.src

/-- IXERTA_ABORT: the sender's group loses that course's instances (R466). -/
def rxAbort (s : State) (l : Nat) (m : IxMsg) : State :=
  let g := rxSeq s l m
  if !g.2 then g.1
  else
    let s1 := failWhere g.1 (fun i => i.course == m.course && i.group.contains m.src) 4
    { s1 with lnk := { s1.lnk with
      aborted := s1.lnk.aborted ++ [(m.course, m.src)]
      ports := s1.lnk.ports.map (fun p => { p with
        staged := p.staged.filter (fun e => !(e.1 == m.src && e.2.course == m.course)) }) } }

/-! ### Timers of a connection -/

/-- ACK_TIMER: 2 µs after the first message that is not acknowledged (R442). -/
def ackTimer (s : State) (l : Nat) (r : BitVec 10) : State :=
  match (connAt (portAt s l) r).ackFrom with
  | some t => if t + 200 ≤ s.now then sendAck s l r else s
  | none => s

/-- An import answered over a connection that is gone fails, with event CFAIL (R443, R465). -/
def failImports (s : State) (l : Nat) (r : BitVec 10) : State :=
  let mine := fun (x : XferJob) => x.imp && x.o.byRank && !x.failed && BitVec.ofNat 10 x.o.rank.toNat == r
  if railTo s r != some l then s
  else (s.hst.xfers.filter mine).foldl (fun a x => event a (linkUnit l) 0xB9 (x.o.first.zeroExtend 32) 0)
    { s with hst := { s.hst with xfers := s.hst.xfers.map (fun x => if mine x then { x with failed := true } else x) } }

/-- A failed connection: its transfers fail, and it opens again (R443, R465). -/
def failConn (s : State) (l : Nat) (r : BitVec 10) : State :=
  let c := connAt (portAt s l) r
  let s1 := event s (linkUnit l) 0xB8 (r.zeroExtend 32) 0
  let s2 := failImports (failWhere s1 (onConn c) 1) l r
  sendOpen (closeConn s2 l r) l r

/-- RESEND_TIMEOUT: the oldest unacknowledged message has waited RTO µs (R443). On a connection that is
not open, OPEN is sent again. -/
def resendTimeout (s : State) (l : Nat) (r : BitVec 10) : State :=
  let p := portAt s l
  let c := connAt p r
  if !c.isOpen then sendOpen s l r
  else match c.kept with
    | [] => s
    | m :: _ =>
      if s.now < m.sentAt + 100 * p.rto.toNat then s
      else if p.retry.toNat ≤ c.timeouts + 1 then failConn s l r
      else resendFrom (updConn s l r (fun c => { c with timeouts := c.timeouts + 1 })) l r m.psn

/-! ### Ports, peers and PTP -/

/-- LINK_UP: the PHY has trained. -/
def linkUpEffect (s : State) (l : Nat) : State := openPort (updPort s l (fun p => { p with up := true })) l

/-- LINK_DOWN: instances with data on the port fail; its connections open again when it trains (Table 13.8). -/
def linkDownEffect (s : State) (l : Nat) : State :=
  if !(portAt s l).up then s
  else
    let s1 := (portAt s l).conns.foldl (fun a e => failImports a l (BitVec.ofNat 10 e.1)) (failWhere s (usesPort s l) 2)
    closePort (updPort s1 l (fun p => { p with up := false })) l

/-- Work outstanding on the connection with a rank. -/
def connBusy (s : State) (l : Nat) (r : BitVec 10) : Bool :=
  let c := connAt (portAt s l) r
  !c.kept.isEmpty || !c.waiting.isEmpty || (portAt s l).staged.any (fun e => e.1 == r) ||
  s.hst.xfers.any (fun x => x.imp && x.o.byRank && BitVec.ofNat 10 x.o.rank.toNat == r)

/-- A peer-table entry takes effect. Where it replaces a valid one, the old connection closes; with work outstanding on it
the link engine's work generation rises, and what it carried and the requests that the engine holds are dropped
(R448, R81, R397). -/
def applyPeer (l : Nat) (s : State) (e : BitVec 10 × BitVec 256) : State :=
  let c := connAt (portAt s l) e.1
  let busy := peerValid (portAt s l) e.1 && connBusy s l e.1
  let g := (portAt s l).wgen
  let s0 := failWhere s (onConn c) 3
  let s1 := if busy then dropUnitWork (failImports s0 l e.1) (8 + l) else s0
  let dropped := c.kept ++ c.waiting
  let s2 := updPort s1 l (fun p => setConn { p with
    peers := tablePut 0 p.peers e.1.toNat e.2, wgen := if busy then g + 1 else g
    staged := if busy then p.staged.filter (fun m => m.1 != e.1) else p.staged } e.1 Conn.reset)
  let s3 := dropped.foldl (fun a m => event a (linkUnit l) 0xAB (m.xfer.zeroExtend 32) (m.dst.zeroExtend 32)) s2
  sendOpen s3 l e.1

/-- Peer-table writes that wait for step 3, applied. -/
def applyPeers (s : State) (l : Nat) : State :=
  let held := (portAt s l).peerHold
  held.foldl (applyPeer l) (updPort s l (fun p => { p with peerHold := [] }))

/-- PEER_TABLE_WRITE: held until step 3 of the next boundary sequence while a program runs. -/
def peerWrite (s : State) (l : Nat) (r : BitVec 10) (entry : BitVec 256) : State :=
  let s1 := updPort s l (fun p => { p with peerHold := p.peerHold ++ [(r, entry)] })
  if s.crs.running then s1 else applyPeers s1 l

/-- A Sync that the ridge uses: PTP runs, and its port, domain and transport are those selected (R449). -/
def ptpMine (s : State) (l : BitVec 3) (m : PtpSync) : Bool :=
  s.lnk.ptpEn && l == s.lnk.ptpPort && m.domain == s.lnk.ptpDomain && m.trans == s.lnk.ptpTrans

/-- A PTP event message disciplines the clock: its reading afterwards is the message's (log 107), and 16 measured offsets in
a row within ±250 ns lock it (R450). -/
def ptpSync (s : State) (l : BitVec 3) (m : PtpSync) : State :=
  if !ptpMine s l m then s
  else
    let a := m.offset.toInt.natAbs
    let good := if a ≤ 250 then s.lnk.ptpGood + 1 else 0
    let locked := if 1000 < a then false else s.lnk.ptpLocked || decide (16 ≤ good)
    let s1 := { s with lnk := { s.lnk with
      ptpOffset := m.offset, ptpGood := good, ptpLocked := locked, ptpTime := m.time.toNat, ptpAt := s.now } }
    if s.lnk.ptpLocked && !locked then event s1 (linkUnit l.toNat) 0xBC (m.offset.zeroExtend 32) 0 else s1

/-! ### Meanings -/

/-- Stages 6 to 8 (R389). -/
def execGuardWaitSatisfied (u : UnitId) (hw : HwCheck) (s : State) : Out State := .next (guardWait s u hw)

/-- The start of a group's flag-reduce (R385). -/
def execFlagReduceStart (g : BitVec 8) (s : State) : Out State := .next (flagReduceStart s g)

/-- The agreement result (R385). -/
def execAgreementResult (g : BitVec 8) (s : State) : Out State := .next (agreementResult s g)

/-- DATA (Table 13.3). -/
def execIxertaData (port : BitVec 3) (m : IxMsg) (hw : HwCheck) (s : State) : Out State :=
  .next (rxData s port.toNat m hw)

/-- ACK (R442). -/
def execIxertaAck (port : BitVec 3) (m : IxMsg) (s : State) : Out State := .next (rxGate s port.toNat m).1

/-- NAK (R443). -/
def execIxertaNak (port : BitVec 3) (m : IxMsg) (s : State) : Out State := .next (rxNak s port.toNat m)

/-- OPEN (R441). -/
def execIxertaOpen (port : BitVec 3) (m : IxMsg) (s : State) : Out State := .next (rxOpen s port.toNat m)

/-- OPEN_ACK (R441, R446). -/
def execIxertaOpenAck (port : BitVec 3) (m : IxMsg) (s : State) : Out State :=
  .next (rxOpenAck s port.toNat m)

/-- FLAG (R469). -/
def execIxertaFlag (port : BitVec 3) (m : IxMsg) (s : State) : Out State :=
  .next (rxInstance s port.toNat 5 m)

/-- DIGEST (R471). -/
def execIxertaDigest (port : BitVec 3) (m : IxMsg) (s : State) : Out State :=
  let g := rxSeq s port.toNat m
  .next (if g.2 then takeDigest g.1 m.src (toMsg g.1 6 m) else g.1)

/-- ABORT (R466). -/
def execIxertaAbort (port : BitVec 3) (m : IxMsg) (s : State) : Out State := .next (rxAbort s port.toNat m)

/-- The acknowledgement timer (R442). -/
def execAckTimer (port : BitVec 3) (rank : BitVec 10) (s : State) : Out State :=
  .next (ackTimer s port.toNat rank)

/-- The resend timer (R443). -/
def execResendTimeout (port : BitVec 3) (rank : BitVec 10) (s : State) : Out State :=
  .next (resendTimeout s port.toNat rank)

/-- The end of a digest pass (R471). -/
def execDigestPassComplete (hw : HwCheck) (s : State) : Out State := .next (digestPassComplete s hw)

/-- A PTP Sync (R449, R450). -/
def execPtpMessage (port : BitVec 3) (m : PtpSync) (s : State) : Out State := .next (ptpSync s port m)

/-- The link trains (R441). -/
def execLinkUp (port : BitVec 3) (s : State) : Out State := .next (linkUpEffect s port.toNat)

/-- The link goes down (Table 13.8). -/
def execLinkDown (port : BitVec 3) (s : State) : Out State := .next (linkDownEffect s port.toNat)

/-- A frame that is not the device's (R437, R438, R445): discarded and counted. -/
def execForeignFrame (port : BitVec 3) (_k : ForeignKind) (s : State) : Out State :=
  .next (updPort s port.toNat (fun p => { p with foreign := satInc16 p.foreign }))

/-- A write to the peer table (R448). -/
def execPeerTableWrite (port : BitVec 3) (rank : BitVec 10) (entry : BitVec 256) (s : State) : Out State :=
  .next (peerWrite s port.toNat rank entry)

end Sys2Proof.Machine
end

