-- ==== Sys2Proof/Machine/Host.lean ====
section
/-!
DEFINITION. The ridge's transfers, the completion queue (R483, R485, R488), output windows (R494, R525),
input windows and the host board (R492, R496), publication (R499 to R501), and the stop of a program (R491).
-/

namespace Sys2Proof.Machine

/-! ### The ridge's own transfers -/

/-- The image's own addresses lie in the unified range, or in lofts for a reduced-service image (R552). -/
def ridgeRead (s : State) (a n : Nat) : State × Option (List Byte) :=
  if s.prog.reduced then
    match loftOf s ridgeUnit .loft a with
    | some (t, o) => (s, some (memRead (trussAt s t).loft o n))
    | none => (accessFault s ridgeUnit a 2, none)
  else
    match unifiedRead s none a n with
    | (s1, .ok bs) => (s1, some bs)
    | (s1, f) => (fetchFault s1 ridgeUnit f, none)

def ridgeWrite (s : State) (a : Nat) (bs : List Byte) : State × Bool :=
  if s.prog.reduced then
    match loftOf s ridgeUnit .loft a with
    | some (t, o) => (updTruss s t (fun x => { x with loft := memWrite x.loft o bs }), true)
    | none => (accessFault s ridgeUnit a 2, false)
  else
    match unifiedWrite s none a bs with
    | (s1, true) => (s1, true)
    | (s1, false) => (accessFault s1 ridgeUnit a 3, false)

/-- Bytes of a stack's reserved region (Table 14.9). -/
def resvRead (s : State) (st off n : Nat) : List Byte := memRead (eaveAt s st).hbm (resvBase + off) n
def resvWrite (s : State) (st off : Nat) (bs : List Byte) : State :=
  updEave s st (fun v => { v with hbm := memWrite v.hbm (resvBase + off) bs })

def putHost (s : State) (a : Nat) (bs : List Byte) : State :=
  { s with hst := { s.hst with mem := memWrite s.hst.mem a bs } }

/-- Bytes cut or filled with zeros to a length. -/
def fitBytes (n : Nat) (bs : List Byte) : List Byte := bs.take n ++ zeros (n - bs.length)

/-! ### Completions (R483, R485, R488, Table 14.4) -/

/-- Ring and completion queue are in use (R483). -/
def ringInUse (s : State) : Bool :=
  s.hst.crEn && decide (6 ≤ s.hst.crLog2.toNat) && decide (s.hst.crLog2.toNat ≤ 16)

def ringSize (s : State) : Nat := 2 ^ s.hst.crLog2.toNat

/-- Free places of the completion queue, those reserved by fetched commands deducted (R485). -/
def cqFree (s : State) : Nat := ringSize s - s.hst.cqOut - s.hst.cqResv

/-- A place reserved for a command at its fetch. -/
def reserveCq (s : State) : State := { s with hst := { s.hst with cqResv := s.hst.cqResv + 1 } }

/-- Vector 3, when a completion has been written since it was last sent (R488). -/
def sendCpl (s : State) : State :=
  if s.hst.cplNew then sendMsix { s with hst := { s.hst with cplNew := false } } 3 else s

/-- A completion entry. -/
def cplBytes (s : State) (opc : Byte) (tag : W16) (status : Nat) (detail : List Byte) : List Byte :=
  bytesOf 2 tag.toNat ++ [opc, BitVec.ofNat 8 status] ++ bytesOf 4 (b2n s.hst.cqPhase) ++
  bytesOf 8 (if s.crs.running then s.crs.course.toNat else 0) ++ fitBytes 16 detail

/-- A command completes: its entry is written and its place is used; while the queue is not in use the
completion is lost. Vector 3 follows at once when no program runs, and after step 6 otherwise. -/
def complete (s : State) (opc : Byte) (tag : W16) (status : Nat) (detail : List Byte) : State :=
  let s0 := { s with hst := { s.hst with cqResv := s.hst.cqResv - 1 } }
  if ringInUse s && !s.saf.hwSafe then
    let s1 := putHost s0 (s.hst.cqBase.toNat + 32 * s.hst.cqTail.toNat) (cplBytes s opc tag status detail)
    let wrap := decide (s.hst.cqTail.toNat + 1 = ringSize s)
    let s2 := { s1 with hst := { s1.hst with
      cqTail := if wrap then 0 else s.hst.cqTail + 1
      cqPhase := s.hst.cqPhase != wrap
      cqOut := s.hst.cqOut + 1, cplNew := true } }
    let s3 := hitHost s2 0x3C3 1
    if s.crs.running then s3 else sendCpl s3
  else s0

/-- Two 32-bit words of DETAIL (R608). -/
def detailOf (n first : Nat) : List Byte := bytesOf 4 n ++ bytesOf 4 first
def noFirst : Nat := 0xFFFFFFFF

/-! ### Output windows (R494, R525) -/

def outWin (s : State) (w : Nat) : Option OutWinImg :=
  match s.prog.img with
  | some i => i.outWins.find? (fun o => o.win.toNat = w)
  | none => none

def inWin (s : State) (w : Nat) : Option InWinImg :=
  match s.prog.img with
  | some i => i.inWins.find? (fun o => o.win.toNat = w)
  | none => none

def pubAt (s : State) (p : Nat) : PubSet := s.hst.pubs.getD p PubSet.reset

def setPub (s : State) (p : Nat) (v : PubSet) : State :=
  { s with hst := { s.hst with pubs := s.hst.pubs.set p v } }

/-- Releases carry HOLD: a lasting fault is in force, or safe hold (R64, R526). -/
def holding (s : State) : Bool := s.saf.hold || !s.saf.inForce.isEmpty

/-- The first 60 bytes of a release record (Table 14.6). -/
def releaseHead (s : State) (o : OutWinImg) (len : Nat) (hold : Bool) : List Byte :=
  bytesOf 8 s.crs.course.toNat ++ [BitVec.ofNat 8 o.win.toNat] ++ zeros 3 ++ bytesOf 4 len ++
  bytesOf 8 (match o.pubset with
    | some p => (pubAt s p.toNat).pubStep.toNat
    | none => 0) ++
  bytesOf 4 (b2n hold + 2 * b2n s.crs.reranFlag + 4 * b2n s.crs.delayed) ++ zeros 32

/-- A record after `data` at a buffer's place: at the first 64 B boundary after a window's data. -/
def putRecord (s : State) (o : OutWinImg) (b : WinBind) (data : List Byte) (hold : Bool) : State :=
  let buf := b.addr.toNat + (s.crs.course.toNat % 2) * b.stride.toNat
  let head := releaseHead s o data.length hold
  let rec_ := head ++ bytesOf 4 (crc32c (data ++ head)).toNat
  let s1 := putHost (putHost s buf data) ((buf + o.size + 63) / 64 * 64) rec_
  if b.vec = 0 then s1 else sendMsix s1 b.vec

/-- A hold-only release: no data, HOLD 1. -/
def releaseHoldOnly (s : State) (o : OutWinImg) : State :=
  match s.hst.binds.find? (fun b => b.win = o.win) with
  | none => s
  | some b => putRecord s o b [] true

/-- A release; hold-only where the staging area cannot be read whole (R494). A window with no binding is
not released. -/
def releaseWin (s : State) (o : OutWinImg) : State :=
  match s.hst.binds.find? (fun b => b.win = o.win) with
  | none => s
  | some b =>
    match ridgeRead s o.addr.toNat o.size with
    | (s1, none) => putRecord s1 o b [] true
    | (s1, some bs) => putRecord s1 o b bs (holding s)

/-- The windows of a kind, in ascending number as the image lists them. -/
def winsOf (s : State) (k : WinKind) : List OutWinImg :=
  match s.prog.img with
  | some i => i.outWins.filter (fun o => o.kind = k)
  | none => []

/-- A SESSION window is released only while it is bound to an open session. -/
def sessionBound (s : State) (o : OutWinImg) : Bool := s.hst.sessions.any (fun x => x.ow = o.win)

def releaseDecision (s : State) : State := (winsOf s .decision).foldl releaseWin s
def releaseDecisionHold (s : State) : State := (winsOf s .decision).foldl releaseHoldOnly s
def releaseCourse (s : State) : State :=
  ((winsOf s .session).filter (sessionBound s)).foldl releaseWin ((winsOf s .course).foldl releaseWin s)

/-! ### Input windows and the host board (R492, R496, Table 14.7) -/

def postOf (s : State) (w : Nat) : W64 := tableGet 0 s.hst.posts w

/-- The POST word of an input window, with CONSUMED written, and in reduced service the copy of a newly
posted buffer (R492, R552). -/
def readPost (s : State) (w : InWinImg) : State :=
  let old := postOf s w.win.toNat
  if s.prog.reduced then
    let a := w.addr.toNat
    let p : W64 := BitVec.ofNat 64 (memWord s.hst.rsBuf a 8)
    let s1 := { s with hst := { s.hst with
      rsBuf := memPutWord s.hst.rsBuf (a + 8) 4 (field old.toNat 0 32)
      postsNext := tablePut 0 s.hst.postsNext w.win.toNat (p &&& 0x1FFFFFFFF) } }
    if p &&& 0x1FFFFFFFF = old then s1
    else (ridgeWrite s1 w.copyArea.toNat
      (memRead s.hst.rsBuf (a + 64 + field p.toNat 32 1 * w.size) w.size)).1
  else
    match ridgeRead s w.addr.toNat 8 with
    | (s1, none) => s1
    | (s1, some bs) =>
      let s2 := (ridgeWrite s1 (w.addr.toNat + 8) (bytesOf 4 (field old.toNat 0 32))).1
      { s2 with hst := { s2.hst with
        postsNext := tablePut 0 s2.hst.postsNext w.win.toNat (BitVec.ofNat 64 (natOfBytes bs) &&& 0x1FFFFFFFF) } }

/-- Every input window's POST read, for the course that starts next. -/
def readPosts (s : State) : State :=
  match s.prog.img with
  | some i => i.inWins.foldl readPost s
  | none => s

/-- Bytes 0 to 31 of HST_PUBp. -/
def pubBytes (p : PubSet) : List Byte :=
  let w := match p.perm with
    | some (_, standing, _) => 4 + 8 * b2n standing
    | none => 0
  bytesOf 8 (b2n p.active + 2 * b2n p.staged + w + 16 * b2n p.staging) ++ bytesOf 8 p.pubStep.toNat ++
  bytesOf 8 p.stageStep.toNat ++ bytesOf 8 (match p.perm with
    | some (_, _, st) => st.toNat
    | none => 0)

def iwinBytes (s : State) (w : Nat) : List Byte :=
  let p := tableGet 0 s.hst.postsNext w
  bytesOf 8 (p.toNat + (if p != postOf s w then 2 ^ 33 else 0))

def sessBytes (s : State) (course : W64) (k : Nat) : List Byte :=
  match s.hst.sessions.find? (fun x => x.num.toNat = k) with
  | none => zeros 16
  | some x =>
    bytesOf 8 (1 + 2 * b2n (x.course == course) + 2 ^ 8 * x.iw.toNat + 2 ^ 16 * x.ow.toNat) ++
      bytesOf 8 x.course.toNat

/-- The host board for the course that starts (Table 14.7). -/
def hostBoard (s : State) (course : W64) : List Byte :=
  bytesOf 8 course.toNat ++ bytesOf 4 (b2n !s.upd.lstop) ++ zeros 52 ++
  (List.range 64).flatMap (iwinBytes s) ++ zeros 448 ++
  (List.range 256).flatMap (sessBytes s course) ++ (List.range 16).flatMap (fun p => pubBytes (pubAt s p)) ++
  zeros 0x2A00

/-! ### Publication (R499 to R501) -/

def pubImg (s : State) (p : Nat) : Option PubImg :=
  match s.prog.img with
  | some i => i.pubs.find? (fun x => x.set.toNat = p)
  | none => none

def opPermit : Byte := 0x09

/-- A non-standing permission whose step is past completes as not staged (R501). -/
def staleCheck (s : State) (p : Nat) : State :=
  let v := pubAt s p
  match v.perm with
  | some (tag, false, st) =>
    if st.toNat < v.stageStep.toNat || (v.staging && decide (st.toNat < v.toStep.toNat)) then
      complete (setPub s p { v with perm := none }) opPermit tag 7 []
    else s
  | _ => s

/-- A set is published in step 4: ACTIVE toggles, PUBSTEP takes STAGESTEP, STAGED clears. -/
def publishSet (s : State) (p : Nat) : State :=
  let v := pubAt s p
  let v' := { v with active := !v.active, pubStep := v.stageStep, staged := false }
  match v.perm with
  | some (tag, false, st) =>
    if v.staged && st == v.stageStep then complete (setPub s p { v' with perm := none }) opPermit tag 0 []
    else s
  | some (_, true, st) => if v.staged && decide (st.toNat ≤ v.stageStep.toNat) then setPub s p v' else s
  | none => s

/-- Step 4; no publication is made in safe hold (R526). -/
def publishStep (s : State) : State :=
  if s.saf.hold then s
  else (List.range 16).foldl (fun a p => staleCheck (publishSet a p) p) s

/-- The shards of a set, owned and mirror. -/
def pubShards (s : State) (i : PubImg) : List (BitVec 20) := i.groups.flatMap (groupShards s)

/-- Staging starts, or starts again, after step 2 committed every group of the set (R500). -/
def stageSet (s : State) (step : W64) (p : Nat) : State :=
  match pubImg s p with
  | none => s
  | some i =>
    if !i.groups.isEmpty && i.groups.all (fun g => (groupAt s g).outcome == 1) then
      staleCheck (setPub s p { pubAt s p with staging := true, staged := false, left := pubShards s i
                                              toStep := step
                                              heads := i.groups.map (fun g => (g, (groupAt s g).head)) }) p
    else s

/-- A shard's new head entry, the one that the commit being staged gave its group, copied into the standby
copy inside its stack; the answer says whether the shard has been copied. -/
def copyShard (i : PubImg) (v : PubSet) (r : State × Bool) (q : BitVec 20) : State × Bool :=
  let s := r.1
  match i.copies.find? (fun c => c.1 = q) with
  | none => r
  | some (_, c0, c1) =>
    let e := shardEntry s q
    let g := shGroup e
    let k := shEave e
    let head := ((v.heads.find? (fun h => h.1 = g)).map Prod.snd).getD (groupAt s g).head
    match unitRead s k (entryAddr s g e head) (entrySize (gFmt (groupEntry s g)) (shElems e)) with
    | (s1, none) => (s1, false)
    | (s1, some bs) =>
      let w := unitWrite s1 k (if v.active then c0 else c1).toNat bs
      (w.1, r.2 && w.2)

/-- PUBLISH_STAGING_COMPLETE: every shard of the set has been copied (R500). Where a copy failed, the set
stays as it is, staging. -/
def stagingComplete (s : State) (p : Nat) : State :=
  let v := pubAt s p
  match pubImg s p with
  | none => s
  | some i =>
    if v.staging then
      let r := v.left.foldl (copyShard i v) (s, true)
      if r.2 then
        staleCheck (setPub r.1 p { v with staging := false, staged := true, stageStep := v.toStep, left := [] }) p
      else r.1
    else s

/-- The pending permission of a set completes with a status. -/
def endPermit (s : State) (p status : Nat) : State :=
  match (pubAt s p).perm with
  | some (tag, _, _) => complete (setPub s p { pubAt s p with perm := none }) opPermit tag status []
  | none => s

/-! ### A program stops (R491) -/

/-- A frame reservation of the schedule, and scheduled requests that are queued, are given up (R435). -/
def dropSchedule (s : State) : State :=
  { s with tier := { s.tier with
    schedEn := false, schedAddr := 0, schedCycle := 0, schedOwner := 0, schedRecs := [], issued := []
    lateSeen := [], resv := List.replicate 8 0
    queue := s.tier.queue.filter (fun r => !r.sched)
    frames := s.tier.frames.map (fun t => t.filter (fun e => e.2 ≠ .resv)) } }

/-- Settings written while the program ran take effect (R52). -/
def applySets (c : Crs) : Crs :=
  let c1 := c.heldSets.foldl (fun c h =>
    { c with source := h.source.getD c.source, period := h.period.getD c.period
             ptpOffset := h.offset.getD c.ptpOffset }) c
  { c1 with heldSets := [] }

/-- The program stops and is unloaded: spars return to zero, windows are unbound, sessions closed and the
publish state discarded, every pending permission cancelled. -/
def stopProgram (s : State) : State :=
  let s1 := (List.range 16).foldl (fun a p => endPermit a p 5) s
  let s2 := dropSchedule s1
  let c := applySets s2.crs
  { s2 with
    trs := s2.trs.map (fun t => { t with spars := [], waits := [], inputs := List.replicate 7 [], replies := [] })
    sparInbox := []
    crs := { c with running := false, phase := 0, starting := false, delayed := false, decBound := 0
                    minPeriod := 0, decLast := if c.running then c.decLen else c.decLast, part := 0, dec := 0, slotDone := false, decEnded := false, rerun := false
                    haltStop := false, waitNext := false, holdover := false, locked := false }
    prog := Prog.reset
    pwr := { s2.pwr with floor := 3 }
    upd := { s2.upd with groups := [], taken := [], uprog := []
                         units := s2.upd.units.map (fun u => { u with queue := [], jobs := [], waits := []
                                                                      resent := [] }) }
    lnk := { s2.lnk with insts := [], ended := [], ordinals := [], held := [], cdesc := [], rings := []
                         digest := { running := false, own := [], roofs := [], shards := [], kinds := [] } }
    saf := { s2.saf with hold := false, proven := false }
    hst := { s2.hst with binds := [], sessions := [], posts := [], postsNext := []
                         pubs := List.replicate 16 PubSet.reset } }

/-- PUBLISH_STAGING_COMPLETE (R500). -/
def execPublishStagingComplete (set : BitVec 4) (s : State) : Out State :=
  .next (stagingComplete s set.toNat)

end Sys2Proof.Machine
end

