-- ==== Sys2Proof/Machine/TierCmds.lean ====
section
/-!
DEFINITION. What the tier commands do once they take effect (R414 to R417, Table 12.5), and a CXL port's
way in and out of service (Table 12.12).
-/

namespace Sys2Proof.Machine

/-- The extents that a command names, in ascending order. -/
def extentsOf (first count : Nat) : List (BitVec 19) := (List.range count).map (fun k => BitVec.ofNat 19 (first + k))

/-- Frames of the extent are being zeroed, or it has an entry. -/
def extentTaken (s : State) (x : BitVec 19) : Bool :=
  entState (tierEntry s x) != stUnmapped || s.tier.allocs.any (fun j => j.left.contains x)

/-- The lowest free home of a port. -/
def freeHome (s : State) (c : Nat) : Option Nat :=
  let p := cxlAt s c
  let h := lowestFree 0 p.homes
  if h < homesFor p.units.toNat then some h else none

/-- The entry that an allocation writes (Table 12.1). -/
def allocEntry (o : TierAllocOps) (frame home : Nat) : Nat :=
  (if o.ro then stOpen else stResident) + b2n o.ro * 2 ^ 3 + b2n o.pin * 2 ^ 4 + o.width.toNat * 2 ^ 5 +
  b2n o.port * 2 ^ 7 + o.stack.toNat % 8 * 2 ^ 8 + frame * 2 ^ 12 + home * 2 ^ 24 +
  o.owner.toNat % 16 * 2 ^ 42

/-- Applied to the last allocation job. -/
def updLastAlloc (s : State) (f : AllocJob → AllocJob) : State :=
  let l := s.tier.allocs.mapIdx (fun i j => if i + 1 = s.tier.allocs.length then f j else j)
  { s with tier := { s.tier with allocs := l } }

/-- One extent of an allocation: its frame, and its home when read-only (R430, R434). -/
def allocOne (o : TierAllocOps) (s : State) (x : BitVec 19) : Option State :=
  let owner := o.owner.toNat
  match takeFrame s o.stack.toNat false owner with
  | none => none
  | some (f, s1) =>
    let s2 := setFrame s1 o.stack.toNat f (.used x)
    let add := fun (home : Nat) (a : State) => updLastAlloc a (fun j =>
      { j with left := j.left ++ [x], entries := j.entries ++ [(x, BitVec.ofNat 128 (allocEntry o f home))] })
    if o.ro then
      if homesUsed s2 owner < (s2.tier.cLimit.getD owner 0).toNat then
        match freeHome s2 (b2n o.port) with
        | none => none
        | some h => some (add h (updCxl s2 (b2n o.port) (fun p =>
            { p with homes := tablePut 0 p.homes h (x.toNat + 1) })))
      else none
    else some (add 0 s2)

/-- Extents in order until one is refused: the state, or the extent. -/
def allocAll (o : TierAllocOps) : List (BitVec 19) → State → State ⊕ BitVec 19
  | [], s => .inl s
  | x :: xs, s =>
    match allocOne o s x with
    | none => .inr x
    | some s1 => allocAll o xs s1

def opAlloc : Byte := 0x10
def opSeal : Byte := 0x11

/-- TIER.ALLOC refused whole: event ALLOCREF, and every extent counted (R415, R608). -/
def allocRefuse (s : State) (o : TierAllocOps) (status : Nat) (x : BitVec 19) : State :=
  complete (event s ridgeUnit 0xAC (x.zeroExtend 32) o.count) opAlloc o.tag status
    (detailOf o.count.toNat x.toNat)

/-- TIER.ALLOC. -/
def tierAlloc (s : State) (o : TierAllocOps) : State :=
  let xs := extentsOf o.first.toNat o.count.toNat
  match xs.find? (extentTaken s) with
  | some x => allocRefuse s o 1 x
  | none =>
    if xs.isEmpty then complete s opAlloc o.tag 0 (detailOf 0 noFirst)
    else
      match allocAll o xs { s with tier := { s.tier with
          allocs := s.tier.allocs ++ [{ tag := o.tag, left := [], entries := [] }] } } with
      | .inr x => allocRefuse s o 3 x
      | .inl s1 => s1

def bumpGen (s : State) : State := { s with tier := { s.tier with gen := s.tier.gen + 1 } }

/-- Frames' bytes are zeroed. -/
def zeroFrame (s : State) (e : Nat) : State :=
  updEave s (entStack e) (fun v => { v with hbm := tableClear v.hbm (frameBase e) (frameBase e + 2 ^ 24) })

/-- Jobs whose extents all have their entries complete. -/
def endAllocs (s : State) : State :=
  (s.tier.allocs.filter (fun j => j.left.isEmpty)).foldl
    (fun a j => complete a opAlloc j.tag 0 (detailOf 0 noFirst))
    { s with tier := { s.tier with allocs := s.tier.allocs.filter (fun j => !j.left.isEmpty) } }

/-- TIER_ALLOC_FRAME_ZEROED: the entry is written once the frame is zeroed. -/
def frameZeroed (s : State) (x : BitVec 19) : State :=
  match s.tier.allocs.find? (fun j => j.left.contains x) with
  | none => s
  | some j =>
    match j.entries.find? (fun e => e.1 = x) with
    | none => s
    | some (_, e) =>
      let s1 := bumpGen (setTierEntry (zeroFrame s e.toNat) x e.toNat)
      let l := s1.tier.allocs.map (fun k => { k with left := k.left.filter (· ≠ x) })
      endAllocs { s1 with tier := { s1.tier with allocs := l } }

/-- Seals whose extents are all BOTH complete. -/
def endSeals (s : State) : State :=
  (s.tier.seals.filter (fun j => j.left.isEmpty)).foldl
    (fun a j => complete a opSeal j.tag 0 (detailOf j.ignored j.firstIgnored.toNat))
    { s with tier := { s.tier with seals := s.tier.seals.filter (fun j => !j.left.isEmpty) } }

/-- The first of a list of extents, as DETAIL gives it. -/
def firstOf (l : List (BitVec 19)) : Nat := (l.head?.map (·.toNat)).getD noFirst

/-- TIER.SEAL: OPEN extents become SEALING; the others are ignored and counted. -/
def tierSeal (s : State) (o : TierOps) : State :=
  let xs := extentsOf o.first.toNat o.count.toNat
  let go := xs.filter (fun x => entState (tierEntry s x) = stOpen)
  let no := xs.filter (fun x => entState (tierEntry s x) ≠ stOpen)
  let s1 := go.foldl (fun a x => setTierEntry a x (setField (tierEntry a x) 0 3 stSealing)) s
  endSeals { s1 with tier := { s1.tier with seals := s1.tier.seals ++
    [{ tag := o.tag, left := go, ignored := no.length, firstIgnored := BitVec.ofNat 32 (firstOf no) }] } }

/-- TIER_SEAL_COMPLETE: the frame is thatched into its home and the extent is BOTH (R418 to R422). -/
def sealComplete (s : State) (x : BitVec 19) : State :=
  let e := tierEntry s x
  let c := entPort e
  if entState e = stSealing ∧ (cxlAt s c).serve ∧ (cxlAt s c).up then
    let bs := frameRead s e 0 (2 ^ 24)
    let r := thatchBlocks (entWidth e) 0 (blocksOf 4096 bs)
    let p := cxlAt s c
    let dev := memWrite (memWrite p.dev (homeDir (entHome e)) (r.1.flatMap (bytesOf 8)))
      (homeData p.units.toNat (entHome e)) r.2
    let s1 := hitCxl (setCxl s c { p with dev := dev }) c 0x381 (2 ^ 24)
    let s2 := bumpGen (setTierEntry s1 x (setField e 0 3 stBoth))
    let l := s2.tier.seals.map (fun j => { j with left := j.left.filter (· ≠ x) })
    endSeals { s2 with tier := { s2.tier with seals := l } }
  else s

def isMapped (s : State) (x : BitVec 19) : Bool := entState (tierEntry s x) != stUnmapped

/-- TIER.PIN: UNMAPPED extents are left and counted. -/
def tierPin (s : State) (o : TierOps) (pin : Bool) : State :=
  let xs := extentsOf o.first.toNat o.count.toNat
  let no := xs.filter (fun x => !isMapped s x)
  let s1 := (xs.filter (isMapped s)).foldl
    (fun a x => setTierEntry a x (setField (tierEntry a x) 4 1 (b2n pin))) s
  complete s1 0x12 o.tag 0 (detailOf no.length (firstOf no))

/-- A transfer of an extent is dropped by its port's work generation. -/
def dropTransfer (s : State) (c : Nat) (x : BitVec 19) : State :=
  event { s with tier := { s.tier with
      running := s.tier.running.filter (fun p => p.extent ≠ x)
      seals := s.tier.seals.map (fun j => { j with left := j.left.filter (· ≠ x) }) } }
    (cxlUnit c) 0xAB (x.zeroExtend 32) 0

def bumpCxlGen (s : State) (c : Nat) : State := updCxl s c (fun p => { p with wgen := p.wgen + 1 })

/-- One extent freed: any transfer of it dropped, frame and home released, the entry zero. -/
def freeExtent (s : State) (x : BitVec 19) : State :=
  let e := tierEntry s x
  let c := entPort e
  let s1 := if entState e = stPromoting ∨ entState e = stSealing then bumpCxlGen (dropTransfer s c x) c else s
  let s2 := if entState e = stHomed then s1 else releaseFrame s1 e
  let s3 := if entRo e = 1 then updCxl s2 c (fun p => { p with homes := tablePut 0 p.homes (entHome e) 0 })
            else s2
  bumpGen (setTierEntry { s3 with tier := { s3.tier with
    queue := s3.tier.queue.filter (fun r => r.extent ≠ x) } } x 0)

/-- TIER.FREE, in step 3. -/
def tierFree (s : State) (o : TierOps) : State :=
  let xs := extentsOf o.first.toNat o.count.toNat
  let no := xs.filter (fun x => !isMapped s x)
  let s1 := endSeals ((xs.filter (isMapped s)).foldl freeExtent s)
  complete s1 0x13 o.tag 0 (detailOf no.length (firstOf no))

/-- A promotion is abandoned: its frame is released and it is HOMED again. -/
def abandonPromo (s : State) (x : BitVec 19) : State :=
  let e := tierEntry s x
  setTierEntry (releaseFrame s e) x (setField (setField (setField e 0 3 stHomed) 12 12 0) 41 1 0)

/-- A CXL port out of service (Table 12.12): promotions and seals of the port are dropped, one event each; a
dropped seal returns its extent to OPEN. -/
def retireCxl (s : State) (c : Nat) : State :=
  let proms := (s.tier.running.filter (fun p => b2n p.port = c)).map (·.extent)
  let seals := (s.tier.seals.flatMap (·.left)).filter (fun x => entPort (tierEntry s x) = c)
  let s1 := updCxl s c (fun p => { p with serve := false, perst := false })
  let s2 := if proms.isEmpty && seals.isEmpty then s1 else bumpCxlGen s1 c
  let s3 := proms.foldl (fun a x => abandonPromo (dropTransfer a c x) x) s2
  let s4 := seals.foldl (fun a x =>
    setTierEntry (dropTransfer a c x) x (setField (tierEntry a x) 0 3 stOpen)) s3
  endSeals s4

/-- A warm reset (Table 12.12): promotions are abandoned; seals start again from their first block. -/
def tierReset (s : State) : State :=
  let s1 := s.tier.running.foldl (fun a p => abandonPromo a p.extent) s
  { s1 with tier := { s1.tier with running := [], issued := [], queue := [] } }

/-- The frame of an allocation is zeroed (R414). -/
def execTierAllocFrameZeroed (extent : BitVec 19) (s : State) : Out State := .next (frameZeroed s extent)
/-- A seal ends (R414). -/
def execTierSealComplete (extent : BitVec 19) (s : State) : Out State := .next (sealComplete s extent)

end Sys2Proof.Machine
end

