-- ==== Sys2Proof/Machine/Transfer.lean ====
section
/-!
DEFINITION. Export and import of shards (R474 to R476, Table 13.7). What the manual leaves open of their
transport, log 43: an export to a rank is one stream of records in DATA messages with XFER 0xFFFF; a REQ's
payload is FIRST 4 B, COUNT 4 B, CONTENT 1 B.
-/

namespace Sys2Proof.Machine

/-! ### Export records -/

def expMap (s : State) : Option Nat := imgAddr s (·.expmap)

/-- The link engine of a shard's eave, as a receiving unit. -/
def engineOf (s : State) (q : BitVec 20) : Nat := 8 + shEave (shardEntry s q)

/-- A shard's export-map entry, read by its link engine (R474). -/
def mapEntry (s : State) (q : BitVec 20) : State × List Byte :=
  match expMap s with
  | some a =>
    match unitRead s (engineOf s q) (a + 64 * q.toNat) 64 with
    | (s1, some bs) => (s1, bs)
    | (s1, none) => (s1, zeros 64)
  | none => (s, zeros 64)

/-- Type, address and bytes of a shard's content in its live state: head ring entry, master, M1, M2. -/
def contentOf (s : State) (q : BitVec 20) (c : Nat) : ElemType × Nat × Nat :=
  let e := shardEntry s q
  let g := shGroup e
  let fmt := gFmt (groupEntry s g)
  let mom := momBytes (progAt s (gProg (groupEntry s g))) e
  match c with
  | 0 => (fmt, entryAddr s g e (groupAt s g).head, entrySize fmt (shElems e))
  | 1 => (.fp32, shMaster e + liveOff s g e, 4 * shElems e)
  | 2 => (.fp32, shM1 e + liveOff s g e, mom.1)
  | _ => (.fp32, shM2 e + liveOff s g e, mom.2)

/-- The header of an export record with its CRC; `m` is the shard's map entry. -/
def exportHead (s : State) (q : BitVec 20) (c : Nat) (m data : List Byte) : List Byte :=
  let e := shardEntry s q
  let body := bytesOf 4 0x54525849 ++ bytesOf 2 1 ++
    [BitVec.ofNat 8 c, BitVec.ofNat 8 (typeCode (contentOf s q c).1)] ++ m.take 4 ++
    [shGroup e, m.getD 4 0] ++ zeros 2 ++ (m.drop 8).take 48 ++
    bytesOf 4 (groupAt s (shGroup e)).ver.toNat ++ bytesOf 4 q.toNat ++ bytesOf 8 s.crs.step.toNat ++
    bytesOf 8 data.length ++ bytesOf 2 s.lnk.rank.toNat ++ zeros 6 ++ digestBytes (Config.sha3 data) ++ zeros 92
  body ++ bytesOf 4 (crc32c (body ++ zeros 4)).toNat

/-- One record: header, data, padding to 64 B; none where the link engine could not read the shard. -/
def exportRecord (s : State) (q : BitVec 20) (c : Nat) : State × Option (List Byte) :=
  let k := contentOf s q c
  match (if k.2.2 = 0 then (s, some []) else unitRead s (engineOf s q) k.2.1 k.2.2) with
  | (s1, none) => (s1, none)
  | (s1, some bs) =>
    let m := mapEntry s1 q
    (m.1, some (exportHead s q c m.2 bs ++ bs ++ zeros ((64 - bs.length % 64) % 64)))

/-- The records of an export in ascending shard index and content; the count, the stream, and the first shard
that could not be read. -/
def exportAll : List (BitVec 20 × Nat) → State → State × Nat × List Byte × Option (BitVec 20)
  | [], s => (s, 0, [], none)
  | (q, c) :: rest, s =>
    match exportRecord s q c with
    | (s1, none) => (s1, 0, [], some q)
    | (s1, some bs) =>
      let r := exportAll rest s1
      (r.1, r.2.1 + 1, bs ++ r.2.2.1, r.2.2.2)

/-- Shards and content items that a transfer names. -/
def itemsOf (first count : Nat) (content : BitVec 4) : List (BitVec 20 × Nat) :=
  (List.range count).flatMap (fun i =>
    ((List.range 4).filter (fun c => content.getLsbD c)).map (fun c => (BitVec.ofNat 20 (first + i), c)))

/-- A stream of records sent to a rank; an answer carries the request's generations (R446). -/
def sendRecords (s : State) (dst : BitVec 10) (gens : Option (Byte × Byte)) (bs : List Byte) : State :=
  match railTo s dst with
  | none => s
  | some l =>
    (cutStream [(l, maxPayload (portAt s l))] 8192 0 bs.length 0 bs).foldl (fun a m =>
      let o := ownMsg a l 0 dst 0xFFFF (BitVec.ofNat 32 s.crs.course.toNat) m.2.1
        (m.2.1 + m.2.2.length == bs.length) m.2.2
      transmit a l (match gens with
        | some (r, w) => { o with rgen := r, wgen := w }
        | none => o)) s

def opExport : Byte := 0x18
def opImport : Byte := 0x19

def detailXfer (n : Nat) (q : Option (BitVec 20)) : List Byte :=
  detailOf n ((q.map (·.toNat)).getD noFirst)

/-- LINK.EXPORT takes effect; refused where no program with an export map is loaded. -/
def startExport (s : State) (o : LinkXferOps) : State :=
  if (expMap s).isNone then complete s opExport o.tag 1 (detailXfer 0 none)
  else { s with hst := { s.hst with xfers := s.hst.xfers ++ [{ o := o, imp := false, failed := false }] } }

def dropXfer (s : State) (j : XferJob) : State :=
  { s with hst := { s.hst with xfers := s.hst.xfers.erase j } }

/-- LINK_EXPORT_COMPLETE: the records of the export with this TAG are written and the command completes. -/
def exportComplete (s : State) (tag : W16) : State :=
  match s.hst.xfers.find? (fun j => !j.imp && j.o.tag == tag) with
  | none => s
  | some j =>
    let r := exportAll (itemsOf j.o.first.toNat j.o.count.toNat j.o.content) (dropXfer s j)
    let dst := BitVec.ofNat 10 j.o.rank.toNat
    let w := if j.o.byRank then (sendRecords r.1 dst none r.2.2.1, (railTo r.1 dst).isSome)
      else if r.2.2.1.isEmpty then (r.1, true)
      else unitWrite r.1 (engineOf s (BitVec.ofNat 20 j.o.first.toNat)) j.o.addr.toNat r.2.2.1
    complete w.1 opExport tag (if w.2 && r.2.2.2.isNone then 0 else 6)
      (detailXfer (if w.2 then r.2.1 else 0) r.2.2.2)

/-- IXERTA_REQ: another member's import request; the link engines export to it (R476). -/
def rxReq (s : State) (l : Nat) (m : IxMsg) : State :=
  let g := rxSeq s l m
  if !g.2 || (expMap g.1).isNone then g.1
  else
    let first := natOfBytes (m.payload.take 4)
    let count := natOfBytes ((m.payload.drop 4).take 4)
    let r := exportAll (itemsOf first count (BitVec.ofNat 4 (natOfBytes ((m.payload.drop 8).take 1)))) g.1
    sendRecords r.1 m.src (some (m.rgen, m.wgen)) r.2.2.1

/-! ### Import -/

/-- An import that may not run: event CFAIL, and the completion says so (R476). -/
def refuseImport (s : State) (o : LinkXferOps) : State :=
  complete (event s (linkUnit (engineOf s (BitVec.ofNat 20 o.first.toNat) - 8)) 0xB9 (BitVec.ofNat 32 o.first.toNat) 0)
    opImport o.tag 1 (detailXfer 0 none)

/-- LINK.IMPORT takes effect only while learning is stopped; from a rank, with a REQ to it. -/
def startImport (s : State) (o : LinkXferOps) : State :=
  if !s.upd.lstop || (expMap s).isNone then refuseImport s o
  else
    let s1 := { s with hst := { s.hst with xfers := s.hst.xfers ++ [{ o := o, imp := true, failed := false }] } }
    if o.byRank then
      match railTo s1 (BitVec.ofNat 10 o.rank.toNat) with
      | none => s1
      | some l => transmit s1 l (ownMsg s1 l 8 (BitVec.ofNat 10 o.rank.toNat) 0xFFFF
          (BitVec.ofNat 32 s.crs.course.toNat) 0 true
          (bytesOf 4 o.first.toNat ++ bytesOf 4 o.count.toNat ++ bytesOf 1 o.content.toNat))
    else s1

/-- A record as it lies in memory: what its header says, with its CRC, its type code (R203) and its DIGEST checked. -/
def parseRecord (head data : List Byte) : ExportRec :=
  let at_ := fun o n => natOfBytes ((head.drop o).take n)
  let words := fun o => wordsOf 4 (head.drop o)
  { crcOk := at_ 0 4 == 0x54525849 && at_ 4 2 == 1 && (typeOfCode (at_ 7 1)).isSome &&
      BitVec.ofNat 32 (at_ 0xFC 4) == crc32c (head.take 0xFC ++ zeros 4)
    digestOk := (head.drop 0x60).take 64 == digestBytes (Config.sha3 data)
    content := BitVec.ofNat 4 (at_ 6 1), typ := (typeOfCode (at_ 7 1)).getD .fp32
    tensor := BitVec.ofNat 32 (at_ 8 4), ndim := BitVec.ofNat 8 (at_ 0xD 1)
    dims := words 0x10, start := words 0x20, extent := words 0x30
    shard := BitVec.ofNat 20 (at_ 0x44 4), data := data }

/-- Up to `n` records read from an address by link engine `k`; reading ends at a record that cannot be read. -/
def readRecords (k : Nat) : Nat → Nat → State → State × List ExportRec
  | 0, _, s => (s, [])
  | n + 1, a, s =>
    match unitRead s k a 256 with
    | (s1, none) => (s1, [])
    | (s1, some head) =>
      let len := natOfBytes ((head.drop 0x50).take 8)
      match (if len = 0 then (s1, some []) else unitRead s1 k (a + 256) len) with
      | (s2, none) => (s2, [])
      | (s2, some data) =>
        let r := readRecords k n (a + 256 + (len + 63) / 64 * 64) s2
        (r.1, parseRecord head data :: r.2)

/-- The record is accepted: CRC and DIGEST check, the shard is one that the import names, its map entry and
its type agree (R476). -/
def recordOk (s : State) (o : LinkXferOps) (m : List Byte) (r : ExportRec) : Bool :=
  let k := contentOf s r.shard r.content.toNat
  r.crcOk && r.digestOk && decide (r.content.toNat < 4) && o.content.getLsbD r.content.toNat &&
  decide (o.first.toNat ≤ r.shard.toNat) && decide (r.shard.toNat < o.first.toNat + o.count.toNat) &&
  bytesOf 4 r.tensor.toNat == m.take 4 && r.ndim == m.getD 4 0 &&
  bytesOfWords (r.dims ++ r.start ++ r.extent) == (m.drop 8).take 48 &&
  r.typ == k.1 && r.data.length == k.2.2

/-- One record of an import: written over the live state, its shard's suspect mark cleared; or refused. -/
def importOne (o : LinkXferOps) (p : State × Nat × Option (BitVec 20)) (r : ExportRec) :
    State × Nat × Option (BitVec 20) :=
  let e := mapEntry p.1 r.shard
  let s := e.1
  let unit := linkUnit (shEave (shardEntry s r.shard))
  let refuse := fun (a : State) => (event a unit 0xB9 (BitVec.ofNat 32 r.shard.toNat) 0, p.2.1, match p.2.2 with
    | some q => some q
    | none => some r.shard)
  if recordOk s o e.2 r then
    match (if r.data.isEmpty then (s, true)
        else unitWrite s (engineOf s r.shard) (contentOf s r.shard r.content.toNat).2.1 r.data) with
    | (s1, false) => refuse s1
    | (s1, true) =>
      let s2 := { s1 with upd := { s1.upd with suspects := s1.upd.suspects.filter (· ≠ r.shard) }
                          lnk := { s1.lnk with listed := s1.lnk.listed.filter (· ≠ r.shard) } }
      (event s2 unit 0xBB (BitVec.ofNat 32 r.shard.toNat) (BitVec.ofNat 32 r.content.toNat), p.2.1 + 1, p.2.2)
  else refuse s

/-- LINK_IMPORT_COMPLETE: the oldest import's records, from memory or as a rank sent them; refused where learning has been
started again, and none where the connection has failed. -/
def importComplete (s : State) (recs : List ExportRec) : State :=
  match s.hst.xfers.find? (·.imp) with
  | none => s
  | some j =>
    let s1 := dropXfer s j
    let n := (itemsOf j.o.first.toNat j.o.count.toNat j.o.content).length
    if !s.upd.lstop then refuseImport s1 j.o
    else if j.failed then complete s1 opImport j.o.tag 6 (detailXfer 0 (some (BitVec.ofNat 20 j.o.first.toNat)))
    else
      let got := if j.o.byRank then (s1, recs)
        else readRecords (engineOf s (BitVec.ofNat 20 j.o.first.toNat)) n j.o.addr.toNat s1
      let r := got.2.foldl (importOne j.o) (got.1, 0, none)
      complete r.1 opImport j.o.tag (if r.2.2.isNone && r.2.1 == n then 0 else 6) (detailXfer r.2.1 r.2.2)

/-- LINK_EXPORT_COMPLETE (R475). -/
def execLinkExportComplete (tag : W16) (s : State) : Out State := .next (exportComplete s tag)
/-- LINK_IMPORT_COMPLETE (R476). -/
def execLinkImportComplete (recs : List ExportRec) (s : State) : Out State := .next (importComplete s recs)
/-- IXERTA_REQ (R476). -/
def execIxertaReq (port : BitVec 3) (m : IxMsg) (s : State) : Out State := .next (rxReq s port.toNat m)

end Sys2Proof.Machine
end

