-- ==== Sys2Proof/Machine/Rules.lean ====
section
/-!
DEFINITION. What the load checks of Table 8.2 ask of one instruction by itself, with no descriptor, slot or
neighbour in view: zero fields, firing conditions, types, operand fields, and the ranges of Table 6.6.
-/

namespace Sys2Proof.Machine

/-- A condition of Table 8.2 that does not hold: CODE, SUB, FOUND and LIMIT (Table 8.4). -/
structure Broken where
  code : Nat
  sub : Nat
  found : Nat
  limit : Nat
deriving DecidableEq, Repr

/-- A condition that is broken when `b` holds. -/
def brk (b : Bool) (code sub found limit : Nat) : List Broken :=
  if b then [{ code := code, sub := sub, found := found, limit := limit }] else []

/-- A field that must be zero (R202). -/
def zeroField (bs : List Bool) : List Broken := brk (bs.any id) 3 2 0 0

/-! ### The frame (LC-03, LC-04) -/

/-- CHAIN outside the vector class. -/
def noChain (f : Frame) : List Broken := brk f.chain 3 3 0 0

/-- FIRE is one of those that the instruction may carry (Tables 6.2 and 7.1). -/
def fireIn (f : Frame) (l : List Fire) : List Broken := brk (!l.contains f.fire) 4 1 (fireCode f.fire) 0

/-- Instructions that fire at once and are not in the vector class. -/
def plainFrame (f : Frame) : List Broken := noChain f ++ fireIn f [.none]

/-! ### Types -/

/-- The pairs of Table 4.2, by row; none for a type the tensor array does not accept. -/
def pairRow : ElemType → Option Nat
  | .mxfp4 => some 0
  | .e4m3 | .e5m2 => some 1
  | .mxfp8 | .mxfp6 => some 2
  | .int8 => some 3
  | .bf16 | .fp16 => some 4
  | .fp32 => some 5
  | .int16 | .int32 => none

def operandPairOk (a b : ElemType) : Bool := (pairRow a).isSome && pairRow a == pairRow b

/-- Destinations that may be rounded stochastically. -/
def rndOk : ElemType → Bool
  | .bf16 | .e4m3 | .e5m2 => true
  | _ => false

/-- FP32, BF16, FP16 and the FP8 types. -/
def floatType : ElemType → Bool
  | .fp32 | .bf16 | .fp16 | .e4m3 | .e5m2 => true
  | _ => false

def mxType : ElemType → Bool
  | .mxfp8 | .mxfp6 | .mxfp4 => true
  | _ => false

def isFp32 (t : ElemType) : Bool := t == .fp32

/-! ### Control and queue instructions -/

def setShBreaks (o : SetShOps) : List Broken :=
  zeroField [o.src && o.value != 0]

/-- WAIT.DEC and SIGNAL.ADD take V of at least 1 (LC-20). -/
def vBreaks (v : W32) : List Broken := brk (v == 0) 20 5 0 1

/-- T of an ARRIVE is 1 to 65,535. -/
def tBreaks (t : W16) : List Broken := brk (t == 0) 20 2 0 1

/-- N is 1 to 3; fields of a steering instruction beyond N, and those that JOIN and FORK do not use, are zero. -/
def steerBreaks (o : SteerOps) (fanned : Bool) : List Broken :=
  brk (o.n == 0) 3 1 0 0 ++ zeroField [decide (o.n.toNat < 2) && o.q2 != 0, decide (o.n.toNat < 3) && o.q3 != 0,
    fanned && o.cq != 0, fanned && o.shw]

def drainBreaks (f : Frame) (o : DrainOps) : List Broken :=
  noChain f ++ fireIn f [.none, .inp] ++ zeroField [f.fire == .none && o.need != 0] ++
  brk (f.fire == .inp && (o.need == 0 || decide (256 < o.need.toNat))) 3 1 o.need.toNat 256

/-! ### Stream, update and collective instructions -/

/-- `from` and `into` say whether the instruction may read from, or write into, a queue; `lists` whether it has
an index list. -/
def streamBreaks (f : Frame) (o : StreamOps) (fromQ intoQ lists : Bool) : List Broken :=
  plainFrame f ++
  zeroField [o.dq && o.dag != 0, !o.sq && !o.dq && o.qi != 0, !lists && o.iag != 0] ++
  brk ((o.sq && !fromQ) || (o.dq && !intoQ)) 12 3 0 0 ++
  brk (o.rnd && !rndOk o.dtype) 13 5 (typeCode o.dtype) 0

def updBreaks (o : UpdOps) : List Broken :=
  brk (o.src == .valley && decide (64 < o.vt0.toNat + o.vtn.toNat)) 27 2 (o.vt0.toNat + o.vtn.toNat) 64 ++
  brk (o.src != .valley && (o.vt0 != 0 || o.vtn != 0)) 27 5 o.vtn.toNat 0

/-- COLL.FR has no source (R245). -/
def collFrBreaks (o : CollOps) : List Broken := zeroField [o.sag != 0, o.shp != .planned]

/-! ### Tensor instructions (Table 7.3) -/

/-- The fields of a drain, zero for an instruction that never drains. -/
def drainFields (o : TensorOps) : List Bool :=
  [o.dag != 0, !isFp32 o.dtype, o.dq, o.qi != 0, o.rnd, o.sat]

def unsignedFields (o : TensorOps) : List Bool :=
  [o.auns && o.atype != .int8, o.buns && o.btype != .int8]

def tldBreaks (f : Frame) (o : TensorOps) : List Broken :=
  plainFrame f ++
  zeroField (drainFields o ++ [o.aag != 0, !isFp32 o.atype, o.auns, o.buns && o.btype != .int8, o.ws, o.buf, o.drn,
    o.vt != 0, o.clr]) ++
  brk (pairRow o.btype).isNone 13 1 (typeCode o.btype) 0

/-- DTYPE of a drain (R263): by the class of the buffer. -/
def drainTypeOk (o : TensorOps) : Bool :=
  if o.atype = .int8 then o.dtype = .int32 && !o.rnd && !o.sat else floatType o.dtype

def productBreaks (f : Frame) (o : TensorOps) : List Broken :=
  noChain f ++
  (if o.dq then brk (f.fire == .none) 4 2 0 0 ++ fireIn f [.none, .out] else fireIn f [.none]) ++
  zeroField (unsignedFields o ++ [o.ws && o.bag != 0, o.vt != 0, o.clr]) ++
  brk (!operandPairOk o.atype o.btype) 13 1 (typeCode o.atype) (typeCode o.btype) ++
  brk (o.drn && o.rnd && !rndOk o.dtype) 13 5 (typeCode o.dtype) 0 ++
  brk (o.drn && !drainTypeOk o) 13 7 (typeCode o.dtype) 0

def tmmvBreaks (f : Frame) (o : TensorOps) : List Broken :=
  plainFrame f ++
  zeroField (unsignedFields o ++ drainFields o ++ [o.drn, o.ws && o.bag != 0]) ++
  brk (!operandPairOk o.atype o.btype) 13 1 (typeCode o.atype) (typeCode o.btype) ++
  brk (o.atype == .int8 || o.btype == .int8) 13 2 0 0

/-! ### Vector instructions (Tables 7.4 to 7.6) -/

def anyOpnd : VOpnd → Bool
  | .none => false
  | _ => true

def isStream : VOpnd → Bool
  | .stream _ => true
  | _ => false

def isPass : VOpnd → Bool
  | .pass _ => true
  | _ => false

/-- How many of the operands a, b, c the operation takes. -/
def operandCount : VecOp → Nat
  | .add | .sub | .mul | .min | .max | .cmpLt | .cmpLe | .cmpEq => 2
  | .fma | .sel => 3
  | _ => 1

/-- Operations of BF16 mode (Table 5.1). -/
def bfOk : VecOp → Bool
  | .add | .sub | .mul | .fma | .min | .max | .abs | .neg | .cmpLt | .cmpLe | .cmpEq | .sel => true
  | _ => false

/-- Operations that stand last in a chain or alone. -/
def lastOnly : VecOp → Bool
  | .cvt | .qmx | .redSum | .redMax => true
  | _ => false

def aloneOnly : VecOp → Bool
  | .foldSum | .foldMax => true
  | _ => false

/-- Operand a as Table 7.6 allows it. -/
def opaOk (op : VecOp) (v : VOpnd) : Bool :=
  if aloneOnly op then isStream v else if lastOnly op then isStream v || isPass v else anyOpnd v

/-- DTYPE of a stream destination (R271). -/
def vecDtypeOk (op : VecOp) (t : ElemType) : Bool :=
  if op = .qmx then mxType t
  else if op = .redSum ∨ op = .redMax ∨ op = .foldSum ∨ op = .foldMax then isFp32 t else !mxType t

def usesImm (o : VectorOps) : Bool := [o.opa, o.opb, o.opc].contains .imm

/-- The operands and the destination of an operation against Table 7.6, and IMM (R270). -/
def operandBreaks (op : VecOp) (o : VectorOps) : List Broken :=
  brk (!opaOk op o.opa || (aloneOnly op && !isFp32 o.atype) || (if 2 ≤ operandCount op then !anyOpnd o.opb else o.opb != .none) ||
    (if 3 ≤ operandCount op then !anyOpnd o.opc else o.opc != .none) ||
    o.dk == .none || (o.dk == .pass && (lastOnly op || aloneOnly op))) 15 1 0 0 ++
  brk (o.imm != 0 && !usesImm o && op != .qmx) 15 2 o.imm.toNat 0 ++
  brk (aloneOnly op && (o.count != 256 || o.shp != .planned)) 15 3 o.count.toNat 256

/-- Type fields that nothing uses. -/
def typeFields (o : VectorOps) : List Bool :=
  [!isStream o.opa && !isFp32 o.atype, !isStream o.opb && !isStream o.opc && !isFp32 o.btype,
   o.dk != .stream && !isFp32 o.dtype, o.dk == .pass && decide (3 < o.dst.toNat)]

def vectorBreaks (f : Frame) (op : VecOp) (o : VectorOps) : List Broken :=
  fireIn f [.none] ++ zeroField (typeFields o) ++ operandBreaks op o ++
  brk ((o.dk == .pass) != f.chain || (o.dk == .pass && (o.rnd || o.sat))) 14 5 0 0 ++
  brk (o.dk == .stream && !vecDtypeOk op o.dtype) 13 3 (typeCode o.dtype) 0 ++
  brk (o.dk == .stream && o.rnd && !rndOk o.dtype) 13 5 (typeCode o.dtype) 0 ++
  brk (o.bf && (!bfOk op || (isStream o.opa && o.atype != .bf16) ||
    ((isStream o.opb || isStream o.opc) && o.btype != .bf16) || (o.dk == .stream && o.dtype != .bf16))) 14 6 0 0

/-! ### Row instructions (Tables 7.7 and 7.8) -/

/-- Which of DYAG, GAG, PAG an instruction uses, and whether IMM is ε or α. -/
structure RowUse where
  dy : Bool
  gamma : Bool
  param : Bool
  imm : Bool
deriving DecidableEq, Repr

def rowBreaks (f : Frame) (o : RowOps) (u : RowUse) : List Broken :=
  plainFrame f ++
  brk ((!u.dy && o.dyag != 0) || (!u.gamma && (o.gag != 0 || !isFp32 o.ptype)) || (!u.param && o.pag != 0)) 15 1 0 0 ++
  brk ((o.pacc && !u.param) || (!u.imm && o.imm != 0)) 15 2 0 0 ++
  brk (!floatType o.xtype || !floatType o.otype || !(o.ptype == .fp32 || o.ptype == .bf16 || o.ptype == .fp16)) 13 6 0 0 ++
  brk (o.rnd && !rndOk o.otype) 13 5 (typeCode o.otype) 0

/-- RN.SPILL and RN.FILL: COUNT, and every field that they do not use zero. -/
def spillBreaks (f : Frame) (o : RowOps) : List Broken :=
  plainFrame f ++
  brk (o.dyag != 0 || o.gag != 0 || o.oag != 0 || o.pag != 0 || !isFp32 o.xtype || !isFp32 o.ptype ||
    !isFp32 o.otype) 15 1 0 0 ++
  brk o.rnd 13 5 (typeCode o.otype) 0 ++
  brk o.pacc 15 2 0 0 ++ zeroField [o.td != 0, decide (2 ^ 15 ≤ o.imm.toNat)] ++
  brk (decide (16384 < o.base.toNat + o.imm.toNat % 2 ^ 15)) 19 1 (o.base.toNat + o.imm.toNat % 2 ^ 15) 16384

/-! ### All instructions -/

/-- The conditions that an instruction breaks by itself; nothing is asked here of a command that is no
instruction. -/
def breaks : Instr → List Broken
  | .nop _ f | .slot _ f | .crsEnd _ f | .crsEndD _ f => plainFrame f
  | .loop _ f _ | .br _ f _ _ | .halt _ f _ | .agSet _ f _ | .agStr _ f _ => plainFrame f
  | .hip _ f m => plainFrame f ++ brk (m == 0) 10 3 0 0
  | .setSh _ f o _ => plainFrame f ++ setShBreaks o
  | .waitGe _ f _ _ | .waitEq _ f _ _ | .signalSet _ f _ _ => plainFrame f
  | .waitDec _ f _ v | .signalAdd _ f _ v => plainFrame f ++ vBreaks v
  | .arrive _ f _ t | .arriveW _ f _ t => plainFrame f ++ tBreaks t
  | .pollGe _ f _ | .pollEq _ f _ => plainFrame f
  | .steerSelect _ f o | .steerRoute _ f o => noChain f ++ fireIn f [.none, .steer] ++ steerBreaks o false
  | .join _ f o | .fork _ f o => noChain f ++ fireIn f [.none, .steer] ++ steerBreaks o true
  | .drain _ f o => drainBreaks f o
  | .load _ f o _ => streamBreaks f o false true false
  | .store _ f o _ => streamBreaks f o true false false
  | .xload _ f o _ => streamBreaks f o false false false
  | .gather _ f o _ => streamBreaks f o false true true
  | .scatter _ f o _ | .scatterAdd _ f o _ => streamBreaks f o false false true
  | .prefetch _ f _ _ => plainFrame f ++ brk (f.cspar != 0xFFFF) 20 4 f.cspar.toNat 0xFFFF
  | .upd _ f o _ => plainFrame f ++ updBreaks o
  | .collRs _ f _ _ | .collAg _ f _ _ | .collAr _ f _ _ => plainFrame f
  | .collFr _ f o => plainFrame f ++ collFrBreaks o
  | .tld _ f o _ => tldBreaks f o
  | .tmm _ f o _ | .tmma _ f o _ => productBreaks f o
  | .tmmv _ f o _ => tmmvBreaks f o
  | .tchk _ f _ _ => plainFrame f
  | .vAdd _ f o _ => vectorBreaks f .add o
  | .vSub _ f o _ => vectorBreaks f .sub o
  | .vMul _ f o _ => vectorBreaks f .mul o
  | .vMin _ f o _ => vectorBreaks f .min o
  | .vMax _ f o _ => vectorBreaks f .max o
  | .vFma _ f o _ => vectorBreaks f .fma o
  | .vAbs _ f o _ => vectorBreaks f .abs o
  | .vNeg _ f o _ => vectorBreaks f .neg o
  | .vCvt _ f o _ => vectorBreaks f .cvt o
  | .vCmpLt _ f o _ => vectorBreaks f .cmpLt o
  | .vCmpLe _ f o _ => vectorBreaks f .cmpLe o
  | .vCmpEq _ f o _ => vectorBreaks f .cmpEq o
  | .vSel _ f o _ => vectorBreaks f .sel o
  | .vExp2 _ f o _ => vectorBreaks f .exp2 o
  | .vLog2 _ f o _ => vectorBreaks f .log2 o
  | .vRcp _ f o _ => vectorBreaks f .rcp o
  | .vSqrt _ f o _ => vectorBreaks f .sqrt o
  | .vRsqrt _ f o _ => vectorBreaks f .rsqrt o
  | .vTanh _ f o _ => vectorBreaks f .tanh o
  | .vQmx _ f o _ => vectorBreaks f .qmx o
  | .vRedSum _ f o _ => vectorBreaks f .redSum o
  | .vRedMax _ f o _ => vectorBreaks f .redMax o
  | .vFoldSum _ f o _ => vectorBreaks f .foldSum o
  | .vFoldMax _ f o _ => vectorBreaks f .foldMax o
  | .vChk _ f _ => fireIn f [.none] ++ brk f.chain 14 5 0 0
  | .rnLn _ f o _ | .rnRms _ f o _ => rowBreaks f o { dy := false, gamma := true, param := false, imm := true }
  | .rnSmx _ f o _ => rowBreaks f o { dy := false, gamma := false, param := false, imm := true }
  | .rnLnB _ f o _ | .rnRmsB _ f o _ => rowBreaks f o { dy := true, gamma := true, param := true, imm := false }
  | .rnSmxB _ f o _ => rowBreaks f o { dy := true, gamma := false, param := false, imm := true }
  | .rnSpill _ f o _ | .rnFill _ f o _ => spillBreaks f o
  | .rnChk _ f _ => plainFrame f
  | _ => []

/-- The vector operation of an instruction and its operands. -/
def vectorPart : Instr → Option (VecOp × VectorOps)
  | .vAdd _ _ o _ => some (.add, o)
  | .vSub _ _ o _ => some (.sub, o)
  | .vMul _ _ o _ => some (.mul, o)
  | .vMin _ _ o _ => some (.min, o)
  | .vMax _ _ o _ => some (.max, o)
  | .vFma _ _ o _ => some (.fma, o)
  | .vAbs _ _ o _ => some (.abs, o)
  | .vNeg _ _ o _ => some (.neg, o)
  | .vCvt _ _ o _ => some (.cvt, o)
  | .vCmpLt _ _ o _ => some (.cmpLt, o)
  | .vCmpLe _ _ o _ => some (.cmpLe, o)
  | .vCmpEq _ _ o _ => some (.cmpEq, o)
  | .vSel _ _ o _ => some (.sel, o)
  | .vExp2 _ _ o _ => some (.exp2, o)
  | .vLog2 _ _ o _ => some (.log2, o)
  | .vRcp _ _ o _ => some (.rcp, o)
  | .vSqrt _ _ o _ => some (.sqrt, o)
  | .vRsqrt _ _ o _ => some (.rsqrt, o)
  | .vTanh _ _ o _ => some (.tanh, o)
  | .vQmx _ _ o _ => some (.qmx, o)
  | .vRedSum _ _ o _ => some (.redSum, o)
  | .vRedMax _ _ o _ => some (.redMax, o)
  | .vFoldSum _ _ o _ => some (.foldSum, o)
  | .vFoldMax _ _ o _ => some (.foldMax, o)
  | _ => none

end Sys2Proof.Machine
end

