-- ==== Sys2Proof/Machine/Checks.lean ====
section
/-!
DEFINITION. The load checks of Table 8.2 over an image (R309 to R313). Checks of one instruction are in Rules;
here stand those that need its slot, its descriptor, the rafter's other slots or the whole image.
-/

namespace Sys2Proof.Machine

/-! ### Findings (Table 8.4) -/

structure Finding where
  code : Nat
  sub : Nat
  unit : Nat
  wh : Nat
  index : Nat
  found : Nat
  limit : Nat
deriving DecidableEq, Repr

/-- WHERE from a slot and what INDEX names. -/
def whereAt (slot : Option Nat) (what : Nat) : Nat := slot.getD 0x80 + 16 * what

/-- A finding about the whole image. -/
def imageFinding (b : Bool) (code sub found limit : Nat) : List Finding :=
  if b then [{ code := code, sub := sub, unit := ridgeUnit.toNat, wh := 0xD0, index := 0, found := found, limit := limit }]
  else []

/-- A finding about something in a rafter. -/
def rafterFinding (b : Bool) (r : Nat) (wh index code sub found limit : Nat) : List Finding :=
  if b then [{ code := code, sub := sub, unit := (rafterUnit r).toNat, wh := wh, index := index, found := found, limit := limit }]
  else []

/-- A broken condition at an instruction. -/
def atInstr (r s i : Nat) (b : Broken) : Finding :=
  { code := b.code, sub := b.sub, unit := (rafterUnit r).toNat, wh := whereAt (some s) 0, index := i
    found := b.found, limit := b.limit }

/-- A broken condition at a descriptor. -/
def atDesc (r d : Nat) (b : Broken) : Finding :=
  { code := b.code, sub := b.sub, unit := (rafterUnit r).toNat, wh := whereAt none 1, index := d
    found := b.found, limit := b.limit }

/-! ### What the ridge compares the image with -/

/-- The device as PROG.LOAD finds it: the topology after the fence mask, the roof, and the lowest ACLK point of
the image's header in MHz, with SCLASS. -/
structure CheckEnv where
  topology : List (BitVec 7)
  lnk : Lnk
  mhz : Nat
  sclass : Bool
  /-- LC-01 conditions that look at the device's own memory (R351, R431, R367, R499) -/
  placed : Bool
  reduced : Bool
deriving DecidableEq, Repr

/-! ### LC-01 to LC-03 -/

def isVChk : Instr → Bool
  | .vChk _ _ _ => true
  | _ => false

/-- V.CHK by its fields: Table 7.4 shows none of them as zero but the types where nothing is a stream, Table 7.6 marks
a, b and c, and its DK is 0b10 (R270). -/
def vChkWord (w : Nat) : List Broken :=
  let stream := fun (lo : Nat) => field w (lo + 4) 2 == 1
  let spec := fun (lo : Nat) => field w (lo + 4) 2 == 0 && decide (1 < field w lo 4)
  let wide := fun (lo : Nat) => field w (lo + 4) 2 == 2 && decide (3 < field w lo 4)
  brk (field w 76 2 == 3 || decide (8 < field w 53 4) || spec 90 || spec 84 || spec 78 ||
    [68, 64, 60].any (fun lo => decide (10 < field w lo 4))) 3 1 0 0 ++
  brk (wide 90 || wide 84 || wide 78 || (field w 68 4 != 0 && !stream 90) ||
    (field w 64 4 != 0 && !stream 84 && !stream 78) || (field w 60 4 != 0 && field w 76 2 != 0)) 3 2 0 0 ++
  brk (field w 78 18 != 0 || field w 76 2 != 2) 15 1 0 0 ++ brk (field w 0 32 != 0) 15 2 (field w 0 32) 0 ++
  brk (field w 59 1 != 0) 14 6 0 0 ++ brk (field w 58 1 != 0) 13 5 0 0

/-- What a word breaks beyond what its instruction does. -/
def fieldBreaks (i : Instr) (w : Nat) : List Broken :=
  if isVChk i then vChkWord w else brk (encodeOcnen i != some w) 3 2 0 0

/-- A word of a slot. -/
def wordBreaks (r : Nat) (w : W128) : List Broken :=
  match decodeOcnen r w.toNat with
  | none => brk true 3 1 0 0
  | some i => (fieldBreaks i w.toNat ++ breaks i).filter (fun b => b.code = 3)

def slotEncoding (r : Nat) (s : SlotImg) : List Finding :=
  (s.code.mapIdx (fun i w => (wordBreaks r w).map (atInstr r s.slot.toNat i))).flatten

/-- A slot's code against its memory (R200). -/
def slotStructure (r : Nat) (s : SlotImg) : List Finding :=
  let wh := whereAt (some s.slot.toNat) 5
  if s.routine.isSome then rafterFinding (!s.code.isEmpty) r wh 0 1 1 s.code.length 0
  else
    rafterFinding (decide (1024 < s.code.length)) r wh 0 1 2 s.code.length 1024 ++
    rafterFinding (decide (s.code.length ≤ s.entry.toNat)) r wh 0 1 1 s.entry.toNat s.code.length

/-- A descriptor's reserved bits and type code (R22, R203, R288). -/
def descEncoding (r : Nat) (d : Nat × BitVec 512) : List Finding :=
  (brk (typeOfCode (field d.2.toNat 0 4)).isNone 3 1 (field d.2.toNat 0 4) 0 ++
    brk (field d.2.toNat 5 26 != 0 || field d.2.toNat 80 16 != 0) 3 2 0 0).map (atDesc r d.1)

/-- Reserved values and zero fields of the image's shard and group tables (Tables 11.1 and 11.2). -/
def tableEncoding (i : Image) : List Finding :=
  (List.range (i.shardTab.length / 64)).flatMap (fun k =>
    let e := natOfBytes ((i.shardTab.drop (64 * k)).take 64)
    imageFinding (decide (1 < field e 16 8)) 3 1 (field e 16 8) 1 ++
    imageFinding (field e 11 5 != 0 || field e 24 8 != 0 || field e 96 32 != 0) 3 2 k 0) ++
  (List.range (i.groupTab.length / 128)).flatMap (fun g =>
    let e := natOfBytes ((i.groupTab.drop (128 * g)).take 128)
    imageFinding (decide (0x1F < gProg e) || (decide (8 < gProg e) && decide (gProg e < 0x10))) 3 1 (gProg e) 0x1F ++
    imageFinding (decide (7 < field e 8 8)) 3 1 (field e 8 8) 7 ++
    imageFinding (field e 20 12 != 0 || field e 0x2A0 32 != 0 || field e 0x360 160 != 0) 3 2 g 0)

def imgShard (i : Image) (k : Nat) : Nat := natOfBytes ((i.shardTab.drop (64 * k)).take 64)
def imgGroup (i : Image) (g : Nat) : Nat := natOfBytes ((i.groupTab.drop (128 * g)).take 128)

/-- Reserved values and zero fields of the image's collective descriptors (Table 13.5, R22). -/
def cdescEncoding (i : Image) : List Finding :=
  i.cdescs.flatMap (fun c =>
    let d := natOfBytes c.2
    let op := field d 0 8
    let comp := field d 24 8
    imageFinding (decide (3 < op)) 3 1 op 3 ++ imageFinding (decide (4 < field d 8 8)) 3 1 (field d 8 8) 4 ++
    imageFinding (typeOfCode (field d 16 4)).isNone 3 1 (field d 16 4) 10 ++
    imageFinding (typeOfCode (field d 20 4)).isNone 3 1 (field d 20 4) 10 ++ imageFinding (decide (2 < comp)) 3 1 comp 2 ++
    imageFinding ((comp != 0 && (op == 1 || op == 3)) || (comp != 1 && field d 48 16 != 0) ||
      (comp == 0 && field d 128 64 != 0) || field d 256 256 != 0) 3 2 c.1.toNat 0)

/-- A finding about a parameter group. -/
def groupFinding (b : Bool) (g code sub found limit : Nat) : List Finding :=
  if b then [{ code := code, sub := sub, unit := ridgeUnit.toNat, wh := whereAt none 4, index := g, found := found, limit := limit }]
  else []

/-- An operand of an update program: its sections (R374, R375, R376) are 0 SCAL, 1 PRE, 2 MID, 3 MAIN. -/
def uReadOk (mom : Nat) (fact preread : Bool) (sec o : Nat) : Bool :=
  let m1 := mom == 1 || mom == 2
  let m2 := (mom == 2 || mom == 3) && !fact
  if o = 0 then sec == 1 || sec == 3
  else if o ≤ 3 then (o == 1 || (o == 2 && m1) || (o == 3 && m2)) && (sec == 3 || (sec == 1 && preread))
  else if o = 0x14 ∨ o = 0x15 then sec == 2 || sec == 3
  else if o = 0x16 ∨ o = 0x17 then fact && (sec == 2 || sec == 3)
  else if o = 0x18 then fact && sec == 2
  else if o = 0x19 then fact && sec == 3
  else true

def uWriteOk (mom : Nat) (fact : Bool) (sec o : Nat) : Bool :=
  if o = 1 then sec == 3
  else if o = 2 then sec == 3 && (mom == 1 || mom == 2)
  else if o = 3 then sec == 3 && (mom == 2 || mom == 3) && !fact
  else if o = 0x14 ∨ o = 0x15 then sec == 1
  else if o = 0x16 then fact && (sec == 1 || sec == 2)
  else if o = 0x17 then fact && sec == 1
  else decide (4 ≤ o) && decide (o ≤ 0x13)

/-- Operands that a kind reads: one, two or three. -/
def uArity (k : Nat) : Nat :=
  if k = 3 ∨ k = 0xB then 3 else if [5, 6, 9, 0xA, 0xC, 0xD].contains k then 1 else 2

def uOpOk (mom : Nat) (fact preread : Bool) (sec : Nat) (o : OpWord) : Bool :=
  let rd := uReadOk mom fact preread sec
  uWriteOk mom fact sec o.d && rd o.a &&
  (if 2 ≤ uArity o.kind then rd o.b else o.b == 0) && (if 3 ≤ uArity o.kind then rd o.c else o.c == 0)

/-- The temporaries that an operation reads. -/
def uTemps (o : OpWord) : List Nat :=
  ([o.a] ++ (if 2 ≤ uArity o.kind then [o.b] else []) ++ (if 3 ≤ uArity o.kind then [o.c] else [])).filter
    (fun t => decide (4 ≤ t) && decide (t ≤ 0x13))

/-- Temporaries (R376): a scalar is written in SCAL, or in MID without factors, and any other is written in its
section before that section reads it; none is written both ways. -/
def uTempsOk (fact : Bool) (ops : List (Nat × OpWord)) : Bool :=
  let scalar := fun (sec : Nat) => sec == 0 || (sec == 2 && !fact)
  let written := ops.filter (fun e => decide (4 ≤ e.2.d) && decide (e.2.d ≤ 0x13))
  written.all (fun e => written.all (fun w => e.2.d != w.2.d || scalar e.1 == scalar w.1)) &&
  (ops.zipIdx).all (fun e => (uTemps e.1.2).all (fun t =>
    (ops.take e.2).any (fun w => w.2.d == t && (scalar w.1 || w.1 == e.1.1))))

/-- An image's update program (R374 to R377). -/
def uprogBreaks (p : Nat) (ws : List W32) : List Finding :=
  let h := (ws.headD 0).toNat
  let n1 := field h 0 6
  let n2 := field h 6 6
  let n3 := field h 12 6
  let n4 := field h 18 6
  let n := n1 + n2 + n3 + n4
  let ops := ws.drop 2
  let secs := List.replicate n1 0 ++ List.replicate n2 1 ++ List.replicate n3 2 ++ List.replicate n4 3
  let mom := field h 24 2
  let fact := field h 26 1 = 1
  let pre := field h 27 1 = 1
  let reserved := ops.any (fun w => let o := opWord w
    decide (0xE ≤ o.kind) || decide (0x28 ≤ o.d) || decide (0x28 ≤ o.a) || decide (0x28 ≤ o.b) || decide (0x28 ≤ o.c))
  let dirty := ops.any (fun w => w.toNat % 16 != 0) || field h 28 4 != 0
  imageFinding (decide (p < 0x10) || decide (48 < n) || n4 == 0 || ops.length != n) 1 1 p 0x1F ++
  imageFinding reserved 3 1 p 0 ++ imageFinding dirty 3 2 p 0 ++
  imageFinding (!reserved && ((secs.zip (ops.map opWord)).any (fun e => !uOpOk mom fact pre e.1 e.2) ||
    !uTempsOk fact (secs.zip (ops.map opWord)))) 1 1 p 0

/-- The shards of a group name it (R605). -/
def groupShardsNamed (i : Image) : List Finding :=
  (List.range (i.groupTab.length / 128)).flatMap (fun g =>
    (List.range (min (gCount (imgGroup i g)) (i.shardTab.length / 64 + 1))).flatMap (fun d =>
      let k := gFirst (imgGroup i g) + d
      groupFinding (decide (i.shardTab.length < 64 * (k + 1)) || (shGroup (imgShard i k)).toNat != g) g 1 1 k 0))

def windowBytes (i : Image) (k : WinKind) : Nat :=
  (i.outWins.filter (fun o => o.kind = k)).foldl (fun a o => a + o.size) 0

/-- Bytes of the configuration images: code and descriptors. -/
def configBytes (i : Image) : Nat :=
  i.rafters.foldl (fun a x => a + 64 * x.descs.length + x.slots.foldl (fun b s => b + 16 * s.code.length) 0) 0

/-- Table 16.2, the rows that LC-01 enforces. -/
def reducedStructure (i : Image) : List Finding :=
  let ins := i.inWins.foldl (fun a w => a + w.size) 0
  imageFinding (decide (1048576 < configBytes i)) 1 2 (configBytes i) 1048576 ++
  imageFinding (i.maxSess != 0) 1 1 i.maxSess 0 ++ imageFinding (decide (65536 < ins)) 1 2 ins 65536 ++
  imageFinding (i.outWins.any (fun o => o.kind == .session)) 1 1 0 0

/-- Rows and columns of the groups that run the preconditioner (R379). -/
def precondStructure (i : Image) : List Finding :=
  let sh := fun k => natOfBytes ((i.shardTab.drop (64 * k)).take 64)
  let grp := fun g => natOfBytes ((i.groupTab.drop (128 * g)).take 128)
  (List.range (i.shardTab.length / 64)).flatMap (fun k =>
    imageFinding (gProg (grp (shGroup (sh k)).toNat) == 8 && (shRows (sh k) % 128 != 0 || shCols (sh k) % 128 != 0))
      1 1 (shRows (sh k)) 128)

/-! ### A slot's instructions, loops and branches -/

def frameOfInstr : Instr → Option Frame
  | .nop _ f | .loop _ f _ | .br _ f _ _ | .slot _ f | .hip _ f _ | .halt _ f _ | .agSet _ f _ | .agStr _ f _
  | .setSh _ f _ _ | .waitGe _ f _ _ | .waitEq _ f _ _ | .waitDec _ f _ _ | .signalAdd _ f _ _ | .signalSet _ f _ _
  | .arrive _ f _ _ | .arriveW _ f _ _ | .pollGe _ f _ | .pollEq _ f _ | .steerSelect _ f _ | .steerRoute _ f _
  | .join _ f _ | .fork _ f _ | .drain _ f _ | .load _ f _ _ | .store _ f _ _ | .xload _ f _ _ | .gather _ f _ _
  | .scatter _ f _ _ | .scatterAdd _ f _ _ | .upd _ f _ _ | .collRs _ f _ _ | .collAg _ f _ _ | .collAr _ f _ _
  | .collFr _ f _ | .crsEnd _ f | .crsEndD _ f | .tld _ f _ _ | .tmm _ f _ _ | .tmma _ f _ _ | .tmmv _ f _ _
  | .tchk _ f _ _ | .vAdd _ f _ _ | .vSub _ f _ _ | .vMul _ f _ _ | .vMin _ f _ _ | .vMax _ f _ _ | .vFma _ f _ _
  | .vAbs _ f _ _ | .vNeg _ f _ _ | .vCvt _ f _ _ | .vCmpLt _ f _ _ | .vCmpLe _ f _ _ | .vCmpEq _ f _ _
  | .vSel _ f _ _ | .vExp2 _ f _ _ | .vLog2 _ f _ _ | .vRcp _ f _ _ | .vSqrt _ f _ _ | .vRsqrt _ f _ _
  | .vTanh _ f _ _ | .vQmx _ f _ _ | .vRedSum _ f _ _ | .vRedMax _ f _ _ | .vFoldSum _ f _ _ | .vFoldMax _ f _ _
  | .vChk _ f _ | .rnLn _ f _ _ | .rnRms _ f _ _ | .rnSmx _ f _ _ | .rnLnB _ f _ _ | .rnRmsB _ f _ _
  | .rnSmxB _ f _ _ | .rnSpill _ f _ _ | .rnFill _ f _ _ | .rnChk _ f _ => some f
  | _ => none


/-- The instructions of a slot; LC-03 has found every word to spell one. -/
def codeOf (r : Nat) (s : SlotImg) : List Instr := s.code.filterMap (fun w => decodeOcnen r w.toNat)

/-- A LOOP of a slot: index, END, LC, COUNT, and whether its count comes from a shape register. -/
structure LoopAt where
  idx : Nat
  last : Nat
  lc : BitVec 3
  count : Nat
  run : Bool
deriving DecidableEq, Repr

def loopAt (i : Nat) : Instr → Option LoopAt
  | .loop _ _ o => some { idx := i, last := o.endIdx.toNat, lc := o.lc, count := o.count.toNat, run := o.shp != .planned }
  | _ => none

def loopsOf (c : List Instr) : List LoopAt := (c.mapIdx loopAt).filterMap id

/-- The loops whose bodies hold an index. -/
def around (ls : List LoopAt) (i : Nat) : List LoopAt := ls.filter (fun l => decide (l.idx < i) && decide (i ≤ l.last))

/-- LC-05 of a LOOP (R214). -/
def loopBreaks (ls : List LoopAt) (n : Nat) (l : LoopAt) : List Broken :=
  let up := around ls l.idx
  brk (decide (l.last ≤ l.idx) || decide (n ≤ l.last) || up.any (fun u => decide (u.last < l.last))) 5 1 l.last n ++
  brk (decide (8 ≤ up.length)) 5 2 (up.length + 1) 8 ++ brk (up.any (fun u => u.lc == l.lc)) 5 3 l.lc.toNat 0

/-- LC-06 of a BR (R215). -/
def branchBreaks (ls : List LoopAt) (n i t : Nat) : List Broken :=
  if t ≤ i ∨ n ≤ t then brk true 6 1 t n
  else brk ((around ls t).any (fun l => !(around ls i).contains l)) 6 2 t 0

/-! ### Queues (LC-10, LC-12) -/

/-- Input queues that an instruction consumes, with its consumer: a steering unit, or 4 for the rafter's own
instructions; and output queues that it names. -/
def queuesIn : Instr → List (BitVec 3 × Nat)
  | .steerSelect _ _ o => ([o.q0, o.q1, o.q2, o.q3].take (o.n.toNat + 1) ++ [o.cq]).map (fun q => (q, o.stu.toNat))
  | .join _ _ o => ([o.q0, o.q1, o.q2, o.q3].take (o.n.toNat + 1)).map (fun q => (q, o.stu.toNat))
  | .steerRoute _ _ o => [(o.xq, o.stu.toNat), (o.cq, o.stu.toNat)]
  | .fork _ _ o => [(o.xq, o.stu.toNat)]
  | .drain _ _ o => [(o.iq, 4)]
  | _ => []

/-- Input queues that the stream engine fills. -/
def queuesFed : Instr → List (BitVec 3)
  | .load _ _ o _ | .gather _ _ o _ => if o.dq then [o.qi] else []
  | _ => []

def queuesOut : Instr → List (BitVec 3)
  | .steerSelect _ _ o | .join _ _ o => [o.xq]
  | .steerRoute _ _ o | .fork _ _ o => [o.q0, o.q1, o.q2, o.q3].take (o.n.toNat + 1)
  | .store _ _ o _ => if o.sq then [o.qi] else []
  | .tmm _ _ o _ | .tmma _ _ o _ => if o.drn && o.dq then [o.qi] else []
  | .hip _ _ m => (List.range 8).filterMap (fun q => if m.getLsbD q then some (BitVec.ofNat 3 q) else none)
  | _ => []

def queueBreaks (s : SlotImg) (i : Instr) : List Broken :=
  ((queuesIn i).map (·.1) ++ queuesFed i).flatMap (fun q => brk (!s.iq.getLsbD q.toNat) 10 3 q.toNat 0) ++
  (queuesOut i).flatMap (fun q => brk (!s.oq.getLsbD q.toNat) 10 3 (8 + q.toNat) 0)

/-- Input queues with two consumers, and queues with two bindings. -/
def slotQueues (r : RafterImg) (s : SlotImg) : List Finding :=
  let users := (codeOf r.rafter s).flatMap queuesIn
  let wh := whereAt (some s.slot.toNat) 2
  (List.range 8).flatMap (fun q =>
    let n := ((users.filter (fun u => u.1.toNat = q)).map (·.2)).eraseDups.length
    rafterFinding (decide (1 < n)) r.rafter wh q 12 1 n 1) ++
  (List.range 16).flatMap (fun q =>
    let n := (s.routes.filter (fun b => b.q.toNat = q)).length
    rafterFinding (decide (1 < n)) r.rafter wh q 12 2 n 1 ++
    rafterFinding (decide (0 < n) && r.depths.getD q 0 == 0) r.rafter wh q 10 2 0 1)

def poolFindings (r : RafterImg) : List Finding :=
  let sum := r.depths.foldl (· + ·) 0
  rafterFinding (decide (512 < sum)) r.rafter (whereAt none 2) 0 10 1 sum 512 ++
  (List.range 16).flatMap (fun q =>
    rafterFinding (decide (256 < r.depths.getD q 0)) r.rafter (whereAt none 2) q 10 1 (r.depths.getD q 0) 256)

/-- The mesh latency of R332 between two trusses, which stand four to a row. -/
def meshCycles (a b : Nat) : Nat :=
  let d := fun (x y : Nat) => (x - y) + (y - x)
  3 * (d (a % 4) (b % 4) + d (a / 4) (b / 4)) + 2

/-- The latency of Table 3.4 of the route bound to a queue of a slot; 0 where none is. -/
def routeCycles (topo : List (BitVec 7)) (r : RafterImg) (slot : BitVec 3) (q : BitVec 4) : Nat :=
  let truss := fun (n : Nat) => (topo.getD n 0).toNat / 8
  match (r.slots.find? (fun s => s.slot = slot)).bind (fun s => s.routes.find? (fun b => b.q = q)) with
  | none => 0
  | some b =>
    if b.se ∨ unitInst b.peer = r.rafter then 2
    else if truss (unitInst b.peer) = truss r.rafter then 6
    else 6 + meshCycles (truss (unitInst b.peer)) (truss r.rafter)

/-- LC-11 (R104, R105). -/
def latFinding (topo : List (BitVec 7)) (r : RafterImg) (l : LatImg) : List Finding :=
  let need := (l.lLong - l.lQ + l.ii - 1) / l.ii + 2
  let d := r.depths.getD l.q.toNat 0
  let wh := whereAt (some l.slot.toNat) 2
  rafterFinding (decide (d < need)) r.rafter wh l.q.toNat 11 1 d need ++
  rafterFinding (decide (l.route < routeCycles topo r l.slot l.q)) r.rafter wh l.q.toNat 11 2 l.route
    (routeCycles topo r l.slot l.q)

/-! ### Chains (LC-14, R173 to R175, R275) -/

/-- The chain bit. -/
def chained (i : Instr) : Bool := ((frameOfInstr i).map (·.chain)).getD false

/-- Runs of vector instructions, each with its first index; a run that something else cuts short is marked. -/
def chainsOf : Nat → List Instr → List (Nat × Instr) → List (List (Nat × Instr) × Bool)
  | _, [], [] => []
  | _, [], cur => [(cur, true)]
  | i, x :: xs, cur =>
    if (vectorPart x).isSome || isVChk x then
      if chained x then chainsOf (i + 1) xs (cur ++ [(i, x)])
      else (cur ++ [(i, x)], false) :: chainsOf (i + 1) xs []
    else match cur with
      | [] => chainsOf (i + 1) xs []
      | _ => (cur, true) :: chainsOf (i + 1) xs []

def passReads (o : VectorOps) : List (BitVec 2) :=
  [o.opa, o.opb, o.opc].filterMap (fun v => match v with
    | .pass k => some k
    | _ => none)

/-- One instruction of a chain, with the pass registers that earlier ones wrote. -/
def memberBreaks (first : VectorOps) (last : Bool) (alone : Bool) (written : List (BitVec 2)) (op : VecOp)
    (o : VectorOps) : List Broken :=
  brk ((passReads o).any (fun k => !written.contains k) ||
    (o.dk == .pass && written.contains (BitVec.ofNat 2 o.dst.toNat))) 14 2 0 0 ++
  brk (o.count != first.count || o.shp != first.shp || o.bf != first.bf) 14 3 0 0 ++
  brk ((lastOnly op && !last) || (aloneOnly op && !alone)) 14 4 0 0

def chainMembers (first : VectorOps) (alone : Bool) : List (Nat × Instr) → List (BitVec 2) → List (Nat × Broken)
  | [], _ => []
  | (i, x) :: xs, w =>
    match vectorPart x with
    | none => (if alone then [] else (brk true 14 4 0 0).map (fun b => (i, b))) ++ chainMembers first alone xs w
    | some (op, o) =>
      (memberBreaks first xs.isEmpty alone w op o).map (fun b => (i, b)) ++
      chainMembers first alone xs (if o.dk = .pass then w ++ [BitVec.ofNat 2 o.dst.toNat] else w)

def chainFindings (r s : Nat) (c : List (Nat × Instr) × Bool) : List Finding :=
  match c.1 with
  | [] => []
  | (i, _) :: xs =>
    let first := ((c.1.filterMap (fun e => vectorPart e.2)).head?).map (·.2)
    (brk (decide (4 < c.1.length)) 14 1 c.1.length 4).map (atInstr r s i) ++
    (brk c.2 14 4 0 0).map (atInstr r s (((c.1.getLast?).map (·.1)).getD i)) ++
    (match first with
      | some f => (chainMembers f xs.isEmpty c.1 []).map (fun e => atInstr r s e.1 e.2)
      | none => [])

/-! ### Descriptors (LC-09) -/

def imgDesc (r : RafterImg) (d : Byte) : Option Nat :=
  match r.descs.find? (fun e => e.1 = d.toNat) with
  | some e => if e.2.getLsbD 31 then some e.2.toNat else none
  | none => none

/-- Padding has no bits beyond its element's width (R300). -/
def padBreaks (t : ElemType) (v : Nat) : List Broken :=
  brk (decide (elemBits t < 16) && decide (2 ^ elemBits t ≤ v)) 9 6 v (2 ^ elemBits t - 1)

def streamDesc (op : StreamOp) (o : StreamOps) (d : Nat) : List Broken :=
  let listed := op == .gather || op == .scatter || op == .scatterAdd
  brk (dD0 d == 0 || dD1 d == 0 || dD2 d == 0) 9 2 0 1 ++ brk (listed && dD2 d != 1) 9 3 (dD2 d) 1 ++
  brk (dPadw d && (op == .store || op == .scatter || op == .scatterAdd)) 9 4 0 0 ++ padBreaks o.dtype (dPada d) ++
  brk ((o.sq && (dSrs d != 0 || dSps d != 0)) || (o.dq && (dDrs d != 0 || dDps d != 0))) 9 7 0 0

/-- Types of a stream (R238, R239, R240). -/
def streamTypes (op : StreamOp) (o : StreamOps) (d : Nat) : List Broken :=
  let t := dType d
  brk (t != o.dtype && (mxType t || mxType o.dtype || !floatType o.dtype)) 13 3 (typeCode o.dtype) 0 ++
  brk (op == .xload && !(floatType t || t == .int8)) 13 4 (typeCode t) 0 ++
  brk (op == .scatterAdd && (t != .fp32 || o.dtype != .fp32)) 13 3 (typeCode t) 0 ++
  brk ((t == .mxfp4 && dD0 d % 2 != 0) || (t == .mxfp6 && dD0 d % 4 != 0)) 8 3 (dD0 d) 0

def tensorDesc (tld : Bool) (o : TensorOps) (d : Nat) : List Broken :=
  let w := dTshape d
  brk (decide (64 < shM w) || decide (64 < shN w) || (tld && decide (64 * chunkWidth o.btype < shK w))) 9 5 (shM w) 64 ++
  (if tld then [] else padBreaks o.atype (dPada d)) ++ padBreaks o.btype (dPadb d)

/-! ### Address generators and extents (LC-07, LC-08) -/

/-- A use of a generator: bytes from `lo` to `hi` of its address, alignment of base and strides with the SUB
that it has in LC-08, the strides of the descriptor concerned, whether a compute instruction makes it, and whether
it writes there. -/
structure Use where
  ag : BitVec 4
  lo : Int
  hi : Int
  size : Nat
  sub : Nat
  strides : List Int
  compute : Bool
  wr : Bool
deriving DecidableEq, Repr

/-- A use that reads at least a byte. -/
def isRead (u : Use) : Bool := !u.wr && decide (u.lo < u.hi)

/-- A use that writes. -/
def written (u : Use) : Use := { u with wr := true }

/-- The span of rows at (count, stride) dimensions. -/
def boxOf (dims : List (Nat × Int)) (row : Nat) : Int × Int :=
  dims.foldl (fun a d =>
    let e := ((d.1 - 1 : Nat) : Int) * d.2
    (a.1 + min 0 e, a.2 + max 0 e)) (0, (row : Int))

def useBox (ag : BitVec 4) (dims : List (Nat × Int)) (row size : Nat) (strides : List Int) (compute : Bool) : Use :=
  let b := boxOf dims row
  { ag := ag, lo := b.1, hi := b.2, size := size, sub := 2, strides := strides, compute := compute, wr := false }

def useRow (ag : BitVec 4) (bytes size sub : Nat) (compute : Bool) : Use :=
  { ag := ag, lo := 0, hi := bytes, size := size, sub := sub, strides := [], compute := compute, wr := false }

def streamUses (op : StreamOp) (o : StreamOps) (d : Nat) : List Use :=
  let t := dType d
  let srcRow := useBox o.sag [(dD2 d, dSps d), (dD1 d, dSrs d)] (denseBytes t (dD0 d)) (elemBits t / 8)
    [dSrs d, dSps d] false
  let dstRow := written (useBox o.dag [(dD2 d, dDps d), (dD1 d, dDrs d)] (denseBytes o.dtype (dD0 d))
    (elemBits o.dtype / 8) [dDrs d, dDps d] false)
  let list := useRow o.iag (4 * dD1 d) 4 2 false
  match op with
  | .load => srcRow :: (if o.dq then [] else [dstRow])
  | .store => (if o.sq then [] else [srcRow]) ++ [dstRow]
  | .xload => [srcRow, written (useBox o.dag [(dD2 d, dDps d), (dD0 d, dDrs d)] (denseBytes o.dtype (dD1 d))
      (elemBits o.dtype / 8) [dDrs d, dDps d] false)]
  | .gather => [{ useRow o.sag 0 (elemBits t / 8) 2 false with strides := [dSrs d, dSps d] }, list] ++ (if o.dq then [] else [dstRow])
  | .scatter | .scatterAdd => [srcRow, written { useRow o.dag 0 (elemBits o.dtype / 8) 2 false with strides := [dDrs d, dDps d] }, list]
  | .prefetch => []

/-- An operand with its scale plane (R260, R289). -/
def operandUses (ag : BitVec 4) (t : ElemType) (rows k stride : Nat) (soff : Int) (sstr : Nat) : List Use :=
  let a := useBox ag [(rows, (stride : Int))] (denseBytes t k) (elemBits t / 8) [(stride : Int)] true
  if mxType t then
    let b := boxOf [(rows, (sstr : Int))] ((k + 31) / 32)
    [a, { ag := ag, lo := soff + b.1, hi := soff + b.2, size := 0, sub := 2, strides := [], compute := true, wr := false }]
  else [a]

/-- In weight-stationary mode N and K are those of the block, which `blk` gives (R266). -/
def tensorUses (blk : Nat × Nat) (i : Instr) (o : TensorOps) (d : Nat) : List Use :=
  let w := dTshape d
  let n := if o.ws then blk.1 else shN w
  let k := if o.ws then blk.2 else shK w
  let opA := operandUses o.aag o.atype (shM w) k (dAstr d) (dAsoff d) (dAsstr d)
  let opB := operandUses o.bag o.btype (shN w) (shK w) (dBstr d) (dBsoff d) (dBsstr d)
  let dst := if o.drn && !o.dq then
      [written (useBox o.dag [(shM w, (dCstr d : Int))] (denseBytes o.dtype n) (elemBits o.dtype / 8) [(dCstr d : Int)] true)]
    else []
  match i with
  | .tld .. => opB
  | .tmmv .. => opA ++ (if o.ws then [] else opB)
  | _ => opA ++ (if o.ws then [] else opB) ++ dst

def opndUses (t : ElemType) (n : Nat) : VOpnd → List Use
  | .stream g => useRow g (denseBytes t n) (elemBits t / 8) 2 true ::
      (if mxType t then [useRow (g + 1) ((n + 31) / 32) 1 2 true] else [])
  | .scalar g => [useRow g 4 4 4 true]
  | _ => []

def vecBytes (op : VecOp) (t : ElemType) (n : Nat) : Nat :=
  match op with
  | .redSum | .redMax => 1024
  | .foldSum | .foldMax => 4
  | _ => denseBytes t n

def vectorUses (op : VecOp) (o : VectorOps) : List Use :=
  let n := o.count.toNat
  opndUses o.atype n o.opa ++ opndUses o.btype n o.opb ++ opndUses o.btype n o.opc ++
  (if o.dk = .stream then
    written (useRow o.dst (vecBytes op o.dtype n) (elemBits o.dtype / 8) 2 true) ::
      (if mxType o.dtype then [written (useRow (o.dst + 1) ((n + 31) / 32) 1 2 true)] else [])
   else [])

/-- MX streams use even generators (R271). -/
def mxBreaks (o : VectorOps) : List Broken :=
  let odd := fun (t : ElemType) (v : VOpnd) => match v with
    | .stream g => mxType t && g.getLsbD 0
    | _ => false
  brk (odd o.atype o.opa || odd o.btype o.opb || odd o.btype o.opc ||
    (o.dk == .stream && mxType o.dtype && o.dst.getLsbD 0)) 7 4 0 0

def rowUses (u : RowUse) (beta : Bool) (o : RowOps) (d : Nat) : List Use :=
  let rows := shR' (dTshape d)
  let n := shN' (dTshape d)
  let str := fun (t : ElemType) => ((dAstr d * (elemBits t / 8) : Nat) : Int)
  let rowAt := fun (g : BitVec 4) (t : ElemType) =>
    useBox g [(rows, str t)] (denseBytes t n) (elemBits t / 8) [str t] true
  [rowAt o.xag o.xtype, written (rowAt o.oag o.otype)] ++ (if u.dy then [rowAt o.dyag o.xtype] else []) ++
  (if u.gamma then [useRow o.gag (denseBytes o.ptype (if beta && !u.dy then 2 * n else n)) (elemBits o.ptype / 8) 2 true]
   else []) ++
  (if o.pacc then [written (useRow o.pag (if beta then 8 * n else 4 * n) 4 2 true)] else [])
where
  shR' (w : Nat) : Nat := field w 0 15
  shN' (w : Nat) : Nat := field w 15 17

/-- The stream operation of an instruction and its operands. -/
def streamPart : Instr → Option (StreamOp × StreamOps)
  | .load _ _ o _ => some (.load, o)
  | .store _ _ o _ => some (.store, o)
  | .xload _ _ o _ => some (.xload, o)
  | .gather _ _ o _ => some (.gather, o)
  | .scatter _ _ o _ => some (.scatter, o)
  | .scatterAdd _ _ o _ => some (.scatterAdd, o)
  | _ => none

def tensorPart : Instr → Option TensorOps
  | .tld _ _ o _ | .tmm _ _ o _ | .tmma _ _ o _ | .tmmv _ _ o _ => some o
  | _ => none

def isTld : Instr → Bool
  | .tld .. => true
  | _ => false

/-- A normalising or softmax instruction: its operands, what it uses, and whether it has β or dβ. -/
def rowPart : Instr → Option (RowOps × RowUse × Bool)
  | .rnLn _ _ o _ => some (o, { dy := false, gamma := true, param := false, imm := true }, true)
  | .rnRms _ _ o _ => some (o, { dy := false, gamma := true, param := false, imm := true }, false)
  | .rnSmx _ _ o _ => some (o, { dy := false, gamma := false, param := false, imm := true }, false)
  | .rnLnB _ _ o _ => some (o, { dy := true, gamma := true, param := true, imm := false }, true)
  | .rnRmsB _ _ o _ => some (o, { dy := true, gamma := true, param := true, imm := false }, false)
  | .rnSmxB _ _ o _ => some (o, { dy := true, gamma := false, param := false, imm := true }, false)
  | _ => none

/-- The descriptor that an instruction names. -/
def descNamed (i : Instr) : Option Byte :=
  match streamPart i, tensorPart i, rowPart i with
  | some (_, o), _, _ => some o.desc
  | _, some o, _ => some o.td
  | _, _, some (o, _, _) => some o.td
  | _, _, _ => none

/-- Conditions on an instruction together with its descriptor. -/
def withDesc (r : RafterImg) (s i : Nat) (x : Instr) : List Finding :=
  match descNamed x with
  | none => []
  | some k =>
    match imgDesc r k with
    | none => (brk true 9 1 0 0).map (atDesc r.rafter k.toNat)
    | some d =>
      (match streamPart x, tensorPart x, rowPart x with
        | some (op, o), _, _ => (streamDesc op o d).map (atDesc r.rafter k.toNat) ++
            (streamTypes op o d).map (atInstr r.rafter s i)
        | _, some o, _ => (tensorDesc (isTld x) o d).map (atDesc r.rafter k.toNat)
        | _, _, some (o, _, _) =>
          (brk (decide (16384 < o.base.toNat + field (dTshape d) 0 15)) 19 1 (o.base.toNat + field (dTshape d) 0 15)
            16384).map (atInstr r.rafter s i)
        | _, _, _ => [])

/-- Elements of a collective's source and result at their planned counts, and their types (R454, R455, R457); a flag-reduce has
no source. -/
def collShape (l : Lnk) (i : Image) (op : Nat) (o : CollOps) : (ElemType × Nat) × (ElemType × Nat) :=
  let d := match i.cdescs.find? (fun c => c.1 = o.cdesc) with
    | some c => natOfBytes c.2
    | none => 0
  let n := field d 64 32
  let part := n / axisSize l (field d 8 8)
  let src := (typeOfCode (field d 16 4)).getD .fp32
  let dst := (typeOfCode (field d 20 4)).getD .fp32
  if op = 0 then ((src, n), (dst, part)) else if op = 1 then ((src, part), (dst, n)) else ((src, n), (dst, n))

/-- Elements packed densely with their scale bytes after them (R457). -/
def planedBytes (t : ElemType) (n : Nat) : Nat := denseBytes t n + (if mxType t then (n + 31) / 32 else 0)

def collUses (l : Lnk) (i : Image) (op : Nat) (o : CollOps) : List Use :=
  let s := collShape l i op o
  [useRow o.sag (planedBytes s.1.1 s.1.2) (elemBits s.1.1 / 8) 2 false,
   written (useRow o.dag (planedBytes s.2.1 s.2.2) (elemBits s.2.1 / 8) 2 false)]

/-- Every generator that an instruction uses, at its planned shape. -/
def usesOf (l : Lnk) (im : Image) (r : RafterImg) (blk : Nat × Nat) (x : Instr) : List Use :=
  match x with
  | .setSh _ _ o _ => if o.src then [useRow o.ag 4 4 4 false] else []
  | .pollGe _ _ o | .pollEq _ _ o => if o.wr then [written (useRow o.ag 4 4 2 false)] else []
  | .prefetch _ _ g _ => [useRow g 1 1 2 false]
  | .upd _ _ o _ => if o.src = .scratch then [useRow o.sag 0 4 2 false] else []
  | .collRs _ _ o _ => collUses l im 0 o
  | .collAg _ _ o _ => collUses l im 1 o
  | .collAr _ _ o _ => collUses l im 2 o
  | .collFr _ _ o => [written (useRow o.dag 4 1 2 false)]
  | .agStr _ _ o => [useRow o.ag 0 0 2 false]
  | .rnSpill _ _ o _ => [written (useRow o.xag (16 * (o.imm.toNat % 2 ^ 15)) 16 5 true)]
  | .rnFill _ _ o _ => [useRow o.xag (16 * (o.imm.toNat % 2 ^ 15)) 16 5 true]
  | _ =>
    let d := ((descNamed x).bind (imgDesc r)).getD 0
    match streamPart x, tensorPart x, vectorPart x, rowPart x with
    | some (op, o), _, _, _ => streamUses op o d
    | _, some o, _, _ => tensorUses blk x o d
    | _, _, some (op, o), _ => vectorUses op o
    | _, _, _, some (o, u, beta) => rowUses u beta o d
    | _, _, _, _ => []

/-- The most iterations that a loop counter can show completed at an index (R213). -/
def loopReach (ls : List LoopAt) (i : Nat) (lc : BitVec 3) : Nat :=
  match (around ls i).filter (fun l => l.lc = lc) with
  | l :: _ => l.count - 1
  | [] => ((ls.filter (fun l => l.lc == lc && (decide (l.last < i) ||
      (around ls i).any (fun u => (around ls l.idx).contains u)))).map (·.count)).foldl max 0

/-- A use against the generator as a path has loaded it. -/
def useBreaks (ls : List LoopAt) (i : Nat) (g : Ag) (u : Use) : List Broken :=
  let steps := g.pairs.map (fun p => p.1.toInt * ((loopReach ls i p.2 : Nat) : Int))
  let lo := (g.base.toNat : Int) + steps.foldl (fun a x => a + min 0 x) 0 + u.lo
  let hi := (g.base.toNat : Int) + steps.foldl (fun a x => a + max 0 x) 0 + u.hi
  let lim := g.base.toNat + g.limit.toNat
  let vals := (g.base.toNat : Int) :: (u.strides ++ g.pairs.map (fun p => p.1.toInt))
  brk (u.compute && g.space != .scratch) 7 3 (spaceCode g.space) 0 ++
  brk (decide (u.lo < u.hi) && (decide (lo < 0) || decide ((lim : Int) < hi) ||
    !inSpace g.space lo.toNat (hi - lo).toNat)) 8 1 hi.toNat lim ++
  brk (decide (1 < u.size) && vals.any (fun v => v % (u.size : Int) != 0)) 8 u.sub g.base.toNat u.size

/-! ### Table 6.9 -/

/-- Sources and destinations that an operation may use, by space. -/
def sourceOk (op : StreamOp) (sp : Space) : Bool :=
  match op with
  | .load | .xload => true
  | .store => sp == .scratch || sp == .ownLoft
  | .gather => sp != .scratch
  | .scatter | .scatterAdd => sp == .scratch
  | .prefetch => sp == .unified

def destOk (op : StreamOp) (sp : Space) : Bool :=
  match op with
  | .load | .scatterAdd => sp == .scratch || sp == .ownLoft
  | .xload | .gather => sp == .scratch
  | .store | .scatter => sp != .scratch
  | .prefetch => true

/-! ### Paths (R264, R266, R312, R313, R606) -/

/-- What a path has brought to an instruction: the generators that its slot has loaded, for each accumulator
buffer its class (0 empty, 1 floating point, 2 integer) and whether it carries a result, the type of the latest
TLD with its N and K, the live weight-gradient blocks with their tiles, whether the routine's scratchpad range has
been written (1) and a reserved slot passed since (2), and the completion spars of reads that still need an addition
to a guard, each with whether a WAIT has named it; and the shards updated in the course. -/
structure Path where
  ags : List (Option Ag)
  acc : List (Nat × Bool)
  tld : Option (ElemType × Bool)
  blk : Nat × Nat
  live : List (Nat × Nat)
  pad : Nat
  opens : List (SparId × Bool)
  upds : List (BitVec 20)
deriving DecidableEq, Repr

def noAgs : List (Option Ag) := List.replicate 16 none
def Path.start : Path :=
  { ags := noAgs, acc := [(0, false), (0, false)], tld := none, blk := (0, 0), live := [], pad := 0, opens := [], upds := [] }

def pathBuf (p : Path) (b : Bool) : Nat × Bool := p.acc.getD (b2n b) (0, false)
def setPathBuf (p : Path) (b : Bool) (v : Nat × Bool) : Path := { p with acc := p.acc.set (b2n b) v }

def classOf (t : ElemType) : Nat := if t = .int8 then 2 else 1

/-- A weight-stationary product has a TLD of its type behind it (LC-17). -/
def tldBreaksAt (p : Path) (o : TensorOps) : List Broken :=
  if o.ws then
    match p.tld with
    | none => brk true 17 1 0 0
    | some (t, u) => brk (t != o.btype || u != o.buns) 17 2 (typeCode o.btype) (typeCode t)
  else []

/-- The block that a TMMV accumulates, as the image declares it. -/
def blockAt (r : RafterImg) (s i : Nat) : Option Nat :=
  (r.valley.find? (fun v => v.slot.toNat = s ∧ v.index.toNat = i)).map (·.block)

/-- The valley check at a TMMV (R313). -/
def valleyBreaks (p : Path) (b t : Nat) : List Broken :=
  let others := p.live.filter (fun e => e.1 ≠ b)
  let n := (if p.live.any (fun e => e.1 = b) then 0 else 1) + (p.live.map (·.1)).eraseDups.length
  brk (decide (64 < n)) 18 2 n 64 ++ brk (others.any (fun e => e.2 = t)) 18 2 t 1 ++
  brk (p.live.any (fun e => e.1 = b ∧ e.2 ≠ t)) 18 2 t 1

/-- What an instruction does to the path, and the conditions it breaks there. -/
def pathStep (r : RafterImg) (s i : Nat) (p : Path) (x : Instr) : Path × List Broken :=
  match x with
  | .agSet _ _ o =>
    ({ p with ags := p.ags.set o.ag.toNat (some { space := o.space, base := o.base, limit := o.limit
                                                  pairs := List.replicate 4 (0, 0) }) }, [])
  | .agStr _ _ o =>
    match p.ags.getD o.ag.toNat none with
    | none => (p, [])
    | some g => ({ p with ags := p.ags.set o.ag.toNat (some { g with pairs := g.pairs.set o.pair.toNat (o.stride, o.lc) }) }, [])
  | .tld _ _ o _ =>
    let w := dTshape ((imgDesc r o.td).getD 0)
    ({ p with tld := some (o.btype, o.buns), blk := (shN w, shK w) }, [])
  | .tmm _ _ o _ =>
    (setPathBuf p o.buf (if o.drn then (0, false) else (classOf o.atype, true)),
     tldBreaksAt p o ++ brk (pathBuf p o.buf).2 18 1 3 2)
  | .tmma _ _ o _ =>
    let c := (pathBuf p o.buf).1
    (setPathBuf p o.buf (if o.drn then (0, false) else (classOf o.atype, true)),
     tldBreaksAt p o ++ brk (c != 0 && c != classOf o.atype) 16 1 c (classOf o.atype))
  | .tmmv _ _ o _ =>
    let c := (pathBuf p o.buf).1
    let q := setPathBuf p o.buf (0, false)
    let b := (blockAt r s i).getD (1024 * s + i)
    ({ q with live := if p.live.contains (b, o.vt.toNat) then p.live else p.live ++ [(b, o.vt.toNat)] },
     tldBreaksAt p o ++ brk (c == 2) 16 1 c 1 ++ brk (pathBuf p o.buf).2 18 1 3 2 ++ valleyBreaks p b o.vt.toNat)
  | .upd _ _ o _ =>
    if o.src = .valley then
      ({ p with live := p.live.filter (fun e => !(decide (o.vt0.toNat ≤ e.2) && decide (e.2 < o.vt0.toNat + o.vtn.toNat))) },
       [])
    else (p, [])
  | .crsEnd .. | .halt .. =>
    ({ Path.start with live := p.live, pad := p.pad }, brk (p.acc.any (fun a => a.2)) 18 1 3 2)
  | _ => (p, [])

/-! ### Tables of the image (R605), and its version rings (R350) -/

/-- D_g, from 1 to 4. -/
def ringDepth (r : RingImg) : Nat := r.depth.toNat + 1

/-- The shards of a ring's group: for each the address of entry 0 and the bytes of an entry. -/
def ringShards (i : Image) (r : RingImg) : List (Nat × Nat) :=
  (List.range (i.shardTab.length / 64)).filterMap (fun k =>
    let e := imgShard i k
    if shGroup e = r.group then some (shRing0 e, entrySize (gFmt (imgGroup i r.group.toNat)) (shElems e)) else none)

/-- A generator's range overlaps an entry of a shard's ring. -/
def meetsRing (r : RingImg) (g : Ag) (sh : Nat × Nat) : Bool :=
  g.space == .unified && (List.range (ringDepth r)).any (fun k =>
    let a := sh.1 + k * r.rstride.toNat * 2 ^ 24
    decide (g.base.toNat < a + sh.2) && decide (a < g.base.toNat + g.limit.toNat))

def readsRing (i : Image) (r : RingImg) (g : Ag) : Bool := (ringShards i r).any (meetsRing r g)

/-- A generator starts in an entry of a shard's ring: the shard is its own. -/
def startsIn (r : RingImg) (g : Ag) (sh : Nat × Nat) : Bool :=
  g.space == .unified && (List.range (ringDepth r)).any (fun k =>
    let a := sh.1 + k * r.rstride.toNat * 2 ^ 24
    decide (a ≤ g.base.toNat) && decide (g.base.toNat < a + sh.2))

/-- A generator that reads a ring ends within the ring of its shard (R357): of the shard in whose entry it starts, or, where
it starts in none, of one that it meets. -/
def ringLimit (i : Image) (g : Ag) : List Broken :=
  i.rings.flatMap (fun r =>
    let met := (ringShards i r).filter (meetsRing r g)
    let own := met.filter (startsIn r g)
    let stops := (if own.isEmpty then met else own).map (fun sh => sh.1 + ringDepth r * r.rstride.toNat * 2 ^ 24)
    let last := stops.foldl max 0
    brk (!stops.isEmpty && decide (last < g.base.toNat + g.limit.toNat)) 8 1 (g.base.toNat + g.limit.toNat) last)

/-- The source generator of a UPD covers the shard's elements (R243). -/
def updCovers (i : Image) (o : UpdOps) (g : Ag) : List Broken :=
  let need := 4 * shElems (imgShard i o.shard.toNat)
  brk (o.src == .scratch && decide (g.limit.toNat < need)) 27 5 g.limit.toNat need

def collPart : Instr → Option (Nat × CollOps)
  | .collRs _ _ o _ => some (0, o)
  | .collAg _ _ o _ => some (1, o)
  | .collAr _ _ o _ => some (2, o)
  | .collFr _ _ o => some (3, o)
  | _ => none

/-- Conditions on the generators that an instruction uses on a path (LC-07, LC-08, LC-12, LC-27). -/
def agBreaks (l : Lnk) (im : Image) (r : RafterImg) (ls : List LoopAt) (i : Nat) (p : Path) (x : Instr) : List Broken :=
  let uses := usesOf l im r p.blk x
  uses.flatMap (fun u => match p.ags.getD u.ag.toNat none with
    | none => brk true 7 1 u.ag.toNat 0
    | some g => useBreaks ls i g u ++ (if isRead u then ringLimit im g else [])) ++
  (match collPart x with
    | some (_, o) => brk (uses.any (fun u => match p.ags.getD u.ag.toNat none with
        | none => false
        | some g => g.space != .unified)) 27 4 o.cdesc.toNat 0
    | none => []) ++
  (match streamPart x with
    | some (op, o) =>
      let bad := fun (g : BitVec 4) (ok : Space → Bool) => match p.ags.getD g.toNat none with
        | none => false
        | some a => !ok a.space
      brk ((!o.sq && bad o.sag (sourceOk op)) || (!o.dq && bad o.dag (destOk op))) 12 3 0 0
    | none => []) ++
  (match x with
    | .upd _ _ o _ => match p.ags.getD o.sag.toNat none with
      | none => []
      | some g => updCovers im o g
    | .prefetch _ _ g _ => match p.ags.getD g.toNat none with
      | none => []
      | some a => brk (a.space != .unified) 12 3 (spaceCode a.space) 3
    | _ => [])

/-- Where a path stands. -/
structure Node where
  slot : Nat
  idx : Nat
  path : Path
deriving DecidableEq, Repr

def slotOf (r : RafterImg) (s : Nat) : Option SlotImg := r.slots.find? (fun x => x.slot.toNat = s)

/-- Where issue can go after the instruction at `i`, its loops looping back or not. -/
def afterIdx (ls : List LoopAt) (i : Nat) : List Nat :=
  (i + 1) :: (ls.filter (fun l => l.last == i && decide (2 ≤ l.count))).map (fun l => l.idx + 1)

/-- The successors of an instruction within its slot. -/
def nextIdx (ls : List LoopAt) (i : Nat) : Instr → List Nat
  | .loop _ _ o =>
    (if o.count = 0 then [] else [i + 1]) ++
    (if o.count = 0 ∨ o.shp ≠ .planned then afterIdx ls o.endIdx.toNat else [])
  | .br _ _ c t => if c = .always then [t.toNat] else t.toNat :: afterIdx ls i
  | _ => afterIdx ls i

/-- What an instruction does to a path, and what it breaks there. -/
abbrev PathRule := List LoopAt → Nat → Nat → Path → Instr → Path × List Broken

/-- Findings at a node, and where the path can go. The routine in a reserved slot goes on to NEXT (R380). -/
def visit (rule : PathRule) (r : RafterImg) (nd : Node) : List Finding × List Node :=
  match slotOf r nd.slot with
  | none => ([], [])
  | some s =>
    let code := codeOf r.rafter s
    let enter := fun (k : Nat) (p : Path) => match slotOf r k with
      | none => []
      | some t => [{ slot := k, idx := t.entry.toNat, path := { p with ags := noAgs } : Node }]
    if s.routine.isSome then ([], enter s.next.toNat { nd.path with pad := if nd.path.pad = 1 then 2 else nd.path.pad })
    else match code[nd.idx]? with
    | none => ([], [])
    | some x =>
      let ls := loopsOf code
      let st := rule ls nd.slot nd.idx nd.path x
      (st.2.map (atInstr r.rafter nd.slot nd.idx),
       match x with
       | .slot .. => enter s.next.toNat st.1
       | .crsEnd .. | .halt .. => enter r.entry.toNat st.1
       | _ => (nextIdx ls nd.idx x).map (fun i => { slot := nd.slot, idx := i, path := st.1 }))

/-- Every node that a path can reach; `fuel` stands above the number of nodes of any image. -/
def explore (rule : PathRule) (r : RafterImg) : Nat → List Node → List Node → List Finding → List Finding
  | 0, _, _, out => out
  | _ + 1, [], _, out => out
  | n + 1, nd :: todo, seen, out =>
    if seen.contains nd then explore rule r n todo seen out
    else
      let v := visit rule r nd
      explore rule r n (v.2 ++ todo) (nd :: seen) (out ++ v.1.filter (fun f => !out.contains f))

def followPaths (rule : PathRule) (r : RafterImg) : List Finding :=
  match slotOf r r.entry.toNat with
  | none => []
  | some s => explore rule r (2 ^ 64) [{ slot := r.entry.toNat, idx := s.entry.toNat, path := Path.start }] [] []

/-- The findings of LC-18 on valley tiles: a rafter that needs more than it has is reported once, with the most blocks that a
path has live (R314). -/
def foldValley (r : Nat) (l : List Finding) : List Finding :=
  let big := l.filter (fun f => f.code == 18 && f.sub == 2 && f.limit == 64)
  if big.isEmpty then l
  else l.filter (fun f => !(f.code == 18 && f.sub == 2)) ++
    rafterFinding true r (whereAt none 5) 0 18 2 ((big.map (·.found)).foldl max 0) 64

def pathFindings (l : Lnk) (im : Image) (r : RafterImg) : List Finding :=
  foldValley r.rafter (followPaths (fun ls s i p x =>
    let st := pathStep r s i p x
    (st.1, st.2 ++ agBreaks l im r ls i p x)) r)

/-! ### The preconditioner routine (R380) -/

/-- The shapes that an instruction names. -/
def shapesOf (x : Instr) : List Shp :=
  (match x with
    | .loop _ _ o => [o.shp]
    | .setSh _ _ o _ => [.reg o.sh]
    | .steerSelect _ _ o | .steerRoute _ _ o | .join _ _ o | .fork _ _ o =>
      o.shp :: (if o.shw then [.reg o.shwi] else [])
    | .drain _ _ o => [o.shp]
    | .upd _ _ o _ => [o.shp]
    | .rnSpill _ _ o _ | .rnFill _ _ o _ => [o.shp]
    | _ => []) ++
  (match streamPart x with
    | some (_, o) => [o.shp]
    | none => []) ++
  (match tensorPart x with
    | some o => [o.shp]
    | none => []) ++
  (match vectorPart x with
    | some (_, o) => [o.shp]
    | none => []) ++
  (match rowPart x with
    | some (o, _, _) => [o.shp]
    | none => []) ++
  (match collPart x with
    | some (_, o) => [o.shp]
    | none => [])

/-- What an instruction of a rafter that runs the routine may not use. -/
def routineOwn (x : Instr) : Bool :=
  (shapesOf x).any (fun v => v == .reg 6 || v == .reg 7) || (match descNamed x with
    | some d => decide (240 ≤ d.toNat)
    | none => false)

/-- A generator's range meets the routine's scratchpad range. -/
def meetsPad (g : Ag) : Bool :=
  g.space == .scratch && decide (g.base.toNat < 0x200000) && decide (0x180000 < g.base.toNat + g.limit.toNat)

/-- Data in the routine's range: what is written before a reserved slot and read after it (R380). -/
def padRule (l : Lnk) (im : Image) (r : RafterImg) : PathRule := fun _ s i p x =>
  let q := (pathStep r s i p x).1
  let used := (usesOf l im r p.blk x).filter (fun u => match p.ags.getD u.ag.toNat none with
    | none => false
    | some g => meetsPad g)
  ({ q with pad := if used.any (·.wr) then 1 else p.pad }, brk (p.pad == 2 && used.any (fun u => !u.wr)) 1 1 0 0)

def routineStructure (l : Lnk) (i : Image) : List Finding :=
  let slots := i.rafters.flatMap (·.slots)
  (List.range (i.groupTab.length / 128)).flatMap (fun g =>
    imageFinding (gProg (imgGroup i g) == 8 && !slots.any (fun s => s.routine.map (·.toNat) == some g)) 1 1 g 0) ++
  i.rafters.flatMap (fun r =>
    if r.slots.any (fun s => s.routine.isSome) then
      r.slots.flatMap (fun s => ((codeOf r.rafter s).mapIdx (fun k x =>
        (brk (routineOwn x) 1 1 0 0).map (atInstr r.rafter s.slot.toNat k))).flatten) ++ followPaths (padRule l i r) r
    else [])

/-! ### UPD and COLL (LC-27, R243, R371, R451) -/

def updTables (i : Image) (o : UpdOps) : List Broken :=
  let k := o.shard.toNat
  let e := imgShard i k
  let outside := decide (i.shardTab.length < 64 * (k + 1)) || decide (i.groupTab.length < 128 * (o.group.toNat + 1))
  brk outside 27 1 k (i.shardTab.length / 64) ++
  (if outside then []
   else brk (o.src == .valley && (shRows e % 64 != 0 || shCols e % 64 != 0)) 27 3 (shRows e) 64 ++
     brk (gArrive (imgGroup i (shGroup e).toNat)) 27 6 (shGroup e).toNat 0)

/-- A collective descriptor is defined (Table 13.5, R451). -/
def cdescOk (l : Lnk) (op : Nat) (bs : List Byte) : Bool :=
  let d : BitVec 512 := BitVec.ofNat 512 (natOfBytes bs)
  let comp := cdComp' d
  let axis := field d.toNat 8 8
  field d.toNat 0 8 == op && decide (axis ≤ 4) && decide (field d.toNat 16 4 < 11) && decide (field d.toNat 20 4 < 11) &&
  decide (comp ≤ 2) && (comp == 0 || op == 0 || op == 2) && field d.toNat 32 8 != 0 &&
  decide (1 ≤ field d.toNat 40 8) && decide (field d.toNat 40 8 ≤ 48) &&
  (if comp = 1 then decide (1 ≤ field d.toNat 48 16) && decide (field d.toNat 48 16 ≤ 512) else field d.toNat 48 16 == 0) &&
  (op == 3 || field d.toNat 64 32 % (4096 * axisOf l axis) == 0) && (op != 3 || field d.toNat 64 32 == 1) &&
  (comp != 0 || field d.toNat 128 64 == 0) && field d.toNat 256 256 == 0
where
  cdComp' (d : BitVec 512) : Nat := field d.toNat 24 8
  axisOf (l : Lnk) (a : Nat) : Nat :=
    match a with
    | 0 => l.nd.toNat | 1 => l.nt.toNat | 2 => l.np.toNat | 3 => l.ns.toNat
    | _ => l.nd.toNat * l.nt.toNat * l.np.toNat * l.ns.toNat

def collBreaks (e : CheckEnv) (i : Image) (x : Instr) : List Broken :=
  match collPart x with
  | none => []
  | some (op, o) =>
    let ok := match i.cdescs.find? (fun c => c.1 = o.cdesc) with
      | none => false
      | some c => cdescOk e.lnk op c.2
    brk (!ok) 27 4 o.cdesc.toNat 0

/-- The descriptors that a group's agreement and the replica axis name are defined (R451, R462). -/
def namedDescs (e : CheckEnv) (i : Image) : List Finding :=
  let ok := fun (k op : Nat) => match i.cdescs.find? (fun c => c.1.toNat = k) with
    | none => false
    | some c => cdescOk e.lnk op c.2
  (List.range (i.groupTab.length / 128)).flatMap (fun g =>
    let x := imgGroup i g
    groupFinding (gCount x != 0 && gAgree x && !ok (gAgDesc x).toNat 3) g 27 4 (gAgDesc x).toNat 0) ++
  (match i.repdesc with
    | none => []
    | some k => imageFinding (!ok k.toNat 1) 27 4 k.toNat 0)

/-! ### Reduced service (LC-28) -/

def reducedBreaks : Instr → List Broken
  | .tmm _ _ o _ | .tmma _ _ o _ | .tmmv _ _ o _ => brk (o.atype != .bf16 || o.btype != .bf16) 28 1 (typeCode o.atype) 1
  | .tld _ _ o _ => brk (o.btype != .bf16) 28 1 (typeCode o.btype) 1
  | .agSet _ _ o => brk (o.space == .unified) 28 2 3 2
  | .upd .. | .collRs .. | .collAg .. | .collAr .. | .collFr .. | .prefetch .. => brk true 28 2 3 2
  | _ => []

/-! ### A rafter -/

/-- BASE has bits above its space (R221). -/
def baseBreaks : Instr → List Broken
  | .agSet _ _ o => brk (decide (2 ^ (match o.space with
      | .scratch => 21
      | .ownLoft => 25
      | .loft => 29
      | .unified => 43) ≤ o.base.toNat)) 7 2 o.base.toNat 0
  | _ => []

def marked (r : RafterImg) : Instr → List Broken
  | .crsEndD .. => brk (!r.decision) 24 1 0 1
  | _ => []

/-- Checks of one instruction in its slot, beyond those of LC-01 to LC-03. -/
def instrFindings (e : CheckEnv) (im : Image) (r : RafterImg) (s : SlotImg) (ls : List LoopAt) (n i : Nat) (x : Instr) :
    List Finding :=
  ((breaks x).filter (fun b => b.code ≠ 3 ∧ ¬(b.code = 20 ∧ b.sub = 2)) ++
    (match loopAt i x with
      | some l => loopBreaks ls n l
      | none => []) ++
    (match x with
      | .br _ _ _ t => branchBreaks ls n i t.toNat
      | .upd _ _ o _ => updTables im o
      | _ => []) ++
    queueBreaks s x ++ marked r x ++ baseBreaks x ++ (match vectorPart x with
      | some (_, o) => mxBreaks o
      | none => []) ++
    collBreaks e im x ++ (if e.reduced then reducedBreaks x else [])).map (atInstr r.rafter s.slot.toNat i) ++
  withDesc r s.slot.toNat i x

def slotFindings (e : CheckEnv) (im : Image) (r : RafterImg) (s : SlotImg) : List Finding :=
  let code := codeOf r.rafter s
  ((s.code.zip code).mapIdx (fun i w => ((fieldBreaks w.2 w.1.toNat).filter (fun b => b.code ≠ 3)).map
    (atInstr r.rafter s.slot.toNat i))).flatten ++
  (code.mapIdx (instrFindings e im r s (loopsOf code) code.length)).flatten ++ slotQueues r s ++
  (chainsOf 0 code []).flatMap (chainFindings r.rafter s.slot.toNat) ++
  rafterFinding (slotOf r s.next.toNat).isNone r.rafter (whereAt (some s.slot.toNat) 5) 0 29 1 s.next.toNat 0

def rafterFindings (e : CheckEnv) (im : Image) (r : RafterImg) : List Finding :=
  r.slots.flatMap (slotFindings e im r) ++ poolFindings r ++ r.lats.flatMap (latFinding e.topology r) ++ pathFindings e.lnk im r ++
  rafterFinding (slotOf r r.entry.toNat).isNone r.rafter (whereAt none 5) 0 29 2 r.entry.toNat 0

/-! ### Spars (LC-20, R230) -/

/-- How an instruction names a spar. -/
inductive SparUse where
  | arrive (t : W16)
  | addOne
  | other
  | taken
  | read
deriving DecidableEq, Repr

def sparUses (x : Instr) : List (SparId × SparUse) :=
  (match frameOfInstr x with
    | some f => if f.cspar = 0xFFFF then [] else [(f.cspar, .addOne)]
    | none => []) ++
  (match x with
    | .arrive _ _ s t | .arriveW _ _ s t => [(s, .arrive t)]
    | .signalAdd _ _ s v => [(s, if v = 1 then .addOne else .other)]
    | .signalSet _ _ s _ => [(s, .other)]
    | .waitDec _ _ s _ => [(s, .taken)]
    | .waitGe _ _ s _ | .waitEq _ _ s _ => [(s, .read)]
    | .pollGe _ _ o | .pollEq _ _ o => [(o.spar, .read)]
    | .collRs _ _ o _ | .collAg _ _ o _ | .collAr _ _ o _ | .collFr _ _ o => if o.rspar = 0xFFFF then [] else [(o.rspar, .other)]
    | _ => [])

/-- The spars that a group's entry names (Table 11.2). -/
def groupSpars (e : Nat) : List (SparId × SparUse) :=
  (if gCount e ≠ 0 ∧ gCtl e then [(gCtlSpar e, .other)] else []) ++ (if gCount e ≠ 0 ∧ gPart e then [(gPartSpar e, .other)] else [])

def imageUses (i : Image) : List (SparId × SparUse) :=
  i.rafters.flatMap (fun r => r.slots.flatMap (fun s => (codeOf r.rafter s).flatMap sparUses)) ++
  (List.range (i.groupTab.length / 128)).flatMap (fun g => groupSpars (imgGroup i g))

def isArrive : SparUse → Bool
  | .arrive _ => true
  | _ => false

def sparFinding (b : Bool) (k : SparId) (sub found limit : Nat) : List Finding :=
  if b then [{ code := 20, sub := sub, unit := ridgeUnit.toNat, wh := whereAt none 3, index := k.toNat, found := found
               limit := limit }] else []

/-- A spar that ARRIVE names. -/
def barrierFindings (i : Image) (all : List (SparId × SparUse)) (k : SparId) : List Finding :=
  let us := (all.filter (fun u => u.1 = k)).map (·.2)
  let ts := (us.filterMap (fun u => match u with
    | .arrive t => some t
    | _ => none)).eraseDups
  let rest := i.spars.find? (fun e => e.1 = k)
  let low := ts.any (fun t => decide (t.toNat ≤ (rest.map (·.2.toNat)).getD 0))
  let mixed := us.any (fun u => match u with
    | .addOne | .other | .taken => true
    | _ => false)
  sparFinding rest.isNone k 1 0 0 ++
  sparFinding (decide (1 < ts.length) || low || mixed) k 2 ((ts.headD 0).toNat) ((rest.map (·.2.toNat)).getD 0)

def lc20 (i : Image) : List Finding :=
  let all := imageUses i
  ((all.filter (fun u => isArrive u.2)).map (·.1)).eraseDups.flatMap (barrierFindings i all)

/-! ### The whole image -/

/-! ### Mesh budgets (LC-21, R333, R334) -/

/-- A system injector attached to router `r` could send a flit through this output of router `rt` (R329): on its row from its
column on, on any column from its row on, and out of any exit. -/
def couldUse (r rt port : Nat) : Bool :=
  if port = 1 then rt / 4 == 0 || decide (rt / 4 ≤ r / 4)
  else if port = 2 then rt % 4 == 3 || (rt / 4 == r / 4 && decide (r % 4 ≤ rt % 4))
  else if port = 3 then rt / 4 == 3 || decide (r / 4 ≤ rt / 4)
  else if port = 4 then rt % 4 == 0 || (rt / 4 == r / 4 && decide (rt % 4 ≤ r % 4))
  else true

/-- An eave unit or a bridge node attaches to the router (Table 1.2). -/
def hasAttachment (rt : Nat) : Bool := decide (rt < 4) || decide (12 ≤ rt) || rt == 4 || rt == 11

/-- The system grants that a server may meet. -/
def grantsOf (i : Image) (use : Nat → Bool) : Nat :=
  (i.sysGrants.filter (fun g => use g.1.toNat)).foldl (fun a g => a + g.2.toNat) 0

/-- Items that the schedule presents in the 64 cycles from `c`: an operation on a spar with waits counts 1 + ⌈w / 4⌉. -/
def windowItems (l : List (Nat × Option Nat)) (c : Nat) : Nat :=
  (l.filter (fun e => decide (c ≤ e.1) && decide (e.1 < c + 64))).foldl (fun a e => a + 1 + ((e.2.getD 0) + 3) / 4) 0

def mostItems (l : List (Nat × Option Nat)) : Nat := (l.map (fun e => windowItems l e.1)).foldl max 0

/-- What the image's schedule presents to the servers that `on` selects, with the grants that they meet; the largest. -/
def largestC (i : Image) (on : Server → Bool) (grants : Nat) : Nat :=
  ((i.budgets.filter (fun b => on b.server)).map (fun b => mostItems b.items)).foldl max 0 + grants

/-- The largest C of a router's outputs and of the injection queues at it. -/
def routerC (i : Image) (rt : Nat) : Nat :=
  let out := (List.range 5).map (fun p => largestC i (fun v => match v with
    | .output a q _ => a.toNat == rt && q.toNat == p
    | _ => false) (grantsOf i (fun r => couldUse r rt p)))
  let inj := [false, true].map (fun own => largestC i (fun v => match v with
    | .injection a w _ => a.toNat == rt && w == own
    | _ => false) (if own then grantsOf i (fun r => r == rt) else 0))
  (out ++ inj).foldl max 0

/-- The C of a truss's spar table, which every injector can reach. -/
def sparC (i : Image) (k : Nat) : Nat :=
  largestC i (fun v => match v with
    | .spars a => a.toNat == k
    | _ => false) (grantsOf i (fun _ => true))

def budgetFinding (unit : UnitId) (c : Nat) : List Finding :=
  if 48 < c then
    [{ code := 21, sub := 1, unit := unit.toNat, wh := whereAt none 5, index := 0, found := c, limit := 48 }] else []

def lc21 (i : Image) : List Finding :=
  (List.range 16).flatMap (fun k => budgetFinding (routerUnit k) (routerC i k) ++ budgetFinding (trussUnit k) (sparC i k))

/-- A grant of 0 to 48 for a router with an attachment (R334). -/
def grantBreaks (i : Image) : List Finding :=
  i.sysGrants.flatMap (fun g => imageFinding (decide (48 < g.2.toNat) || !hasAttachment g.1.toNat) 1 1 g.2.toNat 48)

/-- Cycles at the lowest ACLK point, in ticks (R59, R311). -/
def ticksAt (mhz cycles : Nat) : Nat := (cycles * 100 + mhz - 1) / mhz

/-- The least period for which the budget holds (R59); a period is at least 100 µs (R48). -/
def minPeriod (e : CheckEnv) (i : Image) : Nat := max 10000 (i.d.toNat + ticksAt e.mhz i.bodyCycles + 9000)

def lc22 (e : CheckEnv) (i : Image) : List Finding :=
  imageFinding (decide (i.period.toNat < minPeriod e i)) 22 1 (minPeriod e i) i.period.toNat

/-- The decision bound (R60, R62). -/
def lc23 (e : CheckEnv) (i : Image) : List Finding :=
  let lim := if e.sclass then 2000 else min 100000 (i.period.toNat / 2)
  let t := ticksAt e.mhz i.decisionCycles
  imageFinding (decide (lim < i.d.toNat)) 23 1 i.d.toNat lim ++ imageFinding (e.sclass && i.d == 0) 23 2 0 1 ++
  imageFinding (i.d != 0 && decide (i.d.toNat < t)) 23 3 t i.d.toNat ++
  imageFinding (e.sclass && !i.rafters.any (fun r => r.decision)) 23 4 0 1

/-! ### Guards (R360, R361, R606) -/

/-- Additions to a guard that an instruction makes: as SIGNAL.ADD, and as its completion spar. -/
def addsTo (k : SparId) (x : Instr) : Nat := ((sparUses x).filter (fun u => u.1 = k ∧ u.2 = .addOne)).length

/-- A place that a path has come to, with the additions made; 2,048 and 2,049 stand for SLOT and CRS.END, and places from
4,096 up for branches out of a loop. -/
abbrev Places := List (Nat × Nat)

/-- Reaching a place with a count: none where another path reaches it with another count. -/
def comeTo (m : Option Places) (at' n : Nat) : Option Places :=
  m.bind (fun l => match l.find? (fun e => e.1 = at') with
    | none => some (l ++ [(at', n)])
    | some e => if e.2 = n then some l else none)

/-- What one instruction of a region makes of the places reached; `body` gives the places that a region's paths leave
to. A loop's body leaves at its end with the same count each time round, and with none where the loop may run any
number of times or may be left early. A branch that leaves the region, whose last index is `hi`, goes to the place
4,096 above its target, so that it is told from the region's end (R215). -/
def countStep (k : SparId) (ls : List LoopAt) (hi : Nat) (body : Nat → Nat → Option Places) (x : Instr) (i c : Nat)
    (m : Option Places) : Option Places :=
  let n := c + addsTo k x
  let away := fun (t : Nat) => if hi < t then 4096 + t else t
  match x with
  | .slot .. => comeTo m 2048 n
  | .crsEnd .. | .halt .. => comeTo m 2049 n
  | .br _ _ cond t => if cond = .always then comeTo m (away t.toNat) n else comeTo (comeTo m (away t.toNat) n) (i + 1) n
  | .loop _ _ o =>
    match ls.find? (fun l => l.idx = i) with
    | none => comeTo m (i + 1) n
    | some l =>
      let done := l.last + 1
      if o.count = 0 then comeTo m done n
      else match body (i + 1) l.last with
        | none => none
        | some out =>
          let b := ((out.find? (fun e => e.1 = done)).map (·.2)).getD 0
          let fixed := b == 0 || !l.run
          let early := out.any (fun e => e.1 ≠ done)
          if !fixed ∨ (early && b != 0 && decide (1 < l.count)) then none
          else out.foldl (fun a e => comeTo a (if 4096 ≤ e.1 then away (e.1 - 4096) else e.1) (if e.1 = done then n + l.count * b else n + e.2))
            (if l.run then comeTo m done n else m)
  | _ => comeTo m (i + 1) n

/-- The places that paths from the start of a region leave it to; loops nest to `depth`. -/
def countRegion (k : SparId) (code : List Instr) (ls : List LoopAt) : Nat → Nat → Nat → Option Places
  | 0, _, _ => none
  | depth + 1, lo, hi =>
    ((List.range (hi + 1 - lo)).foldl (fun m d =>
      let i := lo + d
      match m.bind (fun l => l.find? (fun e => e.1 = i)), code[i]? with
      | some e, some x => countStep k ls hi (countRegion k code ls depth) x i e.2 m
      | _, _ => m) (some [(lo, 0)])).map (fun l => l.filter (fun e => decide (hi < e.1)))

/-- Additions of a course on a rafter, from a slot on: none where two paths differ. -/
def courseAdds (k : SparId) (r : RafterImg) : Nat → Nat → Nat → List (Nat × Nat) → Option (List Nat)
  | 0, _, _, _ => none
  | fuel + 1, slot, c, seen =>
    if seen.contains (slot, c) then some []
    else match slotOf r slot with
      | none => some []
      | some s =>
        if s.routine.isSome then courseAdds k r fuel s.next.toNat c ((slot, c) :: seen)
        else
          let code := codeOf r.rafter s
          match countRegion k code (loopsOf code) 10 s.entry.toNat (code.length - 1) with
          | none => none
          | some out =>
            let ends := (out.filter (fun e => e.1 = 2049)).map (fun e => c + e.2)
            match out.find? (fun e => e.1 = 2048) with
            | none => some ends
            | some e => (courseAdds k r fuel s.next.toNat (c + e.2) ((slot, c) :: seen)).map (ends ++ ·)

/-- The one number of additions that a rafter makes in a course. -/
def rafterAdds (k : SparId) (r : RafterImg) : Option Nat :=
  match courseAdds k r 64 r.entry.toNat 0 [] with
  | none => none
  | some l => match l.eraseDups with
    | [] => some 0
    | [n] => some n
    | _ => none

def sumAdds (k : SparId) : List RafterImg → Option Nat
  | [] => some 0
  | r :: rs => match rafterAdds k r, sumAdds k rs with
    | some a, some b => some (a + b)
    | _, _ => none

/-- The guard of a ring is well formed (R360): rest value 0, the uses that R360 permits, and GN additions on every
path (R606). -/
def guardWell (i : Image) (all : List (SparId × SparUse)) (r : RingImg) : Bool :=
  r.gn != 0 && (match i.spars.find? (fun e => e.1 = r.guard) with
    | some e => e.2 == 0
    | none => true) &&
  (all.filter (fun u => u.1 = r.guard)).all (fun u => u.2 == .addOne || u.2 == .taken) &&
  sumAdds r.guard i.rafters == some r.gn.toNat

def isPrefetch : Instr → Bool
  | .prefetch .. => true
  | _ => false

/-- An instruction reads an entry of the ring that its guard has to cover: any entry where D is 1, else one that the
image does not declare to be the board's head. -/
def needsCover (l : Lnk) (i : Image) (r : RingImg) (x : RafterImg) (s k : Nat) (p : Path) (c : Instr) : Bool :=
  !isPrefetch c && (usesOf l i x p.blk c).any (fun u => match p.ags.getD u.ag.toNat none with
    | none => false
    | some g => isRead u && readsRing i r g) &&
  (ringDepth r == 1 || (match x.reads.find? (fun d => d.slot.toNat = s ∧ d.index.toNat = k) with
    | some d => d.stored
    | none => true))

/-- Reads on a path that no addition to the guard has followed yet (R361, R606). -/
def coverRule (l : Lnk) (i : Image) (r : RingImg) (x : RafterImg) : PathRule := fun _ s k p c =>
  let q := (pathStep x s k p c).1
  let spar := ((frameOfInstr c).map (·.cspar)).getD 0xFFFF
  let o := if needsCover l i r x s k p c && spar != r.guard && !p.opens.contains (spar, false) then p.opens ++ [(spar, false)]
    else p.opens
  match c with
  | .waitGe _ _ w _ | .waitEq _ _ w _ | .waitDec _ _ w _ =>
    ({ q with opens := (o.map (fun e => if e.1 = w then (w, true) else e)).eraseDups }, [])
  | .signalAdd _ _ w v => ({ q with opens := if w = r.guard ∧ v = 1 then o.filter (fun e => !e.2) else o }, [])
  | .crsEnd .. | .halt .. => ({ q with opens := [] }, brk (!o.isEmpty) 25 1 0 0)
  | _ => ({ q with opens := o }, [])

/-- The guard covers its group's reads. -/
def guardCovers (l : Lnk) (i : Image) (r : RingImg) : Bool :=
  i.rafters.all (fun x => (followPaths (coverRule l i r x) x).isEmpty)

/-- The shard that an instruction updates, or whose update on arrival it feeds first. -/
def updatesShard (i : Image) (x : Instr) : Option (BitVec 20) :=
  match x with
  | .upd _ _ o _ => some o.shard
  | .collRs _ _ o _ | .collAr _ _ o _ =>
    match i.cdescs.find? (fun c => c.1 = o.cdesc) with
    | some c => let k := field (natOfBytes c.2) 96 32
      if k = 0xFFFFFFFF then none else some (BitVec.ofNat 20 k)
    | none => none
  | _ => none

/-- A shard of the group updated a second time in a course on some path (R359). -/
def twiceRule (i : Image) (g : BitVec 8) : PathRule := fun _ _ _ p x =>
  match x with
  | .crsEnd .. | .halt .. => ({ p with upds := [] }, [])
  | _ => match updatesShard i x with
    | none => (p, [])
    | some q =>
      if shGroup (imgShard i q.toNat) ≠ g then (p, [])
      else ({ p with upds := if p.upds.contains q then p.upds else p.upds ++ [q] }, brk (p.upds.contains q) 25 1 0 0)

/-- Shards of the group that a rafter's code updates. -/
def updatedBy (i : Image) (g : BitVec 8) (r : RafterImg) : List (BitVec 20) :=
  ((r.slots.flatMap (fun s => (codeOf r.rafter s).filterMap (updatesShard i))).filter
    (fun q => shGroup (imgShard i q.toNat) = g)).eraseDups

/-- The schedule can write the group's ring twice in one course: on a path of one rafter, or by two rafters. -/
def writesTwice (i : Image) (g : BitVec 8) : Bool :=
  let all := i.rafters.flatMap (updatedBy i g)
  all.eraseDups.length != all.length || i.rafters.any (fun r => !(followPaths (twiceRule i g) r).isEmpty)

/-- ⌈S / ⌈M / m⌉⌉ (R358); where no backward completes in a course, the group's ring is never written twice, and the lag is 1. -/
def lagOf (r : RingImg) (s : Nat) : Nat :=
  if r.perCourse = 0 then min s 1
  else
    let q := (r.microBatches + r.perCourse - 1) / r.perCourse
    (s + q - 1) / q

/-- The least depth that R359 accepts for a group. -/
def leastDepth (l : Lnk) (i : Image) (all : List (SparId × SparUse)) (r : RingImg) : Nat :=
  if writesTwice i r.group ∨ (r.guarded ∧ !guardWell i all r) then 0xFFFFFFFF
  else if r.guarded && guardCovers l i r then lagOf r (r.span - 1) + 1 else lagOf r r.span + 1

def lc25 (l : Lnk) (i : Image) : List Finding :=
  let all := imageUses i
  i.rings.flatMap (fun r => if ringDepth r < leastDepth l i all r then
    [{ code := 25, sub := 1, unit := ridgeUnit.toNat, wh := whereAt none 4, index := r.group.toNat, found := ringDepth r
       limit := leastDepth l i all r }] else [])

/-- An image that serves: it declares sessions, or a rafter belongs to the serving partition. -/
def servingImage (i : Image) : Bool := i.maxSess != 0 || i.rafters.any (·.serve)

/-- Serving and decision rafters read no ring entry (R354, R498). -/
def serveRings (i : Image) (r : RafterImg) : List Finding :=
  if r.serve || r.decision then
    r.slots.flatMap (fun s => ((codeOf r.rafter s).mapIdx (fun k x => (match x with
      | .agSet _ _ o => brk (i.rings.any (fun g => readsRing i g
          { space := o.space, base := o.base, limit := o.limit, pairs := [] })) 26 1 o.base.toNat 0
      | _ => []).map (atInstr r.rafter s.slot.toNat k))).flatten)
  else []

/-- Serving budgets (R498). -/
def lc26 (i : Image) : List Finding :=
  if !servingImage i then []
  else
    let need := (20000 * i.period.toNat + 99999999) / 100000000
    imageFinding (decide (448 * 2 ^ 20 < i.residentBytes)) 26 1 i.residentBytes (448 * 2 ^ 20) ++
    imageFinding (decide (i.servingTokens < i.maxSess * i.quota)) 26 1 (i.maxSess * i.quota) i.servingTokens ++
    imageFinding (decide (i.quota < need)) 26 1 i.quota need ++ i.rafters.flatMap (serveRings i)

/-! ### LC-01 to LC-03 together -/

def lc01 (e : CheckEnv) (i : Image) : List Finding :=
  imageFinding (!i.wellSized || !e.placed) 1 1 0 0 ++
  i.rafters.flatMap (fun r => r.slots.flatMap (slotStructure r.rafter)) ++
  routineStructure e.lnk i ++
  imageFinding (decide (1048576 < windowBytes i .decision)) 1 2 (windowBytes i .decision) 1048576 ++
  imageFinding (i.d == 0 && i.outWins.any (fun o => o.kind == .decision)) 1 1 0 0 ++
  (if e.reduced then reducedStructure i else []) ++ precondStructure i ++ groupShardsNamed i ++ grantBreaks i ++
  i.programs.flatMap (fun p => uprogBreaks p.1.toNat p.2)

def lc02 (e : CheckEnv) (i : Image) : List Finding :=
  imageFinding (i.topology != e.topology) 2 1 i.topology.length e.topology.length

def lc03 (i : Image) : List Finding :=
  i.rafters.flatMap (fun r => r.slots.flatMap (slotEncoding r.rafter) ++ r.descs.flatMap (descEncoding r.rafter)) ++
  tableEncoding i ++ cdescEncoding i

/-! ### The report's order (R310, R314) -/

/-- Ascending code, unit, slot, index; then SUB. -/
def findingKey (f : Finding) : Nat :=
  (((f.code * 2 ^ 16 + f.unit) * 2 ^ 3 + f.wh % 8) * 2 ^ 16 + f.index) * 2 ^ 8 + f.sub

def insertFinding (f : Finding) : List Finding → List Finding
  | [] => [f]
  | g :: l => if findingKey f ≤ findingKey g then f :: g :: l else g :: insertFinding f l

def sortFindings (l : List Finding) : List Finding := l.foldr insertFinding []

/-- LC-01 to LC-03 first; when none of them fails, every other check. -/
def loadChecks (e : CheckEnv) (i : Image) : List Finding :=
  let first := lc01 e i ++ lc02 e i ++ lc03 i
  sortFindings ((if first.isEmpty then
    i.rafters.flatMap (rafterFindings e i) ++ lc20 i ++ lc21 i ++ lc22 e i ++
    lc23 e i ++ lc25 e.lnk i ++ lc26 i ++ namedDescs e i
   else first).eraseDups)

end Sys2Proof.Machine
end

