-- ==== Sys2Proof/Machine/Load.lean ====
section
/-!
DEFINITION. Loading and starting a program (R309 to R314, R351, R431, R489, R490, R554, R555, R565, R566): the
signed header, the load report, what an accepted image sets, and PROG.START.
-/

namespace Sys2Proof.Machine

/-! ### The signed header (Table 16.6) -/

structure Header where
  magic : Nat
  kind : Nat
  flags : Nat
  ctr : Nat
  floor : Nat
  image : W64
  svn : Nat
  bodyLen : Nat
  bodyDig : BitVec 512
  pubkey : List Byte
  sig : List Byte
  signed : List Byte
  zero : Bool
deriving DecidableEq, Repr

def byteField (bs : List Byte) (o n : Nat) : Nat := natOfBytes ((bs.drop o).take n)

/-- 64 bytes of a digest as a word, the first byte lowest. -/
def digestWord (bs : List Byte) : BitVec 512 := BitVec.ofNat 512 (natOfBytes bs)

def isZeros (bs : List Byte) : Bool := bs.all (· == 0)

def headerOf (bs : List Byte) : Header :=
  { magic := byteField bs 0 4, kind := byteField bs 4 1, flags := byteField bs 5 1, ctr := byteField bs 6 1
    floor := byteField bs 7 1, image := BitVec.ofNat 64 (byteField bs 8 8), svn := byteField bs 0x10 4
    bodyLen := byteField bs 0x18 8, bodyDig := digestWord ((bs.drop 0x20).take 64)
    pubkey := (bs.drop 0x100).take 2592, sig := (bs.drop 0xB20).take 4627, signed := bs.take 0xB20
    zero := isZeros ((bs.drop 0x14).take 4) && isZeros ((bs.drop 0x60).take 160) && isZeros ((bs.drop 0x1D33).take 717) }

def Header.sclass (h : Header) : Bool := h.flags % 2 = 1
def Header.resume (h : Header) : Bool := h.flags / 2 % 2 = 1

/-- Malformed: Table 16.7, SUB 0x01. -/
def headerBad (h : Header) : Bool :=
  h.magic != 0x534B5631 || !(h.kind == 2 || h.kind == 3) || decide (4 ≤ h.flags) || (h.resume && h.kind != 2) ||
  h.ctr == 0 || decide (63 < h.ctr) || decide (4 ≤ h.floor) || (h.kind == 3 && h.floor != 3) || decide (64 < h.svn) ||
  !h.zero

/-- The key may sign program images (R566). -/
def keyPermitted (s : State) (h : Header) : Bool :=
  if s.sec.fuses.owned = 0 then true
  else (List.range 4).any (fun k => s.sec.fuses.owned.getLsbD k && !s.sec.fuses.revoked.getLsbD k &&
    s.sec.fuses.hashes.getD k 0 == Config.sha3 h.pubkey)

def signatureOk (h : Header) : Bool :=
  Config.mldsaVerify (Config.sha3 h.pubkey) (bytesOf 64 (Config.sha3 h.signed).toNat) h.sig

def ctrValue (s : State) (k : Nat) : Nat := s.sec.fuses.ctrs.getD k 0

/-- The first check of Table 16.7 that fails: SUB, FOUND, LIMIT. -/
def preReject (s : State) (j : LoadJob) (h : Header) (body : List Byte) : Option (Nat × Nat × Nat) :=
  if headerBad h then some (1, 0, 0)
  else if Config.sha3 body ≠ h.bodyDig ∨ h.bodyLen + 0x2000 ≠ j.len then some (2, 0, 0)
  else if !keyPermitted s h then some (3, 0, 0)
  else if !signatureOk h then some (4, 0, 0)
  else if h.svn < ctrValue s h.ctr then some (5, h.svn, ctrValue s h.ctr)
  else if h.sclass && (s.sec.fuses.owned == 0 || s.sec.debug) then some (6, 0, 0)
  else if (h.kind == 3) != j.reduced then some (7, h.kind, 0)
  else if h.kind = 2 ∧ s.pwr.stage ≠ 2 then some (8, h.kind, 0)
  else none

/-! ### The load report (Tables 8.3 and 8.4) -/

def entryOfFinding (f : Finding) : List Byte :=
  [BitVec.ofNat 8 f.code, BitVec.ofNat 8 f.sub] ++ bytesOf 2 f.unit ++ [BitVec.ofNat 8 f.wh, 0] ++ bytesOf 2 f.index ++
  bytesOf 4 f.found ++ bytesOf 4 f.limit

def reportBytes (status : Nat) (fs : List Finding) (image : W64) (minP time : Nat) : List Byte :=
  let es := (fs.take 32).flatMap entryOfFinding
  let head := bytesOf 2 status ++ bytesOf 2 (min fs.length 0xFFFF) ++ bytesOf 2 (min fs.length 32) ++ zeros 2 ++
    bytesOf 8 image.toNat ++ bytesOf 4 minP ++ bytesOf 4 time
  head ++ bytesOf 4 (crc32c (head ++ zeros 8 ++ es)).toNat ++ zeros 4 ++ es

/-- The report in the load-result area, or in the reduced-service buffer before stage Full (R554), and vector 5. -/
def putReport (s : State) (bs : List Byte) : State :=
  let s1 := if s.pwr.stage = 2 then resvWrite s 0 0x180000 bs
    else { s with hst := { s.hst with rsBuf := memWrite s.hst.rsBuf 0x3FE000 bs } }
  sendMsix s1 5

/-! ### What the checks look at on the device -/

/-- The topology after the fence mask: for each logical rafter its position 8 t + p (R9). -/
def topologyOf (s : State) : List (BitVec 7) := (positions s).map (fun p => BitVec.ofNat 7 (p / 6 * 8 + p % 6))

/-- An area lies in writable extents, of one stack where one is named. -/
def placeOk (s : State) (stack : Option Nat) (a n : Nat) : Bool :=
  decide (a + n ≤ 2 ^ 43) && (piecesOf a n).all (fun p =>
    let e := tierEntry s p.1
    entState e == stResident && (match stack with
      | none => true
      | some k => entStack e == k))

def recordBytes (s : State) (k : Nat) : List Byte := resvRead s 0 (0x100000 + 512 * k) 512

/-- A course record is valid: its CRC, and the course number that its slot implies (R84). -/
def recordValid (k : Nat) (bs : List Byte) : Bool :=
  byteField bs 0x1C 4 == (crc32c (bs.take 0x1C ++ zeros 4 ++ bs.drop 0x20)).toNat && byteField bs 0 8 % 1024 == k

/-- The valid record with the highest course number (R86). -/
def latestRecord (s : State) : Option (List Byte) :=
  (List.range 1024).foldl (fun best k =>
    let bs := recordBytes s k
    if recordValid k bs then
      match best with
      | none => some bs
      | some b => if byteField b 0 8 < byteField bs 0 8 then some bs else best
    else best) none

/-- What the ridge reads from the unified range for an image: the version board that it names, where it resumes, and the
prefetch schedule. -/
structure LoadReads where
  board : List Byte
  sched : List Byte
deriving DecidableEq, Repr

/-- A read of the ridge, where the area lies in writable extents; nothing otherwise. -/
def readPlaced (s : State) (a n : Nat) : State × List Byte :=
  if placeOk s none a n then
    match ridgeRead s a n with
    | (s1, some bs) => (s1, bs)
    | (s1, none) => (s1, [])
  else (s, [])

/-- The header of a schedule, then its records; a count above 65,536 is not followed (R431). -/
def readSched (s : State) (a : Option W64) : State × List Byte :=
  match a with
  | none => (s, [])
  | some v =>
    let h := readPlaced s v.toNat 64
    let n := byteField h.2 4 4
    if h.2.isEmpty ∨ 65536 < n then h
    else
      let b := readPlaced h.1 (v.toNat + 64) (16 * n)
      (b.1, h.2 ++ b.2)

def loadReads (s : State) (i : Image) (resume : Bool) : State × LoadReads :=
  let b := match resume, i.vboard with
    | true, some a => readPlaced s a.toNat 8192
    | _, _ => (s, [])
  let c := readSched b.1 i.sched
  (c.1, { board := b.2, sched := c.2 })

/-- The version board that a resuming image names carries the course after the record's (R351). -/
def resumeOk (s : State) (i : Image) (board : List Byte) : Bool :=
  match latestRecord s, i.vboard with
  | none, _ => true
  | some _, none => false
  | some r, some _ => !board.isEmpty && byteField board 0 8 == byteField r 0 8 + 1

/-! ### The prefetch schedule (Tables 12.10 and 12.11, R431) -/

def schedFrames (h : List Byte) (st : Nat) : Nat := byteField h (8 + 2 * st) 2
def schedRecBytes (h : List Byte) (k : Nat) : List Byte := (h.drop (64 + 16 * k)).take 16

def schedRecOf (bs : List Byte) : SchedRec :=
  { extent := BitVec.ofNat 19 (byteField bs 0 4), phase := BitVec.ofNat 16 (byteField bs 4 2)
    delay := BitVec.ofNat 16 (byteField bs 6 2), count := BitVec.ofNat 8 (byteField bs 8 1)
    hold := BitVec.ofNat 8 (byteField bs 9 1) }

def schedRecords (h : List Byte) : List SchedRec :=
  (List.range (byteField h 4 4)).map (fun k => schedRecOf (schedRecBytes h k))

def inOrder : List SchedRec → Bool
  | a :: b :: l =>
    (decide (a.phase.toNat < b.phase.toNat) || (a.phase == b.phase && decide (a.delay.toNat ≤ b.delay.toNat))) &&
    inOrder (b :: l)
  | _ => true

/-- Frames of a stack that are free or could be evicted. -/
def obtainable (s : State) (st : Nat) : Nat :=
  freeCount s st + ((usedExtents s st).filter (fun x => evictable s (tierEntry s x))).length

/-- LC-01 of a schedule whose bytes the ridge has read. -/
def schedOk (s : State) (i : Image) (a : Nat) (h : List Byte) : Bool :=
  let cycle := byteField h 0 2
  let n := byteField h 4 4
  placeOk s none a (64 + 16 * n) && decide (1 ≤ cycle) && decide (byteField h 2 1 < 16) && byteField h 3 1 == 0 &&
  decide (n ≤ 65536) && isZeros ((h.take 64).drop 0x18) && inOrder (schedRecords h) &&
  (List.range 8).all (fun st => decide (schedFrames h st ≤ 2240) && decide (schedFrames h st ≤ obtainable s st)) &&
  (List.range n).all (fun k =>
    let bs := schedRecBytes h k
    decide (byteField bs 0 4 < 2 ^ 19) && decide (byteField bs 4 2 < cycle) &&
    decide (byteField bs 6 2 * 100 < i.period.toNat) && byteField bs 9 1 != 0 && byteField bs 10 6 == 0)

/-- A shard's areas lie in writable extents of its stack (R367). -/
def shardPlaced (s : State) (i : Image) (k : Nat) : Bool :=
  let e := imgShard i k
  let g := imgGroup i (shGroup e).toNat
  let ring := (i.rings.find? (fun r => r.group = shGroup e))
  let n := shElems e
  let stk := some (shEave e)
  let two := fun (a m : Nat) => m == 0 || (placeOk s stk a m && placeOk s stk (a + shSlot e) m)
  let prog := programOf ((i.programs.find? (fun p => p.1.toNat = gProg g)).map (·.2) |>.getD (menu.getD (gProg g) []))
  let mom := prog.mom
  let ringOk := match ring with
    | none => true
    | some r => (List.range (ringDepth r)).all (fun j =>
        placeOk s stk (shRing0 e + j * r.rstride.toNat * 2 ^ 24) (entrySize (gFmt g) n))
  ringOk && (shMirror e || (two (shMaster e) (4 * n) && (mom == 0 || mom == 3 || two (shM1 e) (4 * n)) &&
    (decide (mom < 2) || two (shM2 e) (4 * (if prog.fact then shRows e + shCols e else n))) &&
    placeOk s stk (shGrad e) (4 * n)))

/-- A publish set's copies lie in writable extents of their shard's stack (R499). -/
def copyPlaced (s : State) (i : Image) (c : BitVec 20 × W64 × W64) : Bool :=
  let e := imgShard i c.1.toNat
  let n := entrySize (gFmt (imgGroup i (shGroup e).toNat)) (shElems e)
  placeOk s (some (shEave e)) c.2.1.toNat n && placeOk s (some (shEave e)) c.2.2.toNat n

def boardOk (s : State) (size : Nat) (a : Option W64) : Bool :=
  match a with
  | none => true
  | some v => v.toNat % size == 0 && placeOk s none v.toNat size

/-- The conditions of LC-01 on what the image places in the device's memory (R351, R355, R367, R431, R499,
R582, R605). -/
def placedOk (s : State) (h : Header) (i : Image) (r : LoadReads) : Bool :=
  (!h.resume || resumeOk s i r.board) && boardOk s 8192 i.vboard && boardOk s 16384 i.ctrBoard && boardOk s 16384 i.hboard &&
  (match i.gtab with
    | none => i.groupTab.isEmpty
    | some a => placeOk s none a.toNat (max 1 i.groupTab.length)) &&
  (match i.stab with
    | none => i.shardTab.isEmpty
    | some a => placeOk s none a.toNat (max 1 i.shardTab.length)) &&
  (match i.sched with
    | none => true
    | some a => schedOk s i a.toNat r.sched) &&
  (List.range (i.shardTab.length / 64)).all (shardPlaced s i) &&
  i.pubs.all (fun p => p.copies.all (copyPlaced s i))

def floorMHz (f : Nat) : Nat := aclkMHz (BitVec.ofNat 2 f)

def checkEnv (s : State) (h : Header) (i : Image) (r : LoadReads) : CheckEnv :=
  { topology := topologyOf s, lnk := s.lnk, mhz := floorMHz h.floor, sclass := h.sclass
    placed := h.kind == 3 || placedOk s h i r, reduced := h.kind == 3 }

/-! ### What an accepted image sets -/

def slotWord (t : SlotImg) : W32 :=
  BitVec.ofNat 32 (1 + t.entry.toNat * 2 + t.next.toNat * 2 ^ 11 + t.iq.toNat * 2 ^ 14 + t.oq.toNat * 2 ^ 22)

/-- RFT_ROUTE of a binding; PEER and PEERQ are zero where the stream engine is bound (R99). -/
def routeWord (b : RouteImg) : W32 :=
  BitVec.ofNat 32 (2 ^ 31 + (if b.se then 2 ^ 19 else b.peerq.toNat * 2 ^ 16 + b.peer.toNat))

/-- The code of a slot in instruction memory (R200). -/
def putCode (t : SlotImg) (m : Table W128) : Table W128 :=
  (if t.routine.isSome then (List.range 1024).map (fun k => (Config.routineWord k, k)) else t.code.zipIdx).foldl
    (fun m e => tablePut 0 m (t.slot.toNat * 1024 + e.2) e.1) m

def putRoutes (t : SlotImg) (m : Table W32) : Table W32 :=
  t.routes.foldl (fun m b => tablePut 0 m (t.slot.toNat * 16 + b.q.toNat) (routeWord b)) m

/-- Descriptors 240 to 255 of a rafter that runs the preconditioner routine (R380). -/
def routineDescs (r : RafterImg) : List (Nat × BitVec 512) :=
  if r.slots.any (fun t => t.routine.isSome) then (List.range 16).map (fun k => (240 + k, Config.routineDesc k)) else []

/-- A rafter's configuration from its image (R113); memories other than those of the image stay. -/
def configure (r : RafterImg) (x : Rafter) : Rafter :=
  { x with
    entry := r.entry, decision := r.decision, serve := r.serve, progLimit := r.progLimit
    slotDesc := (List.range 8).map (fun k => match r.slots.find? (fun t => t.slot.toNat = k) with
      | some t => slotWord t
      | none => 0)
    depth := (List.range 16).map (fun q => BitVec.ofNat 9 (r.depths.getD q 0))
    route := r.slots.foldl (fun m t => putRoutes t m) []
    imem := r.slots.foldl (fun m t => putCode t m) []
    descs := (r.descs ++ routineDescs r).foldl (fun m d => tablePut 0 m d.1 d.2) []
    routine := r.slots.foldl (fun m t => if t.routine.isSome then m ||| (1 : Byte) <<< t.slot.toNat else m) 0 }

/-- A rafter that the image does not use. -/
def unconfigured (x : Rafter) : Rafter :=
  { x with entry := 0, decision := false, serve := false, progLimit := 0, slotDesc := List.replicate 8 0
           depth := List.replicate 16 0, route := [], imem := [], descs := [], routine := 0 }

/-- Every rafter takes its image and stands as at the start of a course; the translations that it holds stay (R408). -/
def configureAll (s : State) (i : Image) : State :=
  (positions s).foldl (fun a p =>
    let x := rafterAt a p
    let y := match i.rafters.find? (fun r => r.rafter = logicalOf s p) with
      | some r => configure r x
      | none => unconfigured x
    setRafter a p { atCourseStart { y with recur := [] } with tlb := x.tlb }) s

/-- Spars of the image hold their rest values (R223, R316). -/
def loadSpars (s : State) (i : Image) : State :=
  let s0 := { s with trs := s.trs.map (fun t => { t with spars := [], waits := [], inputs := List.replicate 7 [], replies := [] })
                     sparInbox := [] }
  i.spars.foldl (fun a e => updTruss a (sparTruss e.1) (fun t =>
    setSpar t (sparIndex e.1) { count := e.2, phase := false, rest := e.2 })) s0

def loadGrants (s : State) (i : Image) : State :=
  i.sysGrants.foldl (fun a g => updTruss a g.1.toNat (fun t => { t with sysGrant := g.2 }))
    { s with trs := s.trs.map (fun t => { t with sysGrant := 0 }) }

/-- Bits of a mask of logical rafters. -/
def rafterMask (i : Image) (f : RafterImg → Bool) : BitVec 96 :=
  i.rafters.foldl (fun m r => if f r then m ||| (1#96 <<< r.rafter) else m) 0

/-- A group's ring from its descriptor (R351), LAG as LC-25 proves it. -/
def groupOf (r : RingImg) : Group :=
  { Group.reset with
    depth := r.depth, guarded := r.guarded, guard := r.guard, gn := r.gn, rstride := r.rstride, head := r.head, ver := r.ver
    lag := BitVec.ofNat 8 (lagOf r r.span) }

/-- LIVE and HEAD of a group from a course record (Table 2.6), and VER from the version board written with it (R393). -/
def resumeGroup (rec board : List Byte) (k : Nat) (g : Group) : Group :=
  { g with live := byteField rec (0x40 + k) 1 / 4 % 2 = 1
           head := BitVec.ofNat 2 (byteField rec (0x40 + k) 1 / 8)
           ver := BitVec.ofNat 32 (byteField board (0x44 + 16 * k) 4) }

def loadGroups (s : State) (i : Image) (resume : Bool) (board : List Byte) : State :=
  let put := fun (f : Nat → Group → Group) =>
    i.rings.foldl (fun m r => tablePut Group.reset m r.group.toNat (f r.group.toNat (groupOf r))) []
  let fresh := { s with upd := { s.upd with groups := put (fun _ g => g) }, crs := { s.crs with step := 0 } }
  if resume then
    match latestRecord s with
    | some rec =>
      { s with upd := { s.upd with groups := put (resumeGroup rec board) }
               crs := { s.crs with step := BitVec.ofNat 64 (byteField rec 8 8) } }
    | none => fresh
  else fresh

/-- The restore step of a warm reset: LIVE and HEAD of every group from the latest valid course record, and VER from the
version board where it carries the course after the record's (R86, R393). -/
def restoreGroups (s : State) : State :=
  match latestRecord s with
  | none => s
  | some rec =>
    let b := match imgAddr s (·.vboard) with
      | some a => ridgeRead s a 8192
      | none => (s, none)
    let board := b.2.getD []
    let fresh := byteField board 0 8 == byteField rec 0 8 + 1
    { b.1 with upd := { b.1.upd with groups := b.1.upd.groups.map (fun e =>
        let g := resumeGroup rec board e.1 e.2
        (e.1, if fresh then g else { g with ver := e.2.ver })) } }

/-- Update programs: the menu in slots 0x00 to 0x08, the image's in 0x10 to 0x1F (R374). -/
def putUprog (m : Table W32) (slot : Nat) (ws : List W32) : Table W32 :=
  (ws.zipIdx).foldl (fun m e => tablePut 0 m (64 * slot + e.2) e.1) m

def loadUprogs (i : Image) : Table W32 :=
  i.programs.foldl (fun m p => putUprog m p.1.toNat p.2) ((menu.zipIdx).foldl (fun m e => putUprog m e.2 e.1) [])

/-- `n` frames of a stack taken for the schedule. -/
def reserveFrames (st owner : Nat) : Nat → State → State
  | 0, s => s
  | n + 1, s =>
    match takeFrame s st false owner with
    | some (f, s1) => reserveFrames st owner n (setFrame s1 st f .resv)
    | none => s

def loadSchedule (s : State) (i : Image) (h : List Byte) : State :=
  match i.sched with
  | none => s
  | some a =>
    let owner := byteField h 2 1 % 16
    let s1 := { s with tier := { s.tier with
      schedEn := true, schedAddr := BitVec.ofNat 43 a.toNat, schedCycle := BitVec.ofNat 16 (byteField h 0 2)
      schedOwner := BitVec.ofNat 4 owner, schedRecs := schedRecords h, issued := [], lateSeen := []
      resv := (List.range 8).map (fun st => BitVec.ofNat 12 (schedFrames h st)) } }
    (List.range 8).foldl (fun x st => reserveFrames st owner (schedFrames h st) x) s1

/-- A section of the image written to its extents (R605). -/
def putSection (s : State) (a : Option W64) (bs : List Byte) : State :=
  match a with
  | none => s
  | some v => (unifiedWrite s none v.toNat bs).1

/-- The accepted image `p` takes its place on the device. -/
def install (s : State) (p : Prog) : State :=
  match p.img with
  | none => s
  | some i =>
    let r := if p.reduced then (s, { board := [], sched := [] }) else loadReads s i p.resume
    let s1 := loadGrants (loadSpars (configureAll r.1 i) i) i
    let s2 := if p.reduced then { s1 with crs := { s1.crs with step := 0 }, upd := { s1.upd with groups := [] } }
      else loadGroups (loadSchedule (putSection (putSection s1 i.gtab i.groupTab) i.stab i.shardTab) i r.2.sched) i p.resume r.2.board
    { s2 with
      prog := p
      crs := { s2.crs with decBound := i.d, minPeriod := BitVec.ofNat 32 (max 10000 (i.d.toNat +
          ticksAt (floorMHz p.floor.toNat) i.bodyCycles + 9000))
                           dec := rafterMask i (·.decision), part := rafterMask i (·.serve) }
      upd := { s2.upd with uprog := loadUprogs i, lstop := false, taken := [] }
      lnk := { s2.lnk with cdesc := i.cdescs.foldl (fun m c =>
        tablePut 0 m c.1.toNat (BitVec.ofNat 512 (natOfBytes c.2))) [] }
      cnt := { s2.cnt with grant := i.ctrMask, first := true }
      saf := { s2.saf with last := 0, proven := false }
      pwr := { s2.pwr with floor := p.floor, aclk := if p.reduced then 3 else s2.pwr.aclk } }

/-! ### PROG.LOAD (R489) -/

def opLoad : Byte := 0x01
def opStart : Byte := 0x02

/-- Lasting faults in force that only a power-up or a replacement remedies keep a load out (Table 15.9). -/
def fenceable (f : UnitId × Byte) : Bool :=
  let k := unitKind f.1
  k == 0 || k == 3 || (k == 2 && ((0x90 ≤ f.2.toNat && f.2.toNat ≤ 0x9F) || f.2 == 0x61)) || k == 4 || k == 6

/-- A load is admitted: nothing loaded or loading, or the handover of R555; no fault that keeps it out, and a power-up
self-test that passed (R341, log 114). -/
def loadAdmitted (s : State) (reduced : Bool) : Bool :=
  s.hst.loading.isNone && s.saf.inForce.all fenceable && !s.saf.untested &&
  (!s.prog.loaded || (s.prog.reduced && s.crs.running && s.progNext.isNone && !reduced && s.pwr.stage == 2))

def startLoad (s : State) (j : LoadJob) : State :=
  if loadAdmitted s j.reduced then { s with hst := { s.hst with loading := some j } }
  else complete s opLoad j.tag 1 []

/-- What the ridge answers for an image: the report's STATUS, its findings, MIN_P, and the program if accepted. -/
structure Verdict where
  status : Nat
  finds : List Finding
  minP : Nat
  prog : Option Prog
deriving DecidableEq, Repr

def progOf (h : Header) (i : Image) : Prog :=
  { loaded := true, started := false, sclass := h.sclass, reduced := h.kind == 3, resume := h.resume, imageId := h.image
    floor := BitVec.ofNat 2 h.floor, ctr := BitVec.ofNat 8 h.ctr, svn := BitVec.ofNat 32 h.svn, dig := h.bodyDig
    img := some i }

def rejectFinding (r : Nat × Nat × Nat) : Finding :=
  { code := 0, sub := r.1, unit := ridgeUnit.toNat, wh := 0xD0, index := 0, found := r.2.1, limit := r.2.2 }

/-- LC-22 is not run when LC-01 to LC-03 fail. -/
def ranAll (fs : List Finding) : Bool := !fs.any (fun f => decide (f.code ≤ 3))

def verdictOf (s : State) (h : Header) (pre : Option (Nat × Nat × Nat)) (i : Image) (r : LoadReads) : Verdict :=
  match pre with
  | some r => { status := 2, finds := [rejectFinding r], minP := 0, prog := none }
  | none =>
    let e := checkEnv s h i r
    let fs := loadChecks e i
    { status := if fs.isEmpty then 0 else 1, finds := fs, minP := if ranAll fs then minPeriod e i else 0
      prog := if fs.isEmpty then some (progOf h i) else none }

/-- The accepted program: installed, or kept for the handover while a reduced program runs (R555). -/
def takeProgram (s : State) (p : Option Prog) : State :=
  match p with
  | none => s
  | some q => if s.prog.loaded then { s with progNext := some q } else install s q

def rejectEvent (s : State) (pre : Option (Nat × Nat × Nat)) : State :=
  match pre with
  | some r => event s ridgeUnit 0xF3 (BitVec.ofNat 32 r.1) 0
  | none => s

def reportStatus (s : State) (v : Verdict) (image : W64) (time : Nat) : State :=
  putReport s (reportBytes v.status v.finds image v.minP time)

/-- What the checks read of the unified range for an image: nothing where it is refused before them. -/
def readsFor (s : State) (h : Header) (pre : Option (Nat × Nat × Nat)) (img : Image) : State × LoadReads :=
  if pre.isSome ∨ h.kind = 3 then (s, { board := [], sched := [] }) else loadReads s img h.resume

/-- LOAD_CHECKS_COMPLETE: `img` is the body as the ridge parses it, `time` the check time in µs. A fault that keeps programs
out and came up during the load refuses it (R341). -/
def loadChecksComplete (s : State) (img : Image) (time : W32) : State :=
  match s.hst.loading with
  | none => s
  | some j =>
    let bs := memRead s.hst.mem j.addr 0x2000
    let h := headerOf bs
    let pre := preReject s j h (memRead s.hst.mem (j.addr + 0x2000) (j.len - 0x2000))
    if !s.saf.inForce.all fenceable then
      complete { s with hst := { s.hst with loading := none } } opLoad j.tag 1 []
    else
      let reads := readsFor s h pre img
      let v := verdictOf reads.1 h pre img reads.2
      let s1 := { reads.1 with hst := { reads.1.hst with loading := none } }
      let s2 := reportStatus (rejectEvent (takeProgram s1 v.prog) pre) v h.image time.toNat
      complete s2 opLoad j.tag (if v.status = 0 then 0 else 4) (bytesOf 2 v.status ++ bytesOf 2 (min v.finds.length 0xFFFF))

/-- LOAD_CHECKS_COMPLETE (R309 to R314, R489, R566). -/
def execLoadChecksComplete (img : Image) (time : W32) (s : State) : Out State := .next (loadChecksComplete s img time)

/-! ### PROG.START (R355, R490, R496) -/

/-- The version board (Table 10.1). -/
def versionBytes (s : State) (course : W64) (newstep skipped resumed : Bool) : List Byte :=
  bytesOf 8 course.toNat ++ bytesOf 8 s.crs.step.toNat ++ bytesOf 4 (b2n newstep + 2 * b2n skipped + 4 * b2n resumed) ++
  zeros 44 ++
  (List.range 256).flatMap (fun k =>
    let g := groupAt s (BitVec.ofNat 8 k)
    bytesOf 4 g.head.toNat ++ bytesOf 4 g.ver.toNat ++ [BitVec.ofNat 8 g.depth.toNat, BitVec.ofNat 8 g.outcome.toNat] ++
      zeros 6) ++
  zeros 4032

def writeVersions (s : State) (course : W64) (newstep skipped resumed : Bool) : State :=
  match imgAddr s (·.vboard) with
  | none => s
  | some a => (ridgeWrite s a (versionBytes s course newstep skipped resumed)).1

def writeHostBoard (s : State) (course : W64) : State :=
  match imgAddr s (·.hboard) with
  | none => s
  | some a => (ridgeWrite s a (hostBoard s course)).1

/-- PTP time, in units of 10 ns, at a time of the device, and the device's time at a PTP time (R49, R449). -/
def ptpOf (s : State) (d : Nat) : Nat := s.lnk.ptpTime + d - s.lnk.ptpAt
def ptpTick (s : State) (t : Nat) : Nat := t + s.lnk.ptpAt - s.lnk.ptpTime

/-- The first boundary instant at least 20 µs from now on the source's time, and the course number it takes
(R56, R490). -/
def firstBoundary (s : State) (first : W64) : Nat × W64 :=
  let t := s.now + 2000
  let p := s.crs.period.toNat
  let off := s.crs.ptpOffset.toNat
  if s.crs.source = 2 then
    let k := (ptpOf s t - off + p - 1) / p
    (ptpTick s (off + k * p), BitVec.ofNat 64 k)
  else (t, first)

/-- The boards of the first course, the POSTs in force before it being zero. -/
def firstBoards (s : State) (course : W64) : State :=
  let s1 := writeVersions s course true false false
  let s2 := readPosts { s1 with hst := { s1.hst with posts := [], postsNext := [] } }
  writeHostBoard s2 course

def startAt (s : State) (next : Nat) (course : W64) : State :=
  let s1 := { s with
    prog := { s.prog with started := true }
    hst := { s.hst with sessions := s.hst.sessions.map (fun x => { x with course := course }) }
    crs := { s.crs with starting := true, course := course, next := next, phase := 0, lastExt := none, extNext := none
                        good := 0, holdover := false, locked := false, slotDone := false } }
  firstBoards s1 course

/-- The settings of the course satisfy the image (R52, R490), and a bridge node is left (R506). -/
def settingsOk (s : State) (minP : W32) : Bool :=
  decide (minP.toNat ≤ s.crs.period.toNat) && decide (s.crs.ptpOffset.toNat < s.crs.period.toNat) &&
  s.hst.bridgeFence != 3

/-- PROG.START: at the fetch; while a reduced program runs it waits for step 3 (R555). -/
def startProgram (s : State) (tag : W16) (first : W64) : State :=
  match s.progNext with
  | some _ =>
    if s.crs.running && s.hst.takeover.isNone && s.hst.bridgeFence != 3 then
      { s with hst := { s.hst with takeover := some tag } }
    else complete s opStart tag 1 []
  | none =>
    if s.prog.loaded && !s.prog.started && settingsOk s s.crs.minPeriod then
      let b := firstBoundary s first
      complete (startAt s b.1 b.2) opStart tag 0 []
    else complete s opStart tag 1 []

/-- Step 3 of the handover: the reduced program stops, no course runs for one period, and the new program starts
with the number that its course would have had. -/
def handOver (s : State) : State :=
  match s.hst.takeover, s.progNext with
  | some tag, some p =>
    let c := s.crs.course
    let next := s.crs.next + s.crs.period.toNat
    let s1 := install { (stopProgram s) with progNext := none } p
    let s2 := { s1 with hst := { s1.hst with takeover := none } }
    if settingsOk s2 s2.crs.minPeriod then
      let s3 := startAt s2 next (c + 2)
      complete s3 opStart tag 0 []
    else complete s2 opStart tag 1 []
  | _, _ => s

end Sys2Proof.Machine
end

