-- ==== Sys2Proof/Machine/Wake.lean ====
section
/-!
DEFINITION. Power states (R556 to R558, Table 16.4): the state that PWR_TOL selects, what leaving Dormant
loses, and waking.
-/

namespace Sys2Proof.Machine

/-- On-die memories as the built-in self-test leaves them (Table 16.1, step 3). -/
def clearRafter (x : Rafter) : Rafter :=
  { x with scratch := [], imem := [], descs := [], valley := [], dirty := 0, soffit := [], pass := List.replicate 4 []
           prefetch := [] }

def clearTruss (t : Truss) : Truss := { t with spars := [], waits := [], loft := [], loftOut := [], bankWait := [] }

def clearDie (s : State) : State := { s with rft := s.rft.map clearRafter, trs := s.trs.map clearTruss }

/-- A loaded image's configuration, reloaded. -/
def reloadImage (s : State) : State :=
  match s.prog.img with
  | some i => loadSpars (configureAll s i) i
  | none => s

/-- Wake times in µs of the states 0 to 4. -/
def wakeTime (st : Nat) : Nat :=
  if st = 0 then 0 else if st = 1 then 1 else if st = 2 then 20 else if st = 3 then 400 else 40000

/-- The deepest state whose wake time does not exceed the tolerance. -/
def deepest (tol : Nat) : BitVec 3 :=
  if 40000 ≤ tol then 4 else if 400 ≤ tol then 3 else if 20 ≤ tol then 2 else if 1 ≤ tol then 1 else 0

/-- The tolerance in force: D3hot counts as 40,000 µs (R558). -/
def tolerance (s : State) : Nat := if s.hst.d3hot then 40000 else s.pwr.tol.toNat

/-- Use of the device puts off the next entry. -/
def touch (s : State) : State := { s with pwr := { s.pwr with lastUse := s.now } }

/-- The device wakes; from Dormant its on-die memory is cleared and the image's configuration reloaded. -/
def wake (s : State) : State :=
  let s1 := { s with pwr := { s.pwr with st := 0, lastUse := s.now } }
  if s.pwr.st = 4 then reloadImage (clearDie s1) else s1

end Sys2Proof.Machine
end

