-- ==== Sys2Proof/Machine/Commands.lean ====
section
/-!
DEFINITION. Host commands (R79 to R82, R414, R483 to R491, R497, R501, R506, R583, R608, R609): what is malformed,
the classes, each command's effect where it applies, and the fetch while no program runs.
-/

namespace Sys2Proof.Machine

/-! ### Entries -/

/-- OPC and TAG of a command. -/
def cmdOpc (i : Instr) : Byte := BitVec.ofNat 8 ((encodeCmd i).getD 0)
def cmdTag (i : Instr) : W16 := BitVec.ofNat 16 ((encodeCmd i).getD 0 / 2 ^ 16)

def tierRangeBad (first count : W32) : Bool := decide (2 ^ 19 < first.toNat + count.toNat)
def shardRangeBad (o : LinkXferOps) : Bool := decide (2 ^ 20 < o.first.toNat + o.count.toNat)

/-- An operand outside the range, the alignment or the enumeration that the manual gives (R487, R502). -/
def malformed : Instr → Bool
  | .progLoad _ a n _ => decide (a.toNat % 4096 ≠ 0) || decide (2 ^ 30 < n.toNat)
  | .winBind _ _ v a _ => (decide (1 ≤ v.toNat) && decide (v.toNat ≤ 15)) || decide (a.toNat % 4096 ≠ 0)
  | .tierAlloc o => tierRangeBad o.first o.count || o.width == 3 || decide (7 < o.stack.toNat) || decide (15 < o.owner.toNat)
  | .tierSeal o => tierRangeBad o.first o.count
  | .tierPin o _ => tierRangeBad o.first o.count
  | .tierFree o => tierRangeBad o.first o.count
  | .linkExport o => shardRangeBad o
  | .linkImport o => shardRangeBad o
  | .portService _ cxl p _ => decide ((if cxl then 1 else 7) < p.toNat)
  | .pwrTol _ v => decide (2 ^ 24 ≤ v.toNat)
  | _ => false

/-- The command that an entry's number spells, its PHASE set aside; none where it is malformed. -/
def parseEntry (w : Nat) : Option Instr :=
  let w0 := setField w 8 1 0
  match decodeCmd w0 with
  | some i => if encodeCmd i = some w0 ∧ malformed i = false then some i else none
  | none => none

/-- A malformed command: event CMDBAD, and STATUS 0x02 (R487). -/
def rejectCmd (s : State) (opc : Byte) (tag : W16) : State :=
  complete (event s hostUnit 0xC8 (opc.zeroExtend 32) 0) opc tag 2 []

/-! ### Classes (R486) -/

inductive CmdClass where
  | atFetch | nextCourse | disable
deriving DecidableEq, Repr

def cmdClass : Instr → CmdClass
  | .progLoad .. | .progStart .. => .atFetch
  | .progStop .. | .learnStop .. | .sessionClose .. | .publishRevoke .. | .fence .. | .tierFree .. | .ctrRevoke .. => .disable
  | .winBind _ _ _ a _ => if a = 0 then .disable else .nextCourse
  | .portService _ _ _ on => if on then .nextCourse else .disable
  | _ => .nextCourse

/-! ### Disabling units (R79 to R81, R397, R528) -/

/-- Faults in force whose remedy has been applied; learning stays stopped where the program goes on. -/
def cure (s : State) (f : UnitId × Byte → Bool) : State :=
  if s.saf.inForce.any f then
    { s with saf := { s.saf with inForce := s.saf.inForce.filter (fun e => !f e) }
             upd := { s.upd with lstop := s.upd.lstop || s.crs.running } }
  else s

/-- A stream engine gives up the prefetch requests that it still queues (R308). -/
def dropPrefetch (s : State) (p : Nat) : State :=
  let x := rafterAt s p
  if x.prefetch.isEmpty then s
  else
    let u := rafterUnit (logicalOf s p)
    x.prefetch.foldl (fun a e => event a u 0xAB (e.1.zeroExtend 32) 0)
      (setRafter s p { x with prefetch := [], wgen := x.wgen + 1 })

/-- Groups that have begun the step and lost a request are skipped. -/
def skipStarted (s : State) : State :=
  { s with upd := { s.upd with groups := s.upd.groups.map (fun e => (e.1, if e.2.st = 1 then { e.2 with st := 3 } else e.2)) } }

/-- LEARN.STOP. -/
def learnStopEffect (s : State) : State :=
  let s1 := (List.range 16).foldl dropUnitWork s
  let s2 := (positions s1).foldl dropPrefetch s1
  skipStarted { s2 with upd := { s2.upd with lstop := true } }

/-! ### Fence masks (R506) -/

/-- The faults in force of rafters, under the numbers that the new mask gives them; those of fenced rafters end. -/
def renumber (old new : State) (f : UnitId × Byte) : Option (UnitId × Byte) :=
  if unitKind f.1 = 0 then
    match physOf old (unitInst f.1) with
    | none => none
    | some p => if new.fenced.getLsbD p then none else some (rafterUnit (logicalOf new p), f.2)
  else some f

/-- A lasting fault of the update part of an eave unit. -/
def nmuFault (f : UnitId × Byte) : Bool :=
  unitKind f.1 == 2 && ((decide (0x90 ≤ f.2.toNat) && decide (f.2.toNat ≤ 0x9F)) || f.2 == 0x61)

/-- A program stops for a fence or a PROG.STOP; an image accepted for the handover is then the loaded one. -/
def stopAndPromote (s : State) : State :=
  let s1 := stopProgram s
  match s.progNext with
  | some p => install { s1 with progNext := none, hst := { s1.hst with takeover := none } } p
  | none => s1

/-- Positions newly fenced: their prefetch requests are dropped, and a program that uses them stops and is
unloaded, as is an image accepted for the handover. -/
def fenceRafters (s : State) (m : BitVec 96) : State :=
  let new := m &&& s.enabled &&& ~~~s.fenced
  if new = 0 then s
  else
    let s1 := ((positions s).filter (fun p => new.getLsbD p)).foldl dropPrefetch s
    let s2 := if s1.prog.loaded then stopProgram { s1 with progNext := none, hst := { s1.hst with takeover := none } } else s1
    let s3 := { s2 with fenced := s2.fenced ||| new }
    { s3 with saf := { s3.saf with inForce := s3.saf.inForce.filterMap (renumber s2 s3) } }

/-- NMUs newly fenced give up their work; link engines serve their shards from then on. -/
def fenceNmus (s : State) (m : Byte) : State :=
  let new := m &&& ~~~s.upd.nmuFence
  let s1 := ((List.range 8).filter (fun k => new.getLsbD k)).foldl dropUnitWork s
  let s2 := { s1 with upd := { s1.upd with nmuFence := s1.upd.nmuFence ||| m } }
  cure s2 (fun f => nmuFault f && m.getLsbD (unitInst f.1))

def fenceBridges (s : State) (m : BitVec 2) : State :=
  cure { s with hst := { s.hst with bridgeFence := s.hst.bridgeFence ||| m } }
    (fun f => unitKind f.1 == 3 && m.getLsbD (unitInst f.1))

/-- FENCE: the masks named are added to those in force. -/
def fenceEffect (s : State) (rafters : BitVec 96) (nmu : Byte) (bridge : BitVec 2) : State :=
  fenceBridges (fenceNmus (fenceRafters s rafters) nmu) bridge

/-! ### Ports (Tables 12.12 and 13.8) -/

def portIn (s : State) (cxl : Bool) (p : Nat) : State :=
  if cxl then updCxl s p (fun x => { x with serve := true, perst := true })
  else if (portAt s p).serve then s
  else openPort (updPort s p (fun x => { x with serve := true })) p

def portOut (s : State) (cxl : Bool) (p : Nat) : State :=
  if cxl then
    cure (if (cxlAt s p).serve then retireCxl s p else s) (fun f => f.1 == cxlUnit p)
  else cure (if (portAt s p).serve then retirePort s p else s) (fun f => f.1 == linkUnit p)

/-! ### Sessions, windows and permissions (R497, R609) -/

/-- SESSION.OPEN is admitted. -/
def openOk (s : State) (n iw ow : Byte) : Bool :=
  match s.prog.img with
  | none => false
  | some i =>
    s.pwr.stage == 2 && decide (n.toNat < i.maxSess) && (inWin s iw.toNat).isSome &&
    (outWin s ow.toNat).any (fun o => o.kind = .session) &&
    s.hst.sessions.all (fun x => x.num != n && x.iw.toNat != iw.toNat && x.ow.toNat != ow.toNat)

/-- The course from which a command of class N is in force. -/
def effectCourse (s : State) : W64 := if s.crs.running then s.crs.course + 1 else s.crs.course

def sessionOpenEffect (s : State) (n iw ow : Byte) : State :=
  { s with hst := { s.hst with sessions := s.hst.sessions ++
    [{ num := n, iw := BitVec.ofNat 6 iw.toNat, ow := BitVec.ofNat 6 ow.toNat, course := effectCourse s }] } }

def sessionOpenAt (s : State) (n : Byte) : Bool := s.hst.sessions.any (fun x => x.num == n)

def sessionCloseEffect (s : State) (n : Byte) : State :=
  { s with hst := { s.hst with sessions := s.hst.sessions.filter (fun x => x.num != n) } }

def bindEffect (s : State) (w : Byte) (v : BitVec 6) (a : W64) (d : W32) : State :=
  let rest := s.hst.binds.filter (fun b => b.win.toNat != w.toNat)
  { s with hst := { s.hst with binds := if a = 0 then rest
    else rest ++ [{ win := BitVec.ofNat 6 w.toNat, vec := v, addr := a, stride := d }] } }

def permitEffect (s : State) (tag : W16) (p : Nat) (standing : Bool) (step : W64) : State :=
  let s1 := endPermit s p 5
  staleCheck (setPub s1 p { pubAt s1 p with perm := some (tag, standing, step) }) p

/-- Groups that the loaded image declares. -/
def imgMask (s : State) : W32 :=
  match s.prog.img with
  | some i => i.ctrMask
  | none => 0

/-! ### Effects -/

/-- An extent command before stage Full (R547). -/
def tierRefuse (s : State) (i : Instr) (first count : W32) : State :=
  complete s (cmdOpc i) (cmdTag i) 1 (detailOf count.toNat (if count = 0 then noFirst else first.toNat))

/-- A link transfer before stage Full (R547). -/
def xferRefuse (s : State) (i : Instr) (o : LinkXferOps) : State :=
  complete s (cmdOpc i) (cmdTag i) 1 (detailOf 0 (if o.count = 0 then noFirst else o.first.toNat))

/-- A command that is done at once, or refused as the device's state does not allow it. -/
def doneOr (s : State) (i : Instr) (ok : Bool) (f : State → State) : State :=
  if ok then complete (f s) (cmdOpc i) (cmdTag i) 0 [] else complete s (cmdOpc i) (cmdTag i) 1 []

/-- The effect of a well-formed command where it applies. -/
def applyCmd (s : State) (i : Instr) : State :=
  let full := s.pwr.stage == 2
  match i with
  | .progLoad t a n r => startLoad s { tag := t, addr := a.toNat, len := n.toNat, reduced := r }
  | .progStart t c => startProgram s t c
  | .progStop _ => doneOr s i s.prog.loaded stopAndPromote
  | .learnStop _ => doneOr s i true learnStopEffect
  | .learnStart _ => doneOr s i true (fun a => { a with upd := { a.upd with lstop := false } })
  | .sessionOpen _ n iw ow => doneOr s i (openOk s n iw ow) (fun a => sessionOpenEffect a n iw ow)
  | .sessionClose _ n => doneOr s i (full && sessionOpenAt s n) (fun a => sessionCloseEffect a n)
  | .winBind _ w v a d => doneOr s i (outWin s w.toNat).isSome (fun x => bindEffect x w v a d)
  | .publishPermit t p st k =>
    if (pubImg s p.toNat).isSome then permitEffect s t p.toNat st k else complete s (cmdOpc i) (cmdTag i) 1 []
  | .publishRevoke _ p => doneOr s i (pubImg s p.toNat).isSome (fun a => endPermit a p.toNat 5)
  | .fence _ r n b => doneOr s i true (fun a => fenceEffect a r n b)
  | .tierAlloc o => if full then tierAlloc s o else tierRefuse s i o.first o.count
  | .tierSeal o => if full then tierSeal s o else tierRefuse s i o.first o.count
  | .tierPin o p => if full then tierPin s o p else tierRefuse s i o.first o.count
  | .tierFree o => if full then tierFree s o else tierRefuse s i o.first o.count
  | .linkExport o => if full then startExport s o else xferRefuse s i o
  | .linkImport o => if full then startImport s o else xferRefuse s i o
  | .portService _ c p on => doneOr s i true (fun a => if on then portIn a c p.toNat else portOut a c p.toNat)
  | .ctrGrant _ m => doneOr s i true (fun a => { a with cnt := { a.cnt with grant := a.cnt.grant ||| (m &&& imgMask a) } })
  | .ctrRevoke _ m => doneOr s i true (fun a => { a with cnt := { a.cnt with grant := a.cnt.grant &&& ~~~m } })
  | .pwrTol _ v => doneOr s i true (fun a => { a with pwr := { a.pwr with tol := BitVec.ofNat 24 v.toNat } })
  | i => complete s (cmdOpc i) (cmdTag i) 0 []

/-! ### Later enabling commands (R82) -/

/-- What is left of a disable request after a later command of the same fetch; none where it is cancelled. -/
def afterEnable (d e : Instr) : Option Instr :=
  match d, e with
  | .learnStop _, .learnStart _ => none
  | .sessionClose _ n, .sessionOpen _ m _ _ => if n = m then none else some d
  | .winBind _ w _ _ _, .winBind _ v _ a _ => if w = v ∧ a ≠ 0 then none else some d
  | .publishRevoke _ p, .publishPermit _ q _ _ => if p = q then none else some d
  | .portService _ c p _, .portService _ c' p' on => if c = c' ∧ p = p' ∧ on = true then none else some d
  | .ctrRevoke t m, .ctrGrant _ g => if m &&& ~~~g = 0 ∧ m ≠ 0 then none else some (.ctrRevoke t (m &&& ~~~g))
  | _, _ => some d

/-- A disable request after all the commands that follow it in its fetch. -/
def survives (later : List Instr) (d : Instr) : Option Instr :=
  later.foldl (fun o e => o.bind (fun x => afterEnable x e)) (some d)

/-! ### The fetch (R484, R485) -/

/-- The entry at a place of the ring, as a number. -/
def ringEntry (s : State) (pos : Nat) : Nat := memWord s.hst.mem (s.hst.crBase.toNat + 64 * pos) 64

/-- Entries that are valid, from a place on, at most `n`. -/
def validEntries (s : State) : Nat → Nat → Bool → List Nat
  | 0, _, _ => []
  | n + 1, pos, phase =>
    let w := ringEntry s pos
    if decide (field w 8 1 = 1) == phase then
      if pos + 1 = ringSize s then w :: validEntries s n 0 (!phase) else w :: validEntries s n (pos + 1) phase
    else []

def fetchedOf (w : Nat) : FetchedCmd :=
  { ring := true, opc := BitVec.ofNat 8 w, tag := BitVec.ofNat 16 (w / 2 ^ 16), cmd := parseEntry w, done := false }

/-- A command that stands behind the ring's entries. -/
def fetchedCmd (i : Instr) : FetchedCmd :=
  { ring := false, opc := cmdOpc i, tag := cmdTag i, cmd := if malformed i then none else some i, done := false }

/-- The entries that a fetch takes from the ring. -/
def fetchRing (s : State) (limit : Nat) : List FetchedCmd :=
  if ringInUse s then (validEntries s (min limit (cqFree s)) s.hst.crHead.toNat s.hst.crPhase).map fetchedOf else []

/-- The head after `n` entries. -/
def advanceHead (s : State) (n : Nat) : State :=
  let h := s.hst.crHead.toNat + n
  let wrap := decide (ringSize s ≤ h)
  { s with hst := { s.hst with crHead := BitVec.ofNat 16 (if wrap then h - ringSize s else h)
                               crPhase := s.hst.crPhase != wrap } }

/-- Places reserved for `n` commands. -/
def reserveMany (s : State) (n : Nat) : State := { s with hst := { s.hst with cqResv := s.hst.cqResv + n } }

/-- A command taken while no program runs: it applies at the fetch, after the wake that it brings (R557). -/
def takeIdle (s : State) (f : FetchedCmd) : State :=
  match f.cmd with
  | none => rejectCmd (touch s) f.opc f.tag
  | some i =>
    applyCmd (match i with
      | .cmdNop _ => touch s
      | .pwrTol _ _ => touch s
      | _ => wake s) i

/-- What a fetch takes: entries of the ring, then commands that stand behind them (R485). -/
def fetchAll (s : State) : List FetchedCmd :=
  let l := fetchRing s 64
  if ringInUse s then l ++ (s.hst.queued.take (min (64 - l.length) (cqFree s - l.length))).map fetchedCmd else l

def ringCount (l : List FetchedCmd) : Nat := (l.filter (·.ring)).length

/-- The commands taken have their places in the completion queue and no longer wait. -/
def markFetched (s : State) (l : List FetchedCmd) : State :=
  let n := l.length - ringCount l
  hitHost (reserveMany { s with hst := { s.hst with queued := s.hst.queued.drop n } } l.length) 0x3C2 l.length

/-- COMMAND_RING_FETCH: what falls due every 10 µs while no program runs and the ridge's firmware works; while a
program runs the ring is fetched in step 5. -/
def commandRingFetch (s : State) : State :=
  if s.crs.running || s.pwr.stage == 0 || s.saf.hwSafe then s
  else
    let l := fetchAll s
    l.foldl takeIdle (markFetched (advanceHead s (ringCount l)) l)

/-- A command given on its own stands at the end of the ring, where one is in use (R483), until the next fetch; where no program runs and nothing
stands before it, that fetch is at once, if the completion queue has a place for it. -/
def giveCmd (s : State) (i : Instr) : State :=
  if s.pwr.stage == 0 || s.saf.hwSafe || !ringInUse s then s
  else if s.crs.running || !s.hst.queued.isEmpty || cqFree s == 0 then
    { s with hst := { s.hst with queued := s.hst.queued ++ [i] } }
  else takeIdle (hitHost (reserveMany s 1) 0x3C2 1) (fetchedCmd i)

/-! ### Meanings -/

/-- The ring is fetched (R483 to R487). -/
def execCommandRingFetch (s : State) : Out State := .next (commandRingFetch s)
/-- NOP (Table 14.5). -/
def execCmdNop (tag : W16) (s : State) : Out State := .next (giveCmd s (.cmdNop tag))
/-- PROG.LOAD (R486, R489). -/
def execProgLoad (tag : W16) (addr : W64) (len : W32) (reduced : Bool) (s : State) : Out State :=
  .next (giveCmd s (.progLoad tag addr len reduced))
/-- PROG.START (R490). -/
def execProgStart (tag : W16) (first : W64) (s : State) : Out State := .next (giveCmd s (.progStart tag first))
/-- PROG.STOP (R491). -/
def execProgStop (tag : W16) (s : State) : Out State := .next (giveCmd s (.progStop tag))
/-- LEARN.STOP (R79, R397). -/
def execLearnStop (tag : W16) (s : State) : Out State := .next (giveCmd s (.learnStop tag))
/-- LEARN.START (Table 14.5). -/
def execLearnStart (tag : W16) (s : State) : Out State := .next (giveCmd s (.learnStart tag))
/-- SESSION.OPEN (R497). -/
def execSessionOpen (tag : W16) (sess : Byte) (iw : Byte) (ow : Byte) (s : State) : Out State :=
  .next (giveCmd s (.sessionOpen tag sess iw ow))
/-- SESSION.CLOSE (R497). -/
def execSessionClose (tag : W16) (sess : Byte) (s : State) : Out State := .next (giveCmd s (.sessionClose tag sess))
/-- WIN.BIND (R494, R609). -/
def execWinBind (tag : W16) (win : Byte) (vec : BitVec 6) (addr : W64) (stride : W32) (s : State) : Out State :=
  .next (giveCmd s (.winBind tag win vec addr stride))
/-- PUBLISH.PERMIT (R501). -/
def execPublishPermit (tag : W16) (set : Byte) (standing : Bool) (step : W64) (s : State) : Out State :=
  .next (giveCmd s (.publishPermit tag set standing step))
/-- PUBLISH.REVOKE (R501, R609). -/
def execPublishRevoke (tag : W16) (set : Byte) (s : State) : Out State := .next (giveCmd s (.publishRevoke tag set))
/-- FENCE (R506). -/
def execFence (tag : W16) (rafters : BitVec 96) (nmu : Byte) (bridge : BitVec 2) (s : State) : Out State :=
  .next (giveCmd s (.fence tag rafters nmu bridge))
/-- TIER.ALLOC (R414). -/
def execTierAlloc (o : TierAllocOps) (s : State) : Out State := .next (giveCmd s (.tierAlloc o))
/-- TIER.SEAL (R414). -/
def execTierSeal (o : TierOps) (s : State) : Out State := .next (giveCmd s (.tierSeal o))
/-- TIER.PIN (R414). -/
def execTierPin (o : TierOps) (pin : Bool) (s : State) : Out State := .next (giveCmd s (.tierPin o pin))
/-- TIER.FREE (R414). -/
def execTierFree (o : TierOps) (s : State) : Out State := .next (giveCmd s (.tierFree o))
/-- LINK.EXPORT (R475). -/
def execLinkExport (o : LinkXferOps) (s : State) : Out State := .next (giveCmd s (.linkExport o))
/-- LINK.IMPORT (R476). -/
def execLinkImport (o : LinkXferOps) (s : State) : Out State := .next (giveCmd s (.linkImport o))
/-- PORT.SERVICE (Tables 12.12 and 13.8). -/
def execPortService (tag : W16) (cxl : Bool) (port : Byte) (inService : Bool) (s : State) : Out State :=
  .next (giveCmd s (.portService tag cxl port inService))
/-- CTR.GRANT (R583). -/
def execCtrGrant (tag : W16) (mask : W32) (s : State) : Out State := .next (giveCmd s (.ctrGrant tag mask))
/-- CTR.REVOKE (R583). -/
def execCtrRevoke (tag : W16) (mask : W32) (s : State) : Out State := .next (giveCmd s (.ctrRevoke tag mask))
/-- PWR.TOL (R556). -/
def execPwrTol (tag : W16) (tol : W32) (s : State) : Out State := .next (giveCmd s (.pwrTol tag tol))

end Sys2Proof.Machine
end

