-- ==== Sys2Proof/Machine/RegRead.lean ====
section
/-!
DEFINITION. The registers behind BAR0 (R8, R17 to R19, R508, Table 14.10 and the Registers section of each chapter): where
an offset lies, and the 32 bits that stand there.
-/

namespace Sys2Proof.Machine

/-! ### Where an offset lies (Table 14.10) -/

/-- A register block with the unit's number and the offset inside it. -/
inductive RegAt where
  | none
  | ident (o : Nat)
  | crs (o : Nat)
  | hst (o : Nat)
  | pwr (o : Nat)
  | sec (o : Nat)
  | rft (n o : Nat)
  | trs (t o : Nat)
  | eav (e o : Nat)
  | tier (o : Nat)
  | cxl (c o : Nat)
  | lnk (l o : Nat)
  | com (o : Nat)
  | ctr (o : Nat)
  | saf (o : Nat)
  | topo (o : Nat)
deriving DecidableEq, Repr

/-- The block of an offset; rafter blocks exist for the logical rafters only (R8). -/
def blockOf (s : State) (a : Nat) : RegAt :=
  if a < 0x100000 then .ident a
  else if a < 0x200000 then .crs (a - 0x100000)
  else if a < 0x400000 then .hst (a - 0x200000)
  else if a < 0x600000 then .pwr (a - 0x400000)
  else if a < 0x1000000 then .sec (a - 0x600000)
  else if a < 0x1600000 then
    (if (a - 0x1000000) / 0x10000 < rafterCount s then .rft ((a - 0x1000000) / 0x10000) (a % 0x10000) else .none)
  else if a < 0x2000000 then .none
  else if a < 0x2100000 then .trs ((a - 0x2000000) / 0x10000) (a % 0x10000)
  else if a < 0x2800000 then .none
  else if a < 0x2A00000 then .eav ((a - 0x2800000) / 0x40000) (a % 0x40000)
  else if a < 0x2C00000 then .none
  else if a < 0x2C10000 then .tier (a - 0x2C00000)
  else if a < 0x2C30000 then .cxl ((a - 0x2C10000) / 0x10000) (a % 0x10000)
  else if a < 0x3000000 then .none
  else if a < 0x3400000 then .lnk ((a - 0x3000000) / 0x80000) (a % 0x80000)
  else if a < 0x3420000 then .com (a - 0x3400000)
  else if a < 0x3800000 then .none
  else if a < 0x3C00000 then .ctr (a - 0x3800000)
  else if a < 0x3E00000 then .saf (a - 0x3C00000)
  else .topo (a - 0x3E00000)

/-- In stage ROM only the identity, power and security blocks answer (R563). -/
def regAt (s : State) (a : Nat) : RegAt :=
  match blockOf s a with
  | .ident o => .ident o
  | .pwr o => .pwr o
  | .sec o => .sec o
  | r => if s.pwr.stage = 0 then .none else r

/-- An access to a rafter, truss or eave block wakes the device (R557). -/
def wakesDie : RegAt → Bool
  | .rft .. | .trs .. | .eav .. => true
  | _ => false

/-! ### Small parts of words -/

/-- The enabled rafters of a grade. -/
def gradeCount (g : Grade) : Nat :=
  match g with
  | .w96 => 0x60
  | .w90 => 0x5A
  | .w84 => 0x54

def deviceId (s : State) : Nat := 0x57 * 2 ^ 24 + gradeCount s.grade * 2 ^ 16

/-- The low and the high word of an address that an image declares, EN in bit 0. -/
def addrLo (a : Option Nat) : Nat :=
  match a with
  | some x => x % 2 ^ 32 + 1
  | none => 0

def addrHi (a : Option Nat) : Nat :=
  match a with
  | some x => field x 32 11
  | none => 0

/-- Word `k` of a wide value. -/
def wordAt (x k : Nat) : Nat := field x (32 * k) 32

/-- The word at byte `o` of a list of bytes. -/
def wordIn (bs : List Byte) (o : Nat) : Nat := natOfBytes ((bs.drop o).take 4)

/-- The highest current reading and its sensor (R45). -/
def hottest (s : State) : Nat × Byte :=
  (List.range 28).foldl (fun m k =>
    if s.pwr.tempValid.getLsbD k && (decide (m.2.toInt < (s.pwr.temps.getD k 0).toInt)) then (k, s.pwr.temps.getD k 0) else m)
    (0, 0)

/-! ### Course, host port, topology -/

def statusWord (s : State) : Nat :=
  s.crs.resetGen.toNat * 2 ^ 8 + b2n s.crs.delayed * 2 ^ 6 + s.crs.phase.toNat * 2 ^ 4 + b2n s.crs.cfgRej * 2 ^ 3 +
  b2n s.crs.holdover * 2 ^ 2 + b2n s.crs.locked * 2 + b2n s.crs.running

/-- Disable requests held for the next boundary (R79): those fetched, and the writes of peer-table entries that replace valid
ones (R448). -/
def heldDisables (s : State) : Nat :=
  s.crs.defer.length + ((List.range 8).map (fun l =>
    ((portAt s l).peerHold.filter (fun e => peerValid (portAt s l) e.1)).length)).sum

def regCrs (s : State) (o : Nat) : Nat :=
  let c := s.crs
  if 0x40 ≤ o ∧ o < 0x4C then wordAt c.part.toNat ((o - 0x40) / 4)
  else if 0x50 ≤ o ∧ o < 0x5C then wordAt c.dec.toNat ((o - 0x50) / 4)
  else match o with
  | 0x00 => b2n c.courseOutEn * 4 + c.source.toNat
  | 0x04 => c.period.toNat
  | 0x08 => statusWord s
  | 0x10 => wordAt c.course.toNat 0
  | 0x14 => c.courseHi.toNat
  | 0x18 => wordAt c.step.toNat 0
  | 0x1C => c.stepHi.toNat
  | 0x20 => c.decBound.toNat
  | 0x24 => c.minPeriod.toNat
  | 0x28 => c.ptpOffset.toNat
  | 0x2C => c.decLast.toNat
  | 0x30 => c.decMax.toNat
  | 0x34 => c.slackMin.toNat
  | 0x38 => c.fault.toNat
  | 0x60 => heldDisables s % 1024
  | 0x64 => s.tier.gen.toNat
  | 0x70 => addrLo (imgAddr s (·.vboard))
  | 0x74 => addrHi (imgAddr s (·.vboard))
  | 0x78 => addrLo (imgAddr s (·.gtab))
  | 0x7C => addrHi (imgAddr s (·.gtab))
  | 0x80 => addrLo (imgAddr s (·.stab))
  | 0x84 => addrHi (imgAddr s (·.stab))
  | _ => 0

def regHst (s : State) (o : Nat) : Nat :=
  let h := s.hst
  if 0x100 ≤ o ∧ o < 0x300 then wordIn (pubBytes (pubAt s ((o - 0x100) / 0x20))) (o % 0x20)
  else match o with
  | 0x00 => wordAt h.crBase.toNat 0
  | 0x04 => wordAt h.crBase.toNat 1
  | 0x08 => b2n h.crEn * 2 ^ 31 + h.crLog2.toNat
  | 0x0C => b2n h.crPhase * 2 ^ 16 + h.crHead.toNat
  | 0x10 => wordAt h.cqBase.toNat 0
  | 0x14 => wordAt h.cqBase.toNat 1
  | 0x18 => h.cqHead.toNat
  | 0x1C => b2n h.cqPhase * 2 ^ 16 + h.cqTail.toNat
  | 0x20 => wordAt h.winBase.toNat 0
  | 0x24 => wordAt h.winBase.toNat 1
  | 0x28 => b2n h.cfgRej * 2 ^ 7 + b2n h.loading.isSome * 2 ^ 6 + b2n h.ide * 2 ^ 5 + h.width.toNat * 2 ^ 3 +
            h.rate.toNat * 2 + b2n h.up
  | 0x30 => addrLo (imgAddr s (·.hboard))
  | 0x34 => addrHi (imgAddr s (·.hboard))
  | 0x40 => h.fault.toNat
  | 0x44 => h.info.toNat
  | _ => 0

/-- Entry `n` of the topology table (R505). -/
def topoWord (s : State) (n : Nat) : Nat :=
  match physOf s n with
  | some p => 2 ^ 31 + p / 6 * 2 ^ 8 + p % 6
  | none => 0

def regTopo (s : State) (o : Nat) : Nat :=
  if 0x40 ≤ o ∧ o < 0x1C0 then topoWord s ((o - 0x40) / 4)
  else if 0x200 ≤ o ∧ o < 0x20C then wordAt s.fenced.toNat ((o - 0x200) / 4)
  else match o with
  | 0x00 => gradeCount s.grade * 2 ^ 8 + rafterCount s
  | 0x210 => s.upd.nmuFence.toNat
  | 0x214 => s.hst.bridgeFence.toNat
  | _ => 0

/-! ### Rafters -/

/-- WAIT_DATA, WAIT_CTRL and DSEQ of a steering unit in a mode with a control queue (R109). -/
def stuWord (x : Rafter) (u : Nat) : Nat :=
  let v := stuOf x u
  let ctl := if v.mode = 1 ∨ v.mode = 2 then headControl x v.ops.cq.toNat else none
  let data := if v.mode = 2 then (headData x v.ops.xq.toNat).isSome
    else v.mode == 1 && (steerQueues v.ops).any (fun q => (headData x q).isSome)
  let wanted := match ctl, v.mode.toNat with
    | some t, 1 => match (steerQueues v.ops)[ctlSel t]? with
      | some q => (headData x q).isSome
      | none => true
    | _, _ => data
  (match ctl with
    | some t => (ctlDseq t).toNat * 2 ^ 16
    | none => 0) +
  b2n (ctl.isSome && !wanted) * 2 ^ 6 + b2n (decide (v.mode = 1 ∨ v.mode = 2) && ctl.isNone && data) * 2 ^ 5 + v.mode.toNat

def queueAt (x : Rafter) (q : Nat) : Queue := if q < 8 then iqOf x q else oqOf x (q - 8)

def qstatWord (x : Rafter) (q : Nat) : Nat :=
  let v := queueAt x q
  v.seq.toNat * 2 ^ 16 + (if q < 8 then v.admSlot.toNat * 2 ^ 11 else 0) + b2n (v.tokens.head?.any isHip) * 2 ^ 10 +
  min 511 v.tokens.length

/-- The current epochs of eight queues. -/
def epochWord (f : Nat → BitVec 4) : Nat := ((List.range 8).map (fun k => (f k).toNat * 2 ^ (4 * k))).sum

/-- RFT_STATUS; a slot switch is in progress from SLOT until it takes place (log 32). -/
def rftStatus (x : Rafter) : Nat :=
  x.seq.stall.toNat * 2 ^ 8 + b2n x.seq.slotReq * 2 ^ 6 + b2n x.idle * 2 ^ 5 + b2n x.hold * 2 ^ 4 + x.seq.slot.toNat

def taStatus (x : Rafter) : Nat :=
  let st := fun k => (x.acc.getD k Acc.reset).st.toNat
  x.taType.toNat * 2 ^ 8 + st 1 * 2 ^ 6 + st 0 * 2 ^ 4 + b2n x.shadow.isSome * 2 ^ 3 + x.taMode.toNat

def veStatus (x : Rafter) : Nat := b2n (x.chain.head?.any (·.bf)) * 2 ^ 7 + min 7 x.chain.length * 2 ^ 4

def regRft (s : State) (n o : Nat) : Nat :=
  match physOf s n with
  | none => 0
  | some p =>
    let x := rafterAt s p
    if 0x40 ≤ o ∧ o < 0x60 then (x.seq.lcLeft.getD ((o - 0x40) / 4) 0).toNat
    else if 0x80 ≤ o ∧ o < 0xA0 then (x.slotDesc.getD ((o - 0x80) / 4) 0).toNat
    else if 0x100 ≤ o ∧ o < 0x140 then (x.depth.getD ((o - 0x100) / 4) 0).toNat
    else if 0x200 ≤ o ∧ o < 0x240 then qstatWord x ((o - 0x200) / 4)
    else if 0x280 ≤ o ∧ o < 0x2C0 then (queueAt x ((o - 0x280) / 4)).fired.toNat
    else if 0x300 ≤ o ∧ o < 0x310 then stuWord x ((o - 0x300) / 4)
    else if 0x400 ≤ o ∧ o < 0x600 then (tableGet 0 x.route ((o - 0x400) / 4)).toNat
    else if 0xC40 ≤ o ∧ o < 0xC60 then (x.seq.sh.getD ((o - 0xC40) / 4) 0).toNat
    else if 0x4000 ≤ o ∧ o < 0x8000 then wordAt (tableGet 0 x.descs ((o - 0x4000) / 0x40)).toNat (o % 0x40 / 4)
    else match o with
    | 0x000 => rftStatus x
    | 0x004 => p / 6 * 2 ^ 24 + p % 6 * 2 ^ 16 + b2n x.serve * 2 ^ 4 + b2n x.decision * 2 ^ 3 + x.entry.toNat
    | 0x008 => x.progLimit.toNat
    | 0x00C => x.progress.toNat
    | 0x010 => x.fault.toNat
    | 0x014 => x.faultInfo.toNat
    | 0x018 => x.faultExp.toNat
    | 0x01C => x.seq.slot.toNat * 2 ^ 10 + x.seq.idx % 1024
    | 0x240 => epochWord (inEpoch x)
    | 0x244 => epochWord (outEpoch x)
    | 0x800 => taStatus x
    | 0x804 => x.taFlags.toNat
    | 0x808 => x.taFault.toNat
    | 0x80C => x.taInfo.toNat
    | 0x810 => x.accFix.toNat * 2 ^ 16 + x.resRetry.toNat
    | 0x814 => wordAt x.taCount.toNat 0
    | 0x900 => veStatus x
    | 0x904 => x.veFlags.toNat
    | 0xA00 => x.reRow.toNat * 2 ^ 16 + x.rePass.toNat * 2 ^ 4
    | 0xA04 => x.reFlags.toNat
    | 0xB00 => x.vrFault.toNat
    | 0xB04 => x.vrInfo.toNat
    | 0xB08 => x.sofFix.toNat * 2 ^ 16 + x.vrRetry.toNat
    | 0xB0C => wordAt x.veCount.toNat 0
    | 0xB10 => wordAt x.reCount.toNat 0
    | 0xC00 => b2n x.seq.halted * 2 + b2n x.seq.poll
    | 0xC04 => x.seDesc.toNat * 2 ^ 8 + b2n x.seXpose * 2 ^ 4 + x.seState.toNat
    | 0xC08 => x.ixFault.toNat
    | 0xC0C => x.ixInfo.toNat
    | 0xC10 => x.ixAddrLo.toNat
    | 0xC14 => x.ixAddrHi.toNat
    | 0xC18 => wordAt x.seCount.toNat 0
    | 0xC1C => x.seRetry.toNat
    | 0xD04 => wordAt x.dirty.toNat 0
    | 0xD08 => wordAt x.dirty.toNat 1
    | 0xD0C => x.valleyFix.toNat
    | 0xE00 => x.eccFault.toNat
    | 0xE04 => x.eccInfo.toNat
    | 0xE08 => x.eccFix.toNat
    | _ => 0

/-! ### Trusses -/

/-- Positions of a truss that are enabled at manufacture. -/
def trussEnabled (s : State) (t : Nat) : Nat := field s.enabled.toNat (6 * t) 6

def backlogWord (x : Truss) : Nat :=
  ((List.range 5).map (fun k => (x.backlog.getD k 0).toNat * 2 ^ (6 * k))).sum

/-- The upper word of TRS_SPARi. -/
def sparHigh (x : Truss) (i : Nat) : Nat :=
  let e := sparEntry x (BitVec.ofNat 12 i)
  b2n (e.count != e.rest) * 2 ^ 9 + (x.waits.filter (fun w => w.index.toNat = i)).length * 2 + b2n e.phase

def regTrs (s : State) (t o : Nat) : Nat :=
  let x := trussAt s t
  if 0x4000 ≤ o ∧ o < 0x8000 then (sparEntry x (BitVec.ofNat 12 ((o - 0x4000) / 4))).rest.toNat
  else if 0x8000 ≤ o then
    (if o % 8 < 4 then (sparEntry x (BitVec.ofNat 12 ((o - 0x8000) / 8))).count.toNat else sparHigh x ((o - 0x8000) / 8))
  else match o with
  | 0x000 => nonRest x * 2 ^ 16 + firstNonRest x
  | 0x004 => t / 4 * 2 ^ 10 + t % 4 * 2 ^ 8 + trussEnabled s t
  | 0x008 => x.waitMax.toNat * 2 ^ 8 + x.waits.length % 256
  | 0x010 => x.sparFault.toNat
  | 0x014 => x.sparInfo.toNat
  | 0x018 => x.sparFix.toNat
  | 0x100 => x.meshFault.toNat
  | 0x104 => x.meshInfo.toNat
  | 0x108 => x.meshReplay.toNat
  | 0x110 => backlogWord x
  | 0x114 => x.sysGrant.toNat
  | 0x200 => x.loftFix.toNat * 2 ^ 16 + b2n x.loftDed
  | _ => 0

/-! ### Eave units -/

/-- EAV_VRINGg. -/
def vringWord (g : Group) (w : Nat) : Nat :=
  match w with
  | 0 => g.depth.toNat + b2n g.guarded * 4 + g.head.toNat * 8 + g.lag.toNat * 2 ^ 8 +
         (if g.guarded then g.guard.toNat else 0xFFFF) * 2 ^ 16
  | 1 => if g.guarded then g.gn.toNat else 0
  | 2 => g.rstride.toNat
  | _ => g.ver.toNat

/-- The requests that a guard wait holds. -/
def heldBy (s : State) (u : UpdUnit) (spar : SparId) : Nat :=
  ((u.queue ++ u.jobs.map (·.req)).filter (fun r => (groupAt s r.group).guarded && (groupAt s r.group).guard == spar)).length

def guardWord (s : State) (e k : Nat) : Nat :=
  let u := uuAt s e
  match (u.waits.filter (fun w => w.guard && !w.done))[k]? with
  | some w => 2 ^ 31 + min 1023 (heldBy s u w.spar) * 2 ^ 16 + w.spar.toNat
  | none => 0

/-- STAGE of an NMU: the stage at which its oldest shard stands. -/
def nmuStage (s : State) (e : Nat) : Nat :=
  match (uuAt s e).jobs with
  | [] => 0
  | j :: _ =>
    if j.stage < 3 then 3
    else if !guardDone s e j.req then 8
    else if gAgree (groupEntry s j.req.group) && (groupAt s j.req.group).result.isNone then 9
    else 0xA

def nmuStatus (s : State) (e : Nat) : Nat :=
  let u := uuAt s e
  (eaveAt s e).wgen.toNat * 2 ^ 16 + min 255 (u.queue.length + u.jobs.length) * 2 ^ 8 +
  b2n (s.upd.nmuFence.getLsbD e) * 2 ^ 7 + nmuStage s e

/-- EAV_GSTATEg. -/
def gstateWord (s : State) (e g : Nat) : Nat :=
  let v := groupAt s (BitVec.ofNat 8 g)
  (v.prep.filter (fun q => shEave (shardEntry s q) = e)).length * 2 ^ 16 + b2n v.agw * 8 + b2n v.live * 4 + v.st.toNat

/-- EAV_VRING of a group that no image declares reads zero. -/
def vringAt (s : State) (g w : Nat) : Nat :=
  if s.upd.groups.any (fun e => e.1 = g) then vringWord (groupAt s (BitVec.ofNat 8 g)) w else 0

def regEav (s : State) (e o : Nat) : Nat :=
  let v := eaveAt s e
  let u := uuAt s e
  if 0x10000 ≤ o ∧ o < 0x11000 then vringAt s ((o - 0x10000) / 16) (o % 16 / 4)
  else if 0x13000 ≤ o ∧ o < 0x13400 then gstateWord s e ((o - 0x13000) / 4)
  else if 0x14000 ≤ o ∧ o < 0x16000 then
    (tableGet 0 s.upd.uprog (64 * ((o - 0x14000) / 0x100) + o % 0x100 / 4)).toNat
  else match o with
  | 0x11000 => guardWord s e 0
  | 0x11004 => guardWord s e 1
  | 0x11008 => u.guardMax.toNat
  | 0x12000 => nmuStatus s e
  | 0x12004 => u.fault.toNat
  | 0x12008 => u.info.toNat
  | 0x1200C => u.eccFix.toNat * 2 ^ 16 + u.retry.toNat
  | 0x12010 => u.skipGroup.toNat * 2 ^ 16 + u.skipShard.toNat
  | 0x16000 => v.tmcRefused.toNat * 2 ^ 16 + v.tmcMiss.toNat
  | 0x16004 => v.tmcFix.toNat
  | _ => 0

/-! ### Tier controller and CXL ports -/

def reservedFree (s : State) (st : Nat) : Nat := ((framesOf s st).filter (fun e => e.2 = .resv)).length

def regTier (s : State) (o : Nat) : Nat :=
  let t := s.tier
  if 0x40 ≤ o ∧ o < 0x60 then 0x8C0 * 2 ^ 16 + (if s.pwr.stage = 2 then freeCount s ((o - 0x40) / 4) else 0)
  else if 0x60 ≤ o ∧ o < 0x80 then (t.resv.getD ((o - 0x60) / 4) 0).toNat * 2 ^ 16 + reservedFree s ((o - 0x60) / 4)
  else if 0x100 ≤ o ∧ o < 0x180 then
    (if o % 8 < 4 then (t.hLimit.getD ((o - 0x100) / 8) 0).toNat else framesUsed s ((o - 0x100) / 8))
  else if 0x180 ≤ o ∧ o < 0x200 then
    (if o % 8 < 4 then (t.cLimit.getD ((o - 0x180) / 8) 0).toNat else homesUsed s ((o - 0x180) / 8))
  else match o with
  | 0x00 => b2n t.schedEn * 2 ^ 11 + min 1024 t.queue.length
  | 0x04 => t.gen.toNat
  | 0x08 => if t.schedEn then wordAt t.schedAddr.toNat 0 + 1 else 0
  | 0x0C => wordAt t.schedAddr.toNat 1
  | 0x10 => t.evictions.toNat * 2 ^ 16 + t.late.toNat
  | 0x14 => t.fault.toNat
  | 0x18 => t.faultInfo.toNat
  | _ => 0

def regCxl (s : State) (c o : Nat) : Nat :=
  let p := cxlAt s c
  match o with
  | 0x00 => p.wgen.toNat * 2 ^ 16 + b2n p.serve * 2 ^ 7 + b2n p.isPresent * 2 ^ 6 + p.rate.toNat * 2 ^ 4 +
            p.width.toNat * 2 ^ 2 + b2n p.up
  | 0x04 => p.units.toNat
  | 0x08 => homesFor p.units.toNat
  | 0x0C => p.faultInfo.toNat
  | 0x10 => p.replays.toNat * 2 ^ 16 + p.rereads.toNat
  | _ => 0

/-! ### Link ports -/

def regLnk (s : State) (l o : Nat) : Nat :=
  let p := portAt s l
  if 0x10000 ≤ o ∧ o < 0x18000 then wordAt (tableGet 0 p.peers ((o - 0x10000) / 0x20)).toNat (o % 0x20 / 4)
  else if 0x20 ≤ o ∧ o < 0x30 then wordAt p.ip.toNat ((o - 0x20) / 4)
  else match o with
  | 0x00 => p.wgen.toNat * 2 ^ 16 + openConnCount p
  | 0x04 => p.mtu.toNat * 2 ^ 18 + b2n p.vlanEn * 2 ^ 17 + b2n p.fam * 8 + b2n p.up * 4 + b2n p.serve * 2
  | 0x08 => p.vlan.toNat
  | 0x10 => wordAt p.mac.toNat 0
  | 0x14 => wordAt p.mac.toNat 1
  | 0x30 => p.retry.toNat * 2 ^ 16 + p.rto.toNat
  | 0x40 => p.fault.toNat
  | 0x44 => p.info.toNat
  | 0x48 => p.resent.toNat * 2 ^ 16 + p.badCrc.toNat
  | 0x4C => p.foreign.toNat * 2 ^ 16 + p.stale.toNat
  | _ => 0

def regCom (s : State) (o : Nat) : Nat :=
  let x := s.lnk
  if 0x10000 ≤ o then wordAt (tableGet 0 x.cdesc ((o - 0x10000) / 0x40)).toNat (o % 0x40 / 4)
  else match o with
  | 0x00 => x.rank.toNat
  | 0x04 => x.nt.toNat * 2 ^ 16 + x.nd.toNat
  | 0x08 => x.ns.toNat * 2 ^ 16 + x.np.toNat
  | 0x0C => x.udp.toNat
  | 0x10 => x.collTo.toNat
  | 0x14 => x.saxis.toNat * 2 ^ 20 + x.axis.toNat * 2 ^ 16 + x.every.toNat
  | 0x18 => wordAt x.divlist.toNat 0
  | 0x1C => wordAt x.divlist.toNat 1
  | 0x20 => b2n x.digest.running * 2 ^ 31 + s.upd.suspects.length % 2 ^ 20
  | 0x28 => addrLo (imgAddr s (·.expmap))
  | 0x2C => addrHi (imgAddr s (·.expmap))
  | 0x30 => match repDesc s with
    | some d => 2 ^ 31 + d.toNat
    | none => 0
  | 0x40 => x.ptpDomain.toNat * 2 ^ 9 + x.ptpTrans.toNat * 2 ^ 7 + x.ptpPort.toNat * 2 ^ 4 + b2n x.ptpEn
  | 0x44 => b2n x.ptpLocked * 2 ^ 31 + x.ptpOffset.toNat
  | _ => 0

/-! ### Counters (R571, R572, Table 17.1) -/

/-- Counter `i`; none for a disabled position or beyond the last. -/
def ctrAt (s : State) (i : Nat) : Option Ctr :=
  if i < 768 then (if s.enabled.getLsbD (i / 8) then (rafterAt s (i / 8)).ctr[i % 8]? else none)
  else if i < 896 then (trussAt s ((i - 768) / 8)).ctr[i % 8]?
  else if i < 960 then (eaveAt s ((i - 896) / 8)).ctr[i % 8]?
  else if i < 1024 then (portAt s ((i - 960) / 8)).ctr[i % 8]?
  else if i < 1040 then (cxlAt s ((i - 1024) / 8)).ctr[i % 8]?
  else if i < 1048 then s.hst.ctr[i % 8]?
  else none

def putCtr (s : State) (i : Nat) (c : Ctr) : State :=
  if i < 768 then setRafter s (i / 8) { rafterAt s (i / 8) with ctr := (rafterAt s (i / 8)).ctr.set (i % 8) c }
  else if i < 896 then updTruss s ((i - 768) / 8) (fun x => { x with ctr := x.ctr.set (i % 8) c })
  else if i < 960 then updEave s ((i - 896) / 8) (fun x => { x with ctr := x.ctr.set (i % 8) c })
  else if i < 1024 then updPort s ((i - 960) / 8) (fun x => { x with ctr := x.ctr.set (i % 8) c })
  else if i < 1040 then updCxl s ((i - 1024) / 8) (fun x => { x with ctr := x.ctr.set (i % 8) c })
  else { s with hst := { s.hst with ctr := s.hst.ctr.set (i % 8) c } }

/-- The upper 4 bytes of CTR_VALi: OVF and VALUE [47:32]. -/
def ctrHigh (c : Ctr) : Nat := b2n c.ovf * 2 ^ 16 + c.val.toNat / 2 ^ 32

/-- Words of the 16 B of counter `i`. -/
def ctrWord (s : State) (i w : Nat) : Nat :=
  match ctrAt s i with
  | none => 0
  | some c =>
    match w with
    | 0 => c.cfg.toNat
    | 2 => wordAt c.val.toNat 0
    | 3 => match c.latch with
      | some v => v.toNat
      | none => ctrHigh c
    | _ => 0

def regCtr (s : State) (o : Nat) : Nat :=
  let x := s.cnt
  if o < 0x10000 then ctrWord s (o / 16) (o % 16 / 4)
  else if 0x20000 ≤ o ∧ o < 0x24000 then wordIn x.last (o - 0x20000)
  else match o with
  | 0x10000 => x.snaps.toNat * 2 ^ 16 + b2n (decide (s.pwr.stage = 2) && !s.prog.reduced) * 2 ^ 10 + x.slot.toNat
  | 0x10004 => x.grant.toNat
  | 0x10008 => (imgMask s).toNat
  | 0x10010 => addrLo (imgAddr s (·.ctrBoard))
  | 0x10014 => addrHi (imgAddr s (·.ctrBoard))
  | 0x10018 => x.timeMax.toNat * 2 ^ 16 + x.timeLast.toNat
  | _ => 0

/-! ### Safety, power, security -/

def safStatus (s : State) : Nat :=
  b2n s.prog.sclass * 2 ^ 5 + b2n s.saf.hwSafe * 2 ^ 4 + b2n s.saf.resetReq.isSome * 2 ^ 3 + b2n s.saf.hold * 2 ^ 2 +
  b2n (!s.saf.inForce.isEmpty) * 2 + b2n (fsafeLow s)

def regSaf (s : State) (o : Nat) : Nat :=
  let x := s.saf
  if 0x10000 ≤ o ∧ o < 0x18000 then wordAt (tableGet 0 x.gtail ((o - 0x10000) / 0x20)).toNat (o % 0x20 / 4)
  else match o with
  | 0x00 => safStatus s
  | 0x04 => x.last.toNat
  | 0x08 => x.resetsTotal.toNat * 2 ^ 16 + min 31 (recentResets s).length
  | 0x0C => x.cause.toNat
  | 0x10 => x.timeLast.toNat * 2 ^ 16 + x.timeMax.toNat
  | 0x14 => x.seq.toNat
  | 0x18 => x.lost.toNat
  | 0x1C => x.pmCount.toNat % 256 * 2 ^ 16 + x.pmLast.toNat * 2 ^ 8 + x.pmValid.toNat * 2 ^ 4 + x.pmLock.toNat
  | 0x20 => x.sweeps.toNat * 2 ^ 16 + x.overdue.toNat
  | 0x24 => x.tcfg.toNat
  | 0x28 => x.fault.toNat
  | 0x2C => b2n x.force
  | _ => 0

def pwrStatus (s : State) : Nat :=
  b2n s.pwr.thermLow * 2 ^ 22 + b2n s.pwr.capped * 2 ^ 21 + s.pwr.st.toNat * 2 ^ 16 + s.pwr.skip.toNat * 2 ^ 12 +
  s.pwr.aclk.toNat * 2 ^ 8 + s.pwr.floor.toNat * 2 ^ 6 + s.pwr.stage.toNat

def pwrTemp (s : State) : Nat :=
  (hottest s).1 * 2 ^ 16 + s.pwr.tempHigh.toNat * 2 ^ 8 + (hottest s).2.toNat

def pwrPower (s : State) : Nat := s.pwr.peak.toNat * 2 ^ 16 + s.pwr.avg.toNat

def regPwr (s : State) (o : Nat) : Nat :=
  let x := s.pwr
  if 0x40 ≤ o ∧ o < 0xB0 then
    b2n (x.tempValid.getLsbD ((o - 0x40) / 4)) * 2 ^ 8 + (x.temps.getD ((o - 0x40) / 4) 0).toNat
  else match o with
  | 0x00 => pwrStatus s
  | 0x04 => ((x.limitNext.getD x.limit).toNat) * 2 ^ 16 + x.ceil.toNat
  | 0x08 => x.tol.toNat
  | 0x0C => pwrPower s
  | 0x10 => pwrTemp s
  | 0x14 => x.steps.toNat * 2 ^ 16 + x.caps.toNat
  | 0x18 => x.bootFull.toNat * 2 ^ 16 + x.bootReduced.toNat
  | 0x1C => x.mtFail.toNat * 2 ^ 16 + x.mtPass.toNat * 2 ^ 8 + x.mtPct.toNat
  | _ => 0

/-- The current debug challenge (R570). -/
def challenge (s : State) : BitVec 256 := Config.debugChallenge s.sec.draws

def regSec (s : State) (o : Nat) : Nat :=
  let x := s.sec
  if 0x20 ≤ o ∧ o < 0x40 then (x.nonce.getD ((o - 0x20) / 4) 0).toNat
  else if 0x40 ≤ o ∧ o < 0x60 then wordAt (challenge s).toNat ((o - 0x40) / 4)
  else if 0x80 ≤ o ∧ o < 0xC0 then (x.ownerHash.getD ((o - 0x80) / 4) 0).toNat
  else if 0x100 ≤ o ∧ o < 0x200 then x.fuses.ctrs.getD ((o - 0x100) / 4) 0
  else if 0x10000 ≤ o ∧ o < 0x12000 then wordIn x.report (o - 0x10000)
  else if 0x12000 ≤ o ∧ o < 0x12A20 then
    natOfBytes ((List.range 4).map (fun k => Config.identityKey (o - 0x12000 + k)))
  else match o with
  | 0x00 => x.fwSvn.toNat * 2 ^ 8 + b2n x.rbRej * 2 ^ 4 + b2n x.ownRej * 2 ^ 3 + b2n x.fwSlot * 2 ^ 2 + b2n x.debug * 2 +
            b2n (x.fuses.owned != 0)
  | 0x04 => b2n x.flashRel
  | 0x0C => x.fuses.owned.toNat * 2 ^ 8
  | 0x10 => x.fuses.roots.toNat * 2 ^ 4 + x.fuses.revoked.toNat
  | 0x14 => (if x.attDone then 5139 * 2 ^ 16 else 0) + b2n x.attDone * 2 + b2n x.attGo
  | 0x18 => b2n x.dbgFail * 2 + b2n x.dbgGo
  | _ => 0

/-! ### The register at an offset -/

/-- The 32 bits at a word offset of BAR0, without any effect of reading them. -/
def regGet (s : State) (a : Nat) : W32 :=
  BitVec.ofNat 32 (match regAt s a with
    | .none => 0
    | .ident o => if o = 0 then deviceId s else 0
    | .crs o => regCrs s o
    | .hst o => regHst s o
    | .pwr o => regPwr s o
    | .sec o => regSec s o
    | .rft n o => regRft s n o
    | .trs t o => regTrs s t o
    | .eav e o => regEav s e o
    | .tier o => regTier s o
    | .cxl c o => regCxl s c o
    | .lnk l o => regLnk s l o
    | .com o => regCom s o
    | .ctr o => regCtr s o
    | .saf o => regSaf s o
    | .topo o => regTopo s o)

end Sys2Proof.Machine
end

