-- ==== Sys2Proof/Machine/RegWrite.lean ====
section
/-!
DEFINITION. What writing and reading the registers does (R18 to R23, R50 to R52, R87, R479, R483, R485, R506, R527, R556,
R563, R564, R567, R569, R570, R575, R576): access codes, and each register with an effect of its own.
-/

namespace Sys2Proof.Machine

/-! ### Access codes (Table 0.7) -/

/-- Bytes addressed by a write replace those of the register. -/
def merged (old v m : W32) : W32 := (old &&& ~~~m) ||| (v &&& m)

/-- Bits that a write of 1 clears. -/
def w1cBits (r : RegAt) : W32 :=
  match r with
  | .crs 0x08 => 0x8
  | .crs 0x38 => 0x3F
  | .hst 0x28 => 0x80
  | .hst 0x40 => 0xF
  | .sec 0x00 => 0x18
  | .rft _ 0x010 => 0xFFF
  | .rft _ 0x804 => 0xFF
  | .rft _ 0x808 => 0x1F
  | .rft _ 0x904 => 0xFF
  | .rft _ 0xA04 => 0x1FF
  | .rft _ 0xB00 => 0x7F
  | .rft _ 0xC08 => 0xF
  | .rft _ 0xE00 => 0x7
  | .trs _ 0x010 => 0x7
  | .trs _ 0x100 => 0x7
  | .trs _ 0x200 => 0x1
  | .eav _ 0x12004 => 0x1F
  | .tier 0x14 => 0x1F
  | .lnk _ 0x40 => 0xF
  | .saf 0x28 => 0x1F
  | _ => 0

/-- Bits that a read returns to zero. -/
def rcBits (r : RegAt) : W32 :=
  match r with
  | .crs 0x30 => 0xFFFFF
  | .pwr 0x0C => 0xFFFF0000
  | .pwr 0x10 => 0xFF00
  | .pwr 0x14 => 0xFFFFFFFF
  | .rft _ 0x810 => 0xFFFFFFFF
  | .rft _ 0xB08 => 0xFFFFFFFF
  | .rft _ 0xC1C => 0xFFFF
  | .rft _ 0xD0C => 0xFFFF
  | .rft _ 0xE08 => 0xFFFF
  | .trs _ 0x008 => 0xFF00
  | .trs _ 0x018 => 0xFFFF
  | .trs _ 0x108 => 0xFFFF
  | .trs _ 0x110 => 0x3FFFFFFF
  | .trs _ 0x200 => 0xFFFF0000
  | .eav _ 0x11008 => 0xFFFFFFFF
  | .eav _ 0x1200C => 0xFFFFFFFF
  | .eav _ 0x12010 => 0xFFFFFFFF
  | .eav _ 0x16000 => 0xFFFFFFFF
  | .eav _ 0x16004 => 0xFFFF
  | .tier 0x10 => 0xFFFFFFFF
  | .cxl _ 0x10 => 0xFFFFFFFF
  | .lnk _ 0x48 => 0xFFFFFFFF
  | .lnk _ 0x4C => 0xFFFFFFFF
  | .saf 0x08 => 0xFFFF0000
  | .saf 0x10 => 0x0000FFFF
  | .saf 0x18 => 0xFFFF
  | .saf 0x20 => 0xFFFFFFFF
  | .ctr 0x10000 => 0xFFFF0000
  | .ctr 0x10018 => 0xFFFF0000
  | _ => 0

def lo16 (w : W32) : W16 := BitVec.ofNat 16 w.toNat
def hi16 (w : W32) : W16 := BitVec.ofNat 16 (w.toNat / 2 ^ 16)

def rftPut (x : Rafter) (o : Nat) (w : W32) : Rafter :=
  match o with
  | 0x010 => { x with fault := w }
  | 0x804 => { x with taFlags := w }
  | 0x808 => { x with taFault := w }
  | 0x810 => { x with accFix := hi16 w, resRetry := lo16 w }
  | 0x904 => { x with veFlags := w }
  | 0xA04 => { x with reFlags := w }
  | 0xB00 => { x with vrFault := w }
  | 0xB08 => { x with sofFix := hi16 w, vrRetry := lo16 w }
  | 0xC08 => { x with ixFault := w }
  | 0xC1C => { x with seRetry := lo16 w }
  | 0xD0C => { x with valleyFix := lo16 w }
  | 0xE00 => { x with eccFault := w }
  | 0xE08 => { x with eccFix := lo16 w }
  | _ => x

def trsPut (x : Truss) (o : Nat) (w : W32) : Truss :=
  match o with
  | 0x008 => { x with waitMax := BitVec.ofNat 8 (w.toNat / 2 ^ 8) }
  | 0x010 => { x with sparFault := w }
  | 0x018 => { x with sparFix := lo16 w }
  | 0x100 => { x with meshFault := w }
  | 0x108 => { x with meshReplay := lo16 w }
  | 0x110 => { x with backlog := (List.range 5).map (fun k => BitVec.ofNat 6 (field w.toNat (6 * k) 6)) }
  | 0x200 => { x with loftFix := hi16 w, loftDed := w.getLsbD 0 }
  | _ => x

def eavPut (s : State) (e o : Nat) (w : W32) : State :=
  match o with
  | 0x11008 => updUu s e (fun u => { u with guardMax := w })
  | 0x12004 => updUu s e (fun u => { u with fault := w })
  | 0x1200C => updUu s e (fun u => { u with eccFix := hi16 w, retry := lo16 w })
  | 0x12010 => updUu s e (fun u => { u with skipGroup := hi16 w, skipShard := lo16 w })
  | 0x16000 => updEave s e (fun v => { v with tmcRefused := hi16 w, tmcMiss := lo16 w })
  | 0x16004 => updEave s e (fun v => { v with tmcFix := lo16 w })
  | _ => s

def safPut (x : Safety) (o : Nat) (w : W32) : Safety :=
  match o with
  | 0x08 => { x with resetsTotal := hi16 w }
  | 0x10 => { x with timeMax := lo16 w }
  | 0x18 => { x with lost := lo16 w }
  | 0x20 => { x with sweeps := hi16 w, overdue := lo16 w }
  | 0x28 => { x with fault := w }
  | _ => x

/-- The W1C and RC fields of a register take the bits of a word. -/
def regPut (s : State) (r : RegAt) (w : W32) : State :=
  match r with
  | .crs 0x08 => { s with crs := { s.crs with cfgRej := w.getLsbD 3 } }
  | .crs 0x30 => { s with crs := { s.crs with decMax := BitVec.ofNat 20 w.toNat } }
  | .crs 0x38 => { s with crs := { s.crs with fault := w } }
  | .hst 0x28 => { s with hst := { s.hst with cfgRej := w.getLsbD 7 } }
  | .hst 0x40 => { s with hst := { s.hst with fault := w } }
  | .sec 0x00 => { s with sec := { s.sec with rbRej := w.getLsbD 4, ownRej := w.getLsbD 3 } }
  | .pwr 0x0C => { s with pwr := { s.pwr with peak := hi16 w } }
  | .pwr 0x10 => { s with pwr := { s.pwr with tempHigh := BitVec.ofNat 8 (w.toNat / 2 ^ 8) } }
  | .pwr 0x14 => { s with pwr := { s.pwr with steps := hi16 w, caps := lo16 w } }
  | .rft n o => updRafter s n (fun x => rftPut x o w)
  | .trs t o => updTruss s t (fun x => trsPut x o w)
  | .eav e o => eavPut s e o w
  | .tier 0x10 => { s with tier := { s.tier with evictions := hi16 w, late := lo16 w } }
  | .tier 0x14 => { s with tier := { s.tier with fault := w } }
  | .cxl c 0x10 => updCxl s c (fun p => { p with replays := hi16 w, rereads := lo16 w })
  | .lnk l 0x40 => updPort s l (fun p => { p with fault := w })
  | .lnk l 0x48 => updPort s l (fun p => { p with resent := hi16 w, badCrc := lo16 w })
  | .lnk l 0x4C => updPort s l (fun p => { p with foreign := hi16 w, stale := lo16 w })
  | .saf o => { s with saf := safPut s.saf o w }
  | .ctr 0x10000 => { s with cnt := { s.cnt with snaps := hi16 w } }
  | .ctr 0x10018 => { s with cnt := { s.cnt with timeMax := hi16 w } }
  | _ => s

/-! ### Course settings (R50 to R52, R55) -/

/-- A write inside the boundary slot waits one boundary more. -/
def inSlotNow (s : State) : Bool := decide (s.crs.next < s.now + 1000 + 1)

def holdSet (s : State) (src : Option (BitVec 2)) (per off : Option W32) : State :=
  let h : HeldSet := { source := src, period := per, offset := off, inSlot := inSlotNow s }
  let c := { s.crs with heldSets := s.crs.heldSets ++ [h] }
  { s with crs := if s.crs.running || s.crs.starting then c else applySets c }

/-- The value that a setting has once what is held takes effect: a narrower write changes bytes of it (R23). -/
def heldValue (f : HeldSet → Option W32) (l : List HeldSet) (now : W32) : W32 := ((l.filterMap f).getLast?).getD now

def rejectSet (s : State) : State := { s with crs := { s.crs with cfgRej := true } }

def writeCrsCtrl (s : State) (w : W32) : State :=
  let en := w.getLsbD 2
  let s1 := { s with crs := { s.crs with courseOutEn := en }
                     pkg := if en then s.pkg else { s.pkg with courseOut := none } }
  if field w.toNat 0 2 = 3 then s1 else holdSet s1 (some (BitVec.ofNat 2 w.toNat)) none none

def writePeriod (s : State) (w : W32) : State :=
  if w.toNat < 10000 ∨ 10000000 < w.toNat ∨ w.toNat < s.crs.minPeriod.toNat then rejectSet s
  else holdSet s none (some w) none

def writePtpOffset (s : State) (w : W32) : State :=
  if s.crs.period.toNat ≤ w.toNat then rejectSet s else holdSet s none none (some w)

/-! ### Host port (R480, R483, R485, R506) -/

/-- A setting of the host port, ignored and reported while a program is loaded. -/
def hostSetting (s : State) (f : State → State) : State :=
  if s.prog.loaded then { s with hst := { s.hst with cfgRej := true } } else f s

/-- HST_CR_CTRL: a reserved LOG2 keeps the old value; EN from 0 to 1 starts both rings afresh. -/
def writeCrCtrl (s : State) (w : W32) : State :=
  let en := w.getLsbD 31
  let k := field w.toNat 0 5
  let h := { s.hst with crEn := en, crLog2 := if 6 ≤ k ∧ k ≤ 16 then BitVec.ofNat 5 k else s.hst.crLog2 }
  { s with hst := if en && !s.hst.crEn then { h with crHead := 0, cqTail := 0, crPhase := true, cqPhase := true } else h }

def writeCqHead (s : State) (v : W16) : State :=
  let n := ringSize s
  { s with hst := { s.hst with cqHead := v, cqOut := (s.hst.cqTail.toNat + n - v.toNat % n) % n } }

def writeHst (s : State) (o : Nat) (w : W32) : State :=
  let x := w.toNat
  let put := fun (f : Hst → Hst) => hostSetting s (fun a => { a with hst := f a.hst })
  match o with
  | 0x00 => put (fun h => { h with crBase := BitVec.ofNat 64 (setField h.crBase.toNat 0 32 (x / 4096 * 4096)) })
  | 0x04 => put (fun h => { h with crBase := BitVec.ofNat 64 (setField h.crBase.toNat 32 32 x) })
  | 0x08 => hostSetting s (fun a => writeCrCtrl a w)
  | 0x10 => put (fun h => { h with cqBase := BitVec.ofNat 64 (setField h.cqBase.toNat 0 32 (x / 4096 * 4096)) })
  | 0x14 => put (fun h => { h with cqBase := BitVec.ofNat 64 (setField h.cqBase.toNat 32 32 x) })
  | 0x18 => writeCqHead s (lo16 w)
  | 0x20 => put (fun h => { h with winBase := BitVec.ofNat 43 (setField h.winBase.toNat 0 32 (x / 2 ^ 24 * 2 ^ 24)) })
  | 0x24 => put (fun h => { h with winBase := BitVec.ofNat 43 (setField h.winBase.toNat 32 11 x) })
  | _ => s

/-- The fence registers take the mask as written, disabled positions aside. -/
def setFences (s : State) (m : BitVec 96) : State :=
  let new := m &&& s.enabled &&& ~~~s.fenced
  let s1 := ((positions s).filter (fun p => new.getLsbD p)).foldl dropPrefetch s
  let s2 := { s1 with fenced := m &&& s1.enabled }
  { s2 with saf := { s2.saf with inForce := s2.saf.inForce.filterMap (renumber s s2) } }

def writeTopo (s : State) (o : Nat) (w : W32) : State :=
  if 0x200 ≤ o ∧ o < 0x20C then
    hostSetting s (fun a => setFences a (BitVec.ofNat 96 (setField a.fenced.toNat (8 * (o - 0x200)) 32 w.toNat)))
  else match o with
  | 0x210 => hostSetting s (fun a =>
      let m : Byte := BitVec.ofNat 8 w.toNat
      cure { a with upd := { a.upd with nmuFence := m } } (fun f => nmuFault f && m.getLsbD (unitInst f.1)))
  | 0x214 => hostSetting s (fun a =>
      let m : BitVec 2 := BitVec.ofNat 2 w.toNat
      cure { a with hst := { a.hst with bridgeFence := m } } (fun f => unitKind f.1 == 3 && m.getLsbD (unitInst f.1)))
  | _ => s

/-! ### Links and tiers -/

/-- A link setting, ignored while a program is loaded. -/
def linkSetting (s : State) (f : State → State) : State := if s.prog.loaded then s else f s

/-- The connections that a nonzero LNK_UDP lets open (R441). -/
def openServed (s : State) : State :=
  if s.lnk.udp = 0 then s
  else (List.range 8).foldl (fun a l => if (portAt a l).serve then openPort a l else a) s

def axisSize1 (old : BitVec 11) (v : Nat) : BitVec 11 := if 1 ≤ v ∧ v ≤ 1024 then BitVec.ofNat 11 v else old
def axisCode (old : BitVec 3) (v : Nat) : BitVec 3 := if v ≤ 4 then BitVec.ofNat 3 v else old

def writePtpCtrl (x : Lnk) (v : Nat) : Lnk :=
  let en := field v 0 1 = 1
  { x with ptpDomain := BitVec.ofNat 7 (field v 9 7)
           ptpTrans := if field v 7 2 = 3 then x.ptpTrans else BitVec.ofNat 2 (field v 7 2)
           ptpPort := BitVec.ofNat 3 (field v 4 3), ptpEn := en
           ptpLocked := x.ptpLocked && decide en, ptpGood := if en then x.ptpGood else 0 }

def writeCom (s : State) (o : Nat) (w : W32) : State :=
  let v := w.toNat
  let put := fun (f : Lnk → Lnk) => linkSetting s (fun a => { a with lnk := f a.lnk })
  match o with
  | 0x00 => put (fun x => { x with rank := BitVec.ofNat 10 v })
  | 0x04 => put (fun x => { x with nd := axisSize1 x.nd (field v 0 11), nt := axisSize1 x.nt (field v 16 11) })
  | 0x08 => put (fun x => { x with np := axisSize1 x.np (field v 0 11), ns := axisSize1 x.ns (field v 16 11) })
  | 0x0C => linkSetting s (fun a => openServed { a with lnk := { a.lnk with udp := lo16 w } })
  | 0x10 => put (fun x => { x with collTo := BitVec.ofNat 24 v })
  | 0x14 => put (fun x => { x with saxis := axisCode x.saxis (field v 20 3), axis := axisCode x.axis (field v 16 3)
                                   every := lo16 w })
  | 0x18 => put (fun x => { x with divlist := BitVec.ofNat 43 (setField x.divlist.toNat 0 32 (v / 8 * 8)) })
  | 0x1C => put (fun x => { x with divlist := BitVec.ofNat 43 (setField x.divlist.toNat 32 11 v) })
  | 0x40 => put (fun x => writePtpCtrl x v)
  | _ => s

/-- The entry that a word write to the peer table changes: the one written last. -/
def peerNow (p : LnkPort) (r : BitVec 10) : BitVec 256 :=
  match (p.peerHold.filter (fun e => e.1 == r)).getLast? with
  | some e => e.2
  | none => tableGet 0 p.peers r.toNat

def writeLnk (s : State) (l o : Nat) (v m : W32) : State :=
  let w := merged (regGet s (0x3000000 + 0x80000 * l + o)) v m
  let put := fun (f : LnkPort → LnkPort) => linkSetting s (fun a => updPort a l f)
  if 0x10000 ≤ o ∧ o < 0x18000 then
    let r : BitVec 10 := BitVec.ofNat 10 ((o - 0x10000) / 0x20)
    let e := peerNow (portAt s l) r
    let k := o % 0x20 / 4
    peerWrite s l r (BitVec.ofNat 256 (setField e.toNat (32 * k) 32 (merged (BitVec.ofNat 32 (wordAt e.toNat k)) v m).toNat))
  else if 0x20 ≤ o ∧ o < 0x30 then
    put (fun p => { p with ip := BitVec.ofNat 128 (setField p.ip.toNat (8 * (o - 0x20)) 32 w.toNat) })
  else match o with
  | 0x04 => put (fun p => { p with
      mtu := if 1280 ≤ field w.toNat 18 14 ∧ field w.toNat 18 14 ≤ 9216 then BitVec.ofNat 14 (field w.toNat 18 14) else p.mtu
      vlanEn := w.getLsbD 17, fam := w.getLsbD 3 })
  | 0x08 => put (fun p => { p with vlan := lo16 w })
  | 0x10 => put (fun p => { p with mac := BitVec.ofNat 48 (setField p.mac.toNat 0 32 w.toNat) })
  | 0x14 => put (fun p => { p with mac := BitVec.ofNat 48 (setField p.mac.toNat 32 16 w.toNat) })
  | 0x30 => put (fun p => { p with rto := if lo16 w = 0 then p.rto else lo16 w
                                   retry := if field w.toNat 16 8 = 0 then p.retry else BitVec.ofNat 8 (field w.toNat 16 8) })
  | _ => s

def writeTier (s : State) (o : Nat) (w : W32) : State :=
  if 0x100 ≤ o ∧ o < 0x180 ∧ o % 8 = 0 then
    { s with tier := { s.tier with hLimit := s.tier.hLimit.set ((o - 0x100) / 8) (BitVec.ofNat 15 w.toNat) } }
  else if 0x180 ≤ o ∧ o < 0x200 ∧ o % 8 = 0 then
    { s with tier := { s.tier with cLimit := s.tier.cLimit.set ((o - 0x180) / 8) (BitVec.ofNat 18 w.toNat) } }
  else s

/-! ### Counters (R573 to R577) -/

/-- Events that Table 17.2 lists for the unit of counter `i`. -/
def eventListed (i ev : Nat) : Bool :=
  decide (ev ≤ 1) ||
  (if i < 768 then ev == 2 || (decide (0x11 ≤ ev) && decide (ev ≤ 0x16)) || (decide (0x20 ≤ ev) && decide (ev ≤ 0x22)) ||
      ev == 0x30 || ev == 0x31 || (decide (0x40 ≤ ev) && decide (ev ≤ 0x42)) || (decide (0x50 ≤ ev) && decide (ev ≤ 0x52)) ||
      ev == 0x60 || ev == 0x70
   else if i < 896 then ev == 0x100 || ev == 0x101 || ev == 0x110 || ev == 0x111 ||
      (decide (0x120 ≤ ev) && decide (ev ≤ 0x124)) || ev == 0x128
   else if i < 960 then (decide (0x200 ≤ ev) && decide (ev ≤ 0x202)) || (decide (0x210 ≤ ev) && decide (ev ≤ 0x212)) || ev == 0x220
   else if i < 1024 then (decide (0x300 ≤ ev) && decide (ev ≤ 0x303)) || ev == 0x310 || ev == 0x311
   else if i < 1040 then (decide (0x380 ≤ ev) && decide (ev ≤ 0x384)) || ev == 0x390
   else decide (0x3C0 ≤ ev) && decide (ev ≤ 0x3C4))

/-- The configuration that a write gives: a reserved event keeps the old one. -/
def cfgWord (i : Nat) (old w : W32) : W32 :=
  let ev := field w.toNat 16 10
  let ev' := if eventListed i ev then ev else field old.toNat 16 10
  BitVec.ofNat 32 (ev' * 2 ^ 16 + (if i % 2 = 0 then field w.toNat 1 1 * 2 else 0) + field w.toNat 0 1)

/-- CTR_CFGi: held to step 3 while a program runs; a narrower write changes bytes of what is held (R23). -/
def writeCtrCfg (s : State) (i : Nat) (v m : W32) : State :=
  match ctrAt s i with
  | none => s
  | some c =>
    let old := c.held.getD c.cfg
    let x := cfgWord i old (merged old v m)
    if s.crs.running then putCtr s i { c with held := some x } else putCtr s i { c with cfg := x, held := none }

/-- The counter counts: by its own EN, or as the upper half of a chained pair by that of the lower. -/
def ctrEnabled (s : State) (i : Nat) (c : Ctr) : Bool :=
  if i % 2 = 1 then
    match ctrAt s (i - 1) with
    | some l => if l.cfg.getLsbD 1 then l.cfg.getLsbD 0 else c.cfg.getLsbD 0
    | none => c.cfg.getLsbD 0
  else c.cfg.getLsbD 0

/-- VALUE takes a write only while the counter is disabled; OVF is cleared by a 1. -/
def writeCtrVal (s : State) (i : Nat) (high : Bool) (v m : W32) : State :=
  match ctrAt s i with
  | none => s
  | some c =>
    let c1 := if high && (v &&& m).getLsbD 16 then { c with ovf := false } else c
    if ctrEnabled s i c then putCtr s i c1
    else
      let lo := BitVec.ofNat 32 (wordAt c.val.toNat 0)
      let hi := BitVec.ofNat 32 (c.val.toNat / 2 ^ 32)
      let x := if high then lo.toNat + field (merged hi v m).toNat 0 16 * 2 ^ 32
        else (merged lo v m).toNat + hi.toNat * 2 ^ 32
      let s1 := putCtr s i { c1 with val := BitVec.ofNat 48 x, full := false }
      if i % 2 = 0 then
        (match ctrAt s1 (i + 1) with
          | some u => putCtr s1 (i + 1) { u with full := false }
          | none => s1)
      else s1

def writeCtr (s : State) (o : Nat) (v m : W32) : State :=
  if o < 0x10000 then
    match o % 16 / 4 with
    | 0 => writeCtrCfg s (o / 16) v m
    | 2 => writeCtrVal s (o / 16) false v m
    | 3 => writeCtrVal s (o / 16) true v m
    | _ => s
  else s

/-! ### Safety and power -/

/-- RW fields of the safety block ignore writes while a program is loaded, LOCK excepted. -/
def writeSaf (s : State) (o : Nat) (w : W32) : State :=
  match o with
  | 0x1C => { s with saf := { s.saf with pmLock := BitVec.ofNat 4 w.toNat } }
  | 0x24 => if s.prog.loaded then s else { s with saf := { s.saf with tcfg := lo16 w } }
  | 0x2C => if s.prog.loaded then s else { s with saf := { s.saf with force := w.getLsbD 0 } }
  | _ => s

/-- PWR_CTRL: a LIMIT in range takes effect at the next boundary, and at once while no program runs. -/
def writePwrCtrl (s : State) (w : W32) : State :=
  let n := field w.toNat 16 10
  let p := { s.pwr with ceil := BitVec.ofNat 2 w.toNat }
  { s with pwr := if 300 ≤ n ∧ n ≤ 600 then
      (if s.crs.running then { p with limitNext := some (BitVec.ofNat 10 n) }
        else { p with limit := BitVec.ofNat 10 n, limitNext := none }) else p }

def writePwr (s : State) (o : Nat) (w : W32) : State :=
  match o with
  | 0x08 => { s with pwr := { s.pwr with tol := BitVec.ofNat 24 w.toNat } }
  | _ => s

/-! ### Security (R563, R564, R567, R569, R570) -/

/-- The SVN of the verified element that a counter guards. -/
def guardedSvn (s : State) (k : Nat) : Option Nat :=
  if k = 0 then some s.sec.fwSvn.toNat
  else if s.prog.loaded ∧ s.prog.ctr.toNat = k then some s.prog.svn.toNat else none

def burnOk (s : State) (k v : Nat) : Bool :=
  s.sec.burn.isNone && decide (ctrValue s k < v) && decide (v ≤ 64) &&
  (match guardedSvn s k with
    | some n => decide (v ≤ n)
    | none => false)

/-- SEC_RB_ADV with GO: the burn starts, or the write is ignored and reported. -/
def writeRbAdv (s : State) (v : W32) : State :=
  let k := field v.toNat 0 6
  let x := field v.toNat 8 7
  if v.getLsbD 31 then
    (if burnOk s k x then { s with sec := { s.sec with burn := some (k, x) } }
      else { s with sec := { s.sec with rbRej := true } })
  else s

def ownerReject (s : State) : State := { s with sec := { s.sec with ownRej := true } }

/-- SEC_OWNER_HASH as one digest. -/
def ownerDigest (s : State) : BitVec 512 :=
  BitVec.ofNat 512 (((List.range 16).map (fun k => (s.sec.ownerHash.getD k 0).toNat * 2 ^ (32 * k))).sum)

def programSlot (s : State) (k : Nat) : State :=
  if s.prog.loaded || s.sec.fuses.owned.getLsbD k then ownerReject s
  else { s with sec := { s.sec with fuses := { s.sec.fuses with
    owned := s.sec.fuses.owned ||| (1#4 <<< k), hashes := s.sec.fuses.hashes.set k (ownerDigest s) } } }

def revokeSlot (s : State) (k : Nat) : State :=
  if s.prog.loaded then ownerReject s
  else { s with sec := { s.sec with fuses := { s.sec.fuses with revoked := s.sec.fuses.revoked ||| (1#4 <<< k) } } }

def writeOwnerCmd (s : State) (v : W32) : State :=
  let k := field v.toNat 0 2
  if v.getLsbD 7 then
    match field v.toNat 2 2 with
    | 1 => programSlot s k
    | 2 => revokeSlot s k
    | _ => ownerReject s
  else s

/-- A nonce write clears DONE. -/
def writeNonce (s : State) (k : Nat) (w : W32) : State :=
  { s with sec := { s.sec with nonce := s.sec.nonce.set k w, attDone := false } }

def writeSec (s : State) (o : Nat) (v m : W32) : State :=
  let w := merged (regGet s (0x600000 + o)) v m
  if 0x20 ≤ o ∧ o < 0x40 then writeNonce s ((o - 0x20) / 4) w
  else if 0x80 ≤ o ∧ o < 0xC0 then { s with sec := { s.sec with ownerHash := s.sec.ownerHash.set ((o - 0x80) / 4) w } }
  else if 0x14000 ≤ o ∧ o < 0x16000 then
    let old := BitVec.ofNat 32 (memWord s.sec.dbgResp (o - 0x14000) 4)
    { s with sec := { s.sec with dbgResp := memPutWord s.sec.dbgResp (o - 0x14000) 4 (merged old v m).toNat } }
  else match o with
  | 0x04 => { s with sec := { s.sec with flashRel := w.getLsbD 0 } }
  | 0x08 => writeRbAdv s (v &&& m)
  | 0x0C => writeOwnerCmd s (v &&& m)
  | 0x14 => { s with sec := { s.sec with attGo := s.sec.attGo || (v &&& m).getLsbD 0 } }
  | 0x18 => { s with sec := { s.sec with dbgGo := s.sec.dbgGo || (v &&& m).getLsbD 0 } }
  | _ => s

/-! ### A word access -/

/-- RW and WO fields of the register at a word offset. -/
def writeFields (s : State) (a : Nat) (v m : W32) : State :=
  let w := merged (regGet s a) v m
  match regAt s a with
  | .crs 0x00 => if m.getLsbD 0 then writeCrsCtrl s w else s
  | .crs 0x04 => writePeriod s (merged (heldValue (·.period) s.crs.heldSets s.crs.period) v m)
  | .crs 0x28 => writePtpOffset s (merged (heldValue (·.offset) s.crs.heldSets s.crs.ptpOffset) v m)
  | .hst o => writeHst s o w
  | .pwr 0x04 => writePwrCtrl s (merged (BitVec.ofNat 32 (setField (regGet s a).toNat 16 10
      (s.pwr.limitNext.getD s.pwr.limit).toNat)) v m)
  | .pwr o => writePwr s o w
  | .sec o => writeSec s o v m
  | .tier o => writeTier s o w
  | .lnk l o => writeLnk s l o v m
  | .com o => writeCom s o w
  | .ctr o => writeCtr s o v m
  | .saf o => writeSaf s o w
  | .topo o => writeTopo s o w
  | _ => s

/-- A write of the bytes `m` of the register at a word offset: 1 clears W1C bits, other fields by their own rules. -/
def writeWord (s : State) (a : Nat) (v m : W32) : State :=
  let r := regAt s a
  let c := w1cBits r &&& v &&& m
  writeFields (if c = 0 then s else regPut s r (regGet s a &&& ~~~c)) a v m

/-- What reading the bytes `m` of a register changes: RC fields, and the words that it latches. -/
def readEffect (s : State) (a : Nat) (m : W32) : State :=
  let r := regAt s a
  match r with
  | .crs 0x10 => { s with crs := { s.crs with courseHi := BitVec.ofNat 32 (wordAt s.crs.course.toNat 1) } }
  | .crs 0x18 => { s with crs := { s.crs with stepHi := BitVec.ofNat 32 (wordAt s.crs.step.toNat 1) } }
  | .crs 0x34 => { s with crs := { s.crs with slackMin := s.crs.slackMin ||| m } }
  | .ctr o =>
    if o < 0x10000 ∧ m = BitVec.allOnes 32 then
      match ctrAt s (o / 16) with
      | none => s
      | some c =>
        match o % 16 / 4 with
        | 2 => putCtr s (o / 16) { c with latch := some (BitVec.ofNat 32 (ctrHigh c)) }
        | 3 => putCtr s (o / 16) { c with latch := none }
        | _ => s
    else
      let c := rcBits r &&& m
      if c = 0 then s else regPut s r (regGet s a &&& ~~~c)
  | _ =>
    let c := rcBits r &&& m
    if c = 0 then s else regPut s r (regGet s a &&& ~~~c)

end Sys2Proof.Machine
end

