-- ==== Sys2Proof/Machine/Access.lean ====
section
/-!
DEFINITION. Host accesses through BAR0, BAR2 and BAR4 (R23, R46, R411, R479 to R482, R502, R503, R507, R547, R551), and the
ridge's own register accesses (R327).
-/

namespace Sys2Proof.Machine

/-! ### Replies -/

/-- A host read is completed. -/
def answer (s : State) (r : HostReply) : State := { s with hst := { s.hst with reads := r :: s.hst.reads } }

/-- A fault of the host port in HST_FAULT. -/
def noteHost (s : State) (bit : Nat) (code : Byte) : State :=
  { s with hst := { s.hst with fault := s.hst.fault ||| BitVec.ofNat 32 (2 ^ bit), info := BitVec.ofNat 32 (code.toNat * 2 ^ 24) } }

def hostFaultInfo (code : Byte) : W32 := BitVec.ofNat 32 (code.toNat * 2 ^ 24)

/-- An IDE integrity failure: the stream is insecure, and the fault is lasting (R504). -/
def ideFail (s : State) : State :=
  let s1 := noteHost { s with hst := { s.hst with ide := false } } 1 0xC1
  lastingResponse s1 hostUnit 0xC1 (hostFaultInfo 0xC1) 0 0

/-- A received TLP that fails ECRC or is poisoned is discarded (R503). -/
def ecrcFail (s : State) (again : Bool) : State :=
  (retried (noteHost s 0 0xC0) hostUnit 0xC0 (hostFaultInfo 0xC0) 0 0 again).1

/-- A host read that fails ECC twice (R503). -/
def readEccFail (s : State) : State :=
  lastingResponse (noteHost s 3 0xC3) hostUnit 0xC3 (hostFaultInfo 0xC3) 0 0

/-! ### The reserved aperture (R480, R507, Table 14.9) -/

/-- The table lists the offset for the stack. -/
def resvListed (st o : Nat) : Bool :=
  decide (o < 0x100000) ||
  (st == 0 && ((decide (0x100000 ≤ o) && decide (o < 0x181000)) || (decide (0x200000 ≤ o) && decide (o < 0x400000)) ||
    (decide (0x1000000 ≤ o) && decide (o < 0x2000000)))) ||
  (decide (0x4000000 ≤ o) && decide (o < 0xA000000))

/-- Contents that the manual does not fix: the configuration images' layout, and the working area. -/
def resvOpen (o : Nat) : Bool := (decide (0x2000000 ≤ o) && decide (o < 0x2400000)) || decide (0xA000000 ≤ o)

/-- A byte of the reserved region as the host reads it; an open one is a free value. -/
def resvByte (s : State) (st o : Nat) : State × Byte :=
  if resvListed st o then (s, memByte (eaveAt s st).hbm (resvBase + o))
  else if resvOpen o then
    let d := drawFree s
    (d.2, BitVec.ofNat 8 d.1.toNat)
  else (s, 0)

def resvBytes (st : Nat) : Nat → Nat → State → State × List Byte
  | 0, _, s => (s, [])
  | n + 1, o, s =>
    let b := resvByte s st o
    let r := resvBytes st n (o + 1) b.1
    (r.1, b.2 :: r.2)

/-! ### The unified-range window (R411, Table 12.4) -/

/-- One extent's part of a host read. -/
def hostReadExtent (s : State) (x : BitVec 19) (off n : Nat) : State × Fetched :=
  let t := translate s none x
  let e := t.2
  let st := entState e
  if st = stResident ∨ st = stOpen ∨ st = stSealing ∨ st = stBoth then
    (hitEave t.1 (entStack e) 0x200 n, .ok (frameRead t.1 e off n))
  else if st = stHomed ∨ st = stPromoting then
    match homeRead t.1 x e off n with
    | .ok bs => (countDecoded t.1 (entPort e) (entHome e) (off / 4096) ((off + n + 4095) / 4096 - off / 4096), .ok bs)
    | r => (t.1, r)
  else (t.1, .access (x.toNat * 2 ^ 24 + off))

def hostReadPieces : State → List (BitVec 19 × Nat × Nat) → State × Fetched
  | s, [] => (s, .ok [])
  | s, (x, off, n) :: ps =>
    match hostReadExtent s x off n with
    | (s1, .ok bs) =>
      (match hostReadPieces s1 ps with
       | (s2, .ok cs) => (s2, .ok (bs ++ cs))
       | r => r)
    | r => r

/-- One extent's part of a host write: into the frame, or discarded with event HOSTWR. -/
def hostWriteExtent (s : State) (x : BitVec 19) (off : Nat) (bs : List Byte) : State :=
  let t := translate s none x
  if entState t.2 = stResident ∨ entState t.2 = stOpen then frameWrite t.1 t.2 off bs
  else event t.1 ridgeUnit 0xAA (x.zeroExtend 32) 0

def hostWritePieces : State → List (BitVec 19 × Nat × Nat) → List Byte → State
  | s, (x, off, n) :: ps, bs => hostWritePieces (hostWriteExtent s x off (bs.take n)) ps (bs.drop n)
  | s, [], _ => s

/-! ### BAR2 (R480, R547, R551) -/

/-- What an access to an offset of BAR2 reaches. -/
inductive Bar2 where
  | buffer
  | unified (a : Nat)
  | aperture (st o : Nat)
  /-- a unified address above the range -/
  | above
  | nothing
deriving DecidableEq, Repr

def bar2At (s : State) (off : Nat) : Bar2 :=
  let z := s.hst.barSize * 2 ^ 30
  if s.prog.loaded ∧ s.prog.reduced ∧ off < 0x400000 then .buffer
  else if s.pwr.stage ≠ 2 ∨ z ≤ off then .nothing
  else if off < z - 2 ^ 33 then
    (if s.hst.winBase.toNat + off < 2 ^ 43 then .unified (s.hst.winBase.toNat + off) else .above)
  else .aperture ((off - (z - 2 ^ 33)) / 2 ^ 30) ((off - (z - 2 ^ 33)) % 2 ^ 30)

/-- Every eave unit that serves a piece of an access is reached over a bridge node (R26, R27, log 112). -/
def reachable (s : State) (l : List (BitVec 19 × Nat × Nat)) : Bool :=
  l.all (fun q => (bridgeOf s (entStack (tierEntry s q.1) % 4)).isSome)

/-- A read that the hardware checks let through. -/
def bar2Serve (s : State) (off n : Nat) : State :=
  match bar2At s off with
  | .buffer => answer (hitHost s 0x3C0 n) (.data (memRead s.hst.rsBuf off n))
  | .unified a =>
    if 2 ^ 43 < a + n ∨ !reachable s (piecesOf a n) then answer s .unsupported
    else
      (match hostReadPieces s (piecesOf a n) with
       | (s1, .ok bs) => answer (hitHost s1 0x3C0 n) (.data bs)
       | (s1, .access _) => answer s1 .unsupported
       | (s1, .data _ _) => answer (readEccFail s1) .abort)
  | .aperture st o =>
    let r := resvBytes st n o s
    answer (hitHost r.1 0x3C0 n) (.data r.2)
  | .above => answer s .unsupported
  | .nothing => answer s .unsupported

def bar2Read (s : State) (off n : Nat) (hw : HwCheck) : State :=
  let s1 := wake s
  match hw with
  | .twice 0xC3 _ => answer (readEccFail s1) .abort
  | .once 0xC1 _ | .twice 0xC1 _ => ideFail s1
  | .once 0xC0 _ => ecrcFail s1 false
  | .twice 0xC0 _ => ecrcFail s1 true
  | _ => bar2Serve s1 off n

def resvWriteEvent (s : State) (off : Nat) : State :=
  event s hostUnit 0xC9 (BitVec.ofNat 32 off) (BitVec.ofNat 32 (off / 2 ^ 32))

/-- A write that the hardware checks let through. -/
def bar2Store (s : State) (off : Nat) (bs : List Byte) : State :=
  match bar2At s off with
  | .buffer =>
    if off + bs.length ≤ 0x3FC000 then
      hitHost { s with hst := { s.hst with rsBuf := memWrite s.hst.rsBuf off bs } } 0x3C1 bs.length
    else resvWriteEvent s off
  | .unified a => if 2 ^ 43 < a + bs.length then resvWriteEvent s off
    else if !reachable s (piecesOf a bs.length) then s
    else hitHost (hostWritePieces s (piecesOf a bs.length) bs) 0x3C1 bs.length
  | .aperture _ _ => resvWriteEvent s off
  | .above => resvWriteEvent s off
  | .nothing => resvWriteEvent s off

def bar2Write (s : State) (off : Nat) (bs : List Byte) (hw : HwCheck) : State :=
  let s1 := wake s
  match hw with
  | .once 0xC1 _ | .twice 0xC1 _ => ideFail s1
  | .once 0xC0 _ => ecrcFail s1 false
  | .twice 0xC0 _ => ecrcFail s1 true
  | _ => bar2Store s1 off bs

/-! ### BAR0 (R23, R479) -/

/-- Naturally aligned, of 1, 2, 4 or 8 B, inside the 64 MiB. -/
def bar0Ok (a size : Nat) : Bool := (size == 1 || size == 2 || size == 4 || size == 8) && a % size == 0

/-- The bytes of a word that an access of less than 4 B addresses. -/
def byteMask (a size : Nat) : W32 := BitVec.ofNat 32 ((2 ^ (8 * size) - 1) * 2 ^ (8 * (a % 4)))

def allBytes : W32 := BitVec.allOnes 32

/-- An access to a compute-die block wakes the device. -/
def wakeFor (s : State) (a : Nat) : State := if wakesDie (regAt s a) then wake s else s

def bar0Write (s : State) (a size : Nat) (v : W64) : State :=
  if bar0Ok a size then
    let s1 := wakeFor s a
    if size = 8 then
      writeWord (writeWord s1 a (BitVec.ofNat 32 v.toNat) allBytes) (a + 4) (BitVec.ofNat 32 (v.toNat / 2 ^ 32)) allBytes
    else if size = 4 then writeWord s1 a (BitVec.ofNat 32 v.toNat) allBytes
    else writeWord s1 (a - a % 4) (BitVec.ofNat 32 (v.toNat * 2 ^ (8 * (a % 4)))) (byteMask a size)
  else s

/-- The truss and the index of the spar whose table entry a register shows. -/
def sparShown (s : State) (a : Nat) : Option (Nat × Nat) :=
  match regAt s a with
  | .trs t o => if 0x8000 ≤ o then some (t, (o - 0x8000) / 8) else if 0x4000 ≤ o then some (t, (o - 0x4000) / 4) else none
  | _ => none

/-- The check of the spar-table read behind a register read (R340); whether the value can be had. One that cannot is never
returned to the host (R503, log 131). -/
def sparChecked (s : State) (a : Nat) (ecc : EccResult) : State × Bool :=
  match sparShown s a, ecc with
  | some (t, _), .single => (updTruss s t (fun x => { x with sparFix := satInc16 x.sparFix }), true)
  | some (t, i), .double => (sparTableFault s t 0 0x74 i, false)
  | some (t, _), .waitParity k => (sparTableFault s t 1 0x75 k.toNat, true)
  | _, _ => (s, true)

/-- A read: its bytes, then what reading changes; an 8 B read is two of 4 B, the lower first. -/
def bar0Read (s : State) (a size : Nat) (ecc : EccResult) : State :=
  if bar0Ok a size then
    let c := sparChecked (wakeFor s a) a ecc
    let s1 := c.1
    if !c.2 then answer s1 .abort
    else if size = 8 then
      let lo := regGet s1 a
      let s2 := readEffect s1 a allBytes
      let hi := regGet s2 (a + 4)
      answer (readEffect s2 (a + 4) allBytes) (.data (bytesOf 4 lo.toNat ++ bytesOf 4 hi.toNat))
    else if size = 4 then
      answer (readEffect s1 a allBytes) (.data (bytesOf 4 (regGet s1 a).toNat))
    else
      let w := a - a % 4
      answer (readEffect s1 w (byteMask a size)) (.data (bytesOf size ((regGet s1 w).toNat / 2 ^ (8 * (a % 4)))))
  else answer s .abort

/-! ### Host accesses in general (R482) -/

/-- The host port is out of reset and powered. -/
def hostUp (s : State) : Bool := s.pkg.perst && s.pwr.pwrgood

/-- A host access takes effect; without the ridge's control BAR2 answers with Completer Abort (Table 15.10). -/
def doAccess (s : State) (i : Instr) : State :=
  match i with
  | .hostBar2Read off n hw => if s.saf.hwSafe then answer s .abort else bar2Read s off.toNat n.toNat hw
  | .hostBar2Write off bs hw => if s.saf.hwSafe then s else bar2Write s off.toNat bs hw
  | .registerWrite off size v => bar0Write s off.toNat size.toNat v
  | .registerReadClear off rd => bar0Read s off.toNat rd.size.toNat rd.ecc
  | _ => s

/-- A host access arrives: during a warm reset it is held. -/
def hostAccess (s : State) (i : Instr) : State :=
  if !hostUp s then s
  else if s.saf.resetReq.isSome then { s with hst := { s.hst with waiting := s.hst.waiting ++ [i] } }
  else doAccess s i

/-- The accesses held during a warm reset, in arrival order. -/
def releaseWaiting (s : State) : State :=
  s.hst.waiting.foldl doAccess { s with hst := { s.hst with waiting := [] } }

/-- A 4 B write and a 4 B read of a register. -/
def write4 (s : State) (a : Nat) (v : W32) : State := hostAccess s (.registerWrite (BitVec.ofNat 26 a) 4 (v.zeroExtend 64))
def read4 (s : State) (a : Nat) : State := hostAccess s (.registerReadClear (BitVec.ofNat 26 a) { size := 4, ecc := .clean })

/-- Offsets of the fence registers, in the order of the manual. -/
def fenceOffset (k : Nat) : Nat :=
  if k < 3 then 0x3E00200 + 4 * k else if k = 3 then 0x3E00210 else if k = 4 then 0x3E00214 else 0x3E00218

/-! ### The ridge's register accesses (R327) -/

/-- The bits of a descriptor entry that are no reserved ones (R288). -/
def descFields : BitVec 512 := ~~~((BitVec.ofNat 512 (2 ^ 26 - 1) <<< 5) ||| (BitVec.ofNat 512 (2 ^ 16 - 1) <<< 80))

/-- Configuration that only the ridge writes: the image's part of a rafter block. Reserved bits read zero (R19), and so do
PEER and PEERQ of a binding to the stream engine (R99). -/
def ridgeRft (x : Rafter) (o : Nat) (v : W32) : Rafter :=
  if 0x80 ≤ o ∧ o < 0xA0 then { x with slotDesc := x.slotDesc.set ((o - 0x80) / 4) (v &&& 0x3FFFFFFF) }
  else if 0x100 ≤ o ∧ o < 0x140 then { x with depth := x.depth.set ((o - 0x100) / 4) (BitVec.ofNat 9 v.toNat) }
  else if 0x400 ≤ o ∧ o < 0x600 then
    { x with route := tablePut 0 x.route ((o - 0x400) / 4) (v &&& (if v.getLsbD 19 then 0x80080000 else 0x8007FFFF)) }
  else if 0x4000 ≤ o ∧ o < 0x8000 then
    let d := (o - 0x4000) / 0x40
    let e : BitVec 512 := BitVec.ofNat 512 (setField (tableGet 0 x.descs d).toNat (8 * (o % 0x40)) 32 v.toNat)
    { x with descs := tablePut 0 x.descs d (e &&& descFields) }
  else match o with
  | 0x004 => { x with entry := BitVec.ofNat 3 v.toNat, decision := v.getLsbD 3, serve := v.getLsbD 4 }
  | 0x008 => { x with progLimit := BitVec.ofNat 20 v.toNat }
  | _ => x

/-- Configuration of a truss: spar entries and the grant. -/
def ridgeTrs (x : Truss) (o : Nat) (v : W32) : Truss :=
  if 0x4000 ≤ o ∧ o < 0x8000 then
    let i : BitVec 12 := BitVec.ofNat 12 ((o - 0x4000) / 4)
    setSpar x i { sparEntry x i with rest := v }
  else if 0x8000 ≤ o then
    let i : BitVec 12 := BitVec.ofNat 12 ((o - 0x8000) / 8)
    setSpar x i (if o % 8 < 4 then { sparEntry x i with count := v } else { sparEntry x i with phase := v.getLsbD 0 })
  else if o = 0x114 then { x with sysGrant := BitVec.ofNat 6 v.toNat }
  else x

def ridgeWrite4 (s : State) (a : Nat) (v : W32) : State :=
  match regAt s a with
  | .rft n o => writeWord (updRafter s n (fun x => ridgeRft x o v)) a v allBytes
  | .trs t o => writeWord (updTruss s t (fun x => ridgeTrs x o v)) a v allBytes
  | .eav e o =>
    if 0x14000 ≤ o ∧ o < 0x16000 then
      { s with upd := { s.upd with uprog := tablePut 0 s.upd.uprog (64 * ((o - 0x14000) / 0x100) + o % 0x100 / 4) v } }
    else writeWord (updEave s e id) a v allBytes
  | _ => s

/-- The mesh column of the truss or eave unit that holds a register (R26). -/
def columnOf (s : State) : RegAt → Option Nat
  | .rft n _ => (physOf s n).map (fun p => p / 6 % 4)
  | .trs t _ => some (t % 4)
  | .eav e _ => some (e % 4)
  | _ => none

/-- A register access reaches its die over a bridge node (R26, R27); where both are excluded none does (log 112). -/
def crosses (s : State) (r : RegAt) : Bool := (columnOf s r).all (fun c => (bridgeOf s c).isSome)

/-- RIDGE_REGISTER_ACCESS: the access takes effect at the compute-die register, and its response is on its way. -/
def ridgeAccess (s : State) (off : BitVec 26) (wr : Bool) (v : W32) : State :=
  let a := off.toNat - off.toNat % 4
  if wakesDie (regAt s a) && crosses s (regAt s a) then
    let old := regGet s a
    let s1 := if wr then ridgeWrite4 s a v else readEffect s a allBytes
    { s1 with ridgeAsked := s1.ridgeAsked ++ [(BitVec.ofNat 26 a, if wr then v else old, s1.crs.resetGen)] }
  else s

/-- RIDGE_REGISTER_RESPONSE: the oldest response arrives; one of an older reset generation is dropped. -/
def ridgeResponse (s : State) : State :=
  match s.ridgeAsked with
  | [] => s
  | (a, v, g) :: rest =>
    let s1 := { s with ridgeAsked := rest }
    if g = s.crs.resetGen then { s1 with ridgeGot := (a, v) :: s1.ridgeGot } else s1

/-! ### Interrupts, configuration requests, timeouts -/

/-- MSIX_VECTOR_UNMASK (R502). -/
def unmaskVector (s : State) (v : BitVec 6) : State :=
  if !hostUp s then s
  else
    let bit : BitVec 64 := 1#64 <<< v.toNat
    let s1 := { s with hst := { s.hst with msixMask := s.hst.msixMask &&& ~~~bit } }
    if s.hst.msixPend.getLsbD v.toNat then
      sendMsix { s1 with hst := { s1.hst with msixPend := s1.hst.msixPend &&& ~~~bit } } v
    else s1

/-- CONFIGURATION_REQUEST (R546): Request Retry Status until bring-up step 4 ends. -/
def configRequest (s : State) (toD0 : Bool) : State :=
  if !hostUp s then s
  else
    let ok := decide (s.pwr.stage ≠ 0)
    { s with hst := { s.hst with cfgReplies := ok :: s.hst.cfgReplies
                                 d3hot := s.hst.d3hot && !(ok && toD0) } }

/-- PCIE_COMPLETION_TIMEOUT (R503, Table 14.11). -/
def completionTimeout (s : State) (again : Bool) : State :=
  if !hostUp s then s
  else (retried (noteHost s 2 0xC2) hostUnit 0xC2 (hostFaultInfo 0xC2) 0 0 again).1

/-! ### Meanings -/

/-- A host read through BAR2 (R480). -/
def execHostBar2Read (off : BitVec 40) (len : W16) (hw : HwCheck) (s : State) : Out State :=
  .next (hostAccess s (.hostBar2Read off len hw))
/-- A host write through BAR2 (R480). -/
def execHostBar2Write (off : BitVec 40) (data : List Byte) (hw : HwCheck) (s : State) : Out State :=
  .next (hostAccess s (.hostBar2Write off data hw))
/-- A host write to BAR0 (R18, R23, R479). -/
def execRegisterWrite (off : BitVec 26) (size : BitVec 4) (v : W64) (s : State) : Out State :=
  .next (hostAccess s (.registerWrite off size v))
/-- A host read of BAR0 (R18, R23, R479). -/
def execRegisterReadClear (off : BitVec 26) (rd : HostRead) (s : State) : Out State :=
  .next (hostAccess s (.registerReadClear off rd))
/-- CRS_COURSE_LO read (R87). -/
def execCrsCourseLoRead (s : State) : Out State := .next (read4 s 0x100010)
/-- CRS_PERIOD written (R50 to R52). -/
def execCrsPeriodWrite (v : W32) (s : State) : Out State := .next (write4 s 0x100004 v)
/-- CRS_CTRL written (R50, R55). -/
def execCrsCtrlWrite (v : W32) (s : State) : Out State := .next (write4 s 0x100000 v)
/-- CRS_PTP_OFFSET written (R51). -/
def execCrsPtpOffsetWrite (v : W32) (s : State) : Out State := .next (write4 s 0x100028 v)
/-- HST_CR_CTRL written (R483). -/
def execHstCrCtrlWrite (v : W32) (s : State) : Out State := .next (write4 s 0x200008 v)
/-- HST_CQ_HEAD written (R485). -/
def execHstCqHeadWrite (v : W32) (s : State) : Out State := .next (write4 s 0x200018 v)
/-- A fence register written (R506). -/
def execFenceRegisterWrite (which : BitVec 3) (v : W32) (s : State) : Out State :=
  .next (write4 s (fenceOffset which.toNat) v)
/-- CTR_CFGi written (R575). -/
def execCtrCfgWrite (i : BitVec 11) (v : W32) (s : State) : Out State := .next (write4 s (0x3800000 + 16 * i.toNat) v)
/-- CTR_VALi written, 8 B (R576). -/
def execCtrValWrite (i : BitVec 11) (v : W64) (s : State) : Out State :=
  .next (hostAccess s (.registerWrite (BitVec.ofNat 26 (0x3800008 + 16 * i.toNat)) 8 v))
/-- The lower half of CTR_VALi read (R576). -/
def execCtrValLoRead (i : BitVec 11) (s : State) : Out State := .next (read4 s (0x3800008 + 16 * i.toNat))
/-- PWR_TOL written (R556). -/
def execPwrTolWrite (v : W32) (s : State) : Out State := .next (write4 s 0x400008 v)
/-- SAF_FORCE written (R527). -/
def execSafForceWrite (v : W32) (s : State) : Out State := .next (write4 s 0x3C0002C v)
/-- SEC_CTRL written (R563). -/
def execSecCtrlFlashrelWrite (v : W32) (s : State) : Out State := .next (write4 s 0x600004 v)
/-- SEC_RB_ADV written (R564). -/
def execAntiRollbackAdvance (v : W32) (s : State) : Out State := .next (write4 s 0x600008 v)
/-- SEC_OWNER_CMD written, to program a slot (R567). -/
def execOwnerProgram (v : W32) (s : State) : Out State := .next (write4 s 0x60000C v)
/-- SEC_OWNER_CMD written, to revoke a slot (R567). -/
def execOwnerRevoke (v : W32) (s : State) : Out State := .next (write4 s 0x60000C v)
/-- SEC_ATT_NONCEk written (R569). -/
def execSecAttNonceWrite (k : BitVec 3) (v : W32) (s : State) : Out State := .next (write4 s (0x600020 + 4 * k.toNat) v)
/-- SEC_ATT_CTRL.GO set (R569). -/
def execAttestationRequest (s : State) : Out State := .next (write4 s 0x600014 1)
/-- A ridge register access over the mesh (R327). -/
def execRidgeRegisterAccess (off : BitVec 26) (wr : Bool) (v : W32) (s : State) : Out State :=
  .next (ridgeAccess s off wr v)
/-- Its response (R327). -/
def execRidgeRegisterResponse (s : State) : Out State := .next (ridgeResponse s)
/-- A vector is unmasked through BAR4 (R502). -/
def execMsixVectorUnmask (vec : BitVec 6) (s : State) : Out State := .next (unmaskVector s vec)
/-- A configuration request (R546). -/
def execConfigurationRequest (toD0 : Bool) (s : State) : Out State := .next (configRequest s toD0)
/-- A device read's completion times out (R503). -/
def execPcieCompletionTimeout (again : Bool) (s : State) : Out State := .next (completionTimeout s again)

end Sys2Proof.Machine
end

