-- ==== Sys2Proof/Machine/Precond.lean ====
section
/-!
DEFINITION. The blocked preconditioner (R379 to R382): its arithmetic on 128 × 128 blocks in FP32, the routine
that a reserved slot runs, and the slot switch that enters it. The order of roundings that R382 leaves open is in
log 94.
-/

namespace Sys2Proof.Machine

/-! ### Matrices of FP32, by rows -/

abbrev Mat := List (List W32)

def addW (a b : W32) : W32 := opValue 0 a b 0
def subW (a b : W32) : W32 := opValue 1 a b 0
def mulW (a b : W32) : W32 := opValue 2 a b 0
def fmaW (a b c : W32) : W32 := opValue 3 a b c
def divW (a b : W32) : W32 := opValue 4 a b 0
def sqrtW (a : W32) : W32 := opValue 5 a 0 0
def rsqrtW (a : W32) : W32 := opValue 6 a 0 0

def finiteW (a : W32) : Bool := isFin (fv a)

/-- Side of a block. -/
def side : Nat := 128

def matAt (m : Mat) (i j : Nat) : W32 := (m.getD i []).getD j 0

/-- A matrix from its elements. -/
def matOf (f : Nat → Nat → W32) : Mat := (List.range side).map (fun i => (List.range side).map (f i))

def transposed (m : Mat) : Mat := matOf (fun i j => matAt m j i)

/-- A sum of products over ascending terms, one rounding for each (R382). -/
def dotW (a b : List W32) : W32 := (a.zip b).foldl (fun acc t => fmaW t.1 t.2 acc) 0

def matMul (a b : Mat) : Mat :=
  let c := transposed b
  a.map (fun r => c.map (dotW r))

def mapMat (f : W32 → W32) (m : Mat) : Mat := m.map (·.map f)

/-- The statistics of a step: PCDECAY × X + P. -/
def decayed (d : W32) (x p : Mat) : Mat := matOf (fun i j => fmaW d (matAt x i j) (matAt p i j))

def onDiag (i j : Nat) (a b : W32) : W32 := if i = j then a else b

/-- A := X + (PCDAMP × trace X / 128 + 2^-40) I. -/
def damped (damp : W32) (x : Mat) : Mat :=
  let tau := divW ((List.range side).foldl (fun a i => addW a (matAt x i i)) 0) 0x43000000
  let d := fmaW damp tau 0x2B800000
  matOf (fun i j => onDiag i j (addW (matAt x i j) d) (matAt x i j))

/-- One column of the Cholesky decomposition: the rows as far as they stand, each with column `j` added; none on a
pivot that is not positive or not finite. -/
def cholColumn (a : Mat) (l : Option Mat) (j : Nat) : Option Mat :=
  match l with
  | none => none
  | some m =>
    let rest := fun (i : Nat) => ((m.getD i []).zip (m.getD j [])).foldl (fun acc t => fmaW (t.1 ^^^ 0x80000000) t.2 acc)
      (matAt a i j)
    let piv := rest j
    if !finiteW piv || isZero (fv piv) || isNeg (fv piv) then none
    else
      let d := sqrtW piv
      some (m.mapIdx (fun i r => r ++ [if i < j then 0 else if i = j then d else divW (rest i) d]))

/-- Cholesky in ascending column order: it succeeds. -/
def cholOk (a : Mat) : Bool :=
  ((List.range side).foldl (cholColumn a) (some (List.replicate side []))).isSome

/-- Newton's iteration on (Y, M). -/
def newton : Nat → Mat × Mat → Mat × Mat
  | 0, p => p
  | n + 1, p =>
    let z := matOf (fun i j => mulW (subW (onDiag i j 0x40A00000 0) (matAt p.2 i j)) 0x3E800000)
    let zz := matMul z z
    newton n (matMul p.1 z, matMul (matMul zz zz) p.2)

/-- The inverse fourth root of a damped matrix; none where an element is not finite. -/
def inverseRoot (iters : Nat) (a : Mat) : Option Mat :=
  let norm := sqrtW (a.flatten.foldl (fun acc x => fmaW x x acc) 0)
  let c := sqrtW (sqrtW (mulW 0x40000000 norm))
  let c4 := mulW (mulW c c) (mulW c c)
  let y := (newton iters (matOf (fun i j => divW (onDiag i j 0x3F800000 0) c), mapMat (fun x => divW x c4) a)).1
  if y.all (·.all finiteW) then some y else none

/-- The diagonal rule: A[i][i]^(-1/4). -/
def diagonalRoot (a : Mat) : Mat := matOf (fun i j => onDiag i j (rsqrtW (sqrtW (matAt a i i))) 0)

/-! ### The status word (R381) -/

def stValid (w : W32) : Bool := w.getLsbD 0
def staleCount (w : W32) : Nat := field w.toNat 16 16
def pcStatus (valid stale diag : Bool) (n : Nat) : W32 :=
  BitVec.ofNat 32 (b2n valid + 2 * b2n stale + 4 * b2n diag + 2 ^ 16 * n)

/-- A refresh of one inverse root from its statistics, with the status word. -/
def refresh (damp : W32) (iters : Nat) (x : Mat) (q : Mat × W32) : Mat × W32 :=
  let a := damped damp x
  let w := q.2
  match (if cholOk a then inverseRoot iters a else none) with
  | some y => (y, pcStatus true false false (staleCount w))
  | none =>
    if stValid w then (q.1, pcStatus true true (w.getLsbD 2) (min 0xFFFF (staleCount w + 1)))
    else (diagonalRoot a, pcStatus false (w.getLsbD 1) true (staleCount w))

/-- State of a block: statistics, inverse roots, status. -/
structure PcBlock where
  l : Mat
  r : Mat
  ql : Mat
  qr : Mat
  status : W32
deriving DecidableEq, Repr

/-- PCDECAY, PCDAMP, PCEVERY and PCITER of a group entry (Table 11.2). -/
structure PcParams where
  decay : W32
  damp : W32
  every : Nat
  iters : Nat
deriving DecidableEq, Repr

/-- The routine on one block (R382): the block's state after it, and its gradient. -/
def precondition (k : PcParams) (step : Nat) (b : PcBlock) (g : Mat) : PcBlock × Mat :=
  let t := transposed g
  let l := decayed k.decay b.l (matMul g t)
  let r := decayed k.decay b.r (matMul t g)
  let b1 := { b with l := l, r := r }
  let b2 :=
    if step % k.every = 0 then
      let u := refresh k.damp k.iters l (b.ql, b.status)
      let v := refresh k.damp k.iters r (b.qr, u.2)
      { b1 with ql := u.1, qr := v.1, status := v.2 }
    else b1
  (b2, matMul (matMul b2.ql g) b2.qr)

/-! ### Where a block lies -/

/-- Block `b` of a group: its shard's entry and its row and column of blocks. Blocks are numbered over the
group's shards in ascending order and row by row within a shard. -/
def blockIn (s : State) : List (BitVec 20) → Nat → Option (Nat × Nat × Nat)
  | [], _ => none
  | k :: ks, b =>
    let e := shardEntry s k
    let across := shCols e / side
    let n := shRows e / side * across
    if b < n then some (e, b / across, b % across) else blockIn s ks (b - n)

/-- The address of row `i` of a block of GRAD. -/
def gradRow (e br bc i : Nat) : Nat := shGrad e + 4 * ((side * br + i) * shCols e + side * bc)

def blockRows (l : List W32) : Mat := (List.range side).map (fun i => (l.drop (side * i)).take side)

def fetchBlocks (s : State) (n : RafterId) (p : Nat) : List (Nat × Nat) → State × Option (List (List Byte))
  | [] => (s, some [])
  | (a, len) :: rest =>
    match fetchRow s n p .unified a len with
    | (s1, some bs) => match fetchBlocks s1 n p rest with
      | (s2, some l) => (s2, some (bs :: l))
      | (s2, none) => (s2, none)
    | (s1, none) => (s1, none)

def placeBlocks (s : State) (n : RafterId) (p : Nat) : List (Nat × List Byte) → State × Bool
  | [] => (s, true)
  | (a, bs) :: rest =>
    match placeRow s n p .unified a bs with
    | (s1, true) => placeBlocks s1 n p rest
    | (s1, false) => (s1, false)

def matBytes (m : Mat) : List Byte := bytesOfWords m.flatten
def matFrom (bs : List Byte) : Mat := blockRows (wordsOf (side * side) bs)

/-- One block of a group: read, computed and written back; whether every access was made. -/
def runBlock (s : State) (n : RafterId) (p : Nat) (g : BitVec 8) (step b : Nat) : State × Bool :=
  let e := groupEntry s g
  let base := field e 0x2C0 64 + 327680 * b
  let k : PcParams := { decay := gWord e 0x60, damp := gWord e 0x64, every := field e 0x340 16, iters := field e 0x350 16 }
  match blockIn s (groupShards s g) b with
  | none => (s, true)
  | some (sh, br, bc) =>
    let grad := (List.range side).map (fun i => (gradRow sh br bc i, 4 * side))
    match fetchBlocks s n p ([(base, 65536), (base + 65536, 65536), (base + 131072, 65536), (base + 196608, 65536),
        (base + 262144, 4)] ++ grad) with
    | (s1, some (l :: r :: ql :: qr :: w :: rows)) =>
      let o := precondition k step { l := matFrom l, r := matFrom r, ql := matFrom ql, qr := matFrom qr
                                     status := BitVec.ofNat 32 (natOfBytes w) } (rows.map (wordsOf side))
      placeBlocks s1 n p ([(base, matBytes o.1.l), (base + 65536, matBytes o.1.r), (base + 131072, matBytes o.1.ql),
          (base + 196608, matBytes o.1.qr), (base + 262144, bytesOf 4 o.1.status.toNat)] ++
        o.2.mapIdx (fun i row => (gradRow sh br bc i, bytesOfWords row)))
    | (s1, _) => (s1, false)

def runBlocks (n : RafterId) (p : Nat) (g : BitVec 8) (step : Nat) : Nat → Nat → State → State × Bool
  | 0, _, s => (s, true)
  | k + 1, b, s =>
    match runBlock s n p g step b with
    | (s1, true) => runBlocks n p g step k (b + 1) s1
    | (s1, false) => (s1, false)

/-- An address generator that holds free values, from the `k`-th on. -/
def freeAg (k : Nat) : Ag :=
  let v := fun (j : Nat) => Config.freeValue (k + j)
  { space := spaceOfCode ((v 0).toNat % 4), base := (v 1).truncate 43, limit := (v 2).truncate 43
    pairs := (List.range 4).map (fun j => ((v (3 + j)).truncate 40, (v (7 + j)).truncate 3)) }

/-- AG12 to AG15, LC4 to LC7, SH6, SH7 and the routine's scratchpad range hold what the routine leaves there: free values
(R380). -/
def leaveRoutine (s : State) (p : Nat) : State :=
  let x := rafterAt s p
  let v := fun (k : Nat) => Config.freeValue (s.free + k)
  let lc := fun (l : List (BitVec 24)) (k : Nat) => (List.range 4).foldl (fun m j => m.set (4 + j) ((v (k + j)).truncate 24)) l
  let ags := (List.range 4).foldl (fun l k => l.set (12 + k) (freeAg (s.free + 10 + 11 * k))) x.seq.ags
  { setRafter s p { x with
      scratch := memWrite x.scratch 0x180000 ((List.range 0x80000).map (fun k => (v (k + 54)).truncate 8))
      seq := { x.seq with sh := (x.seq.sh.set 6 ((v 0).truncate 32)).set 7 ((v 1).truncate 32)
                          lcLeft := lc x.seq.lcLeft 2, lcDone := lc x.seq.lcDone 6, ags := ags } } with
    free := s.free + 0x80036 }

/-- The routine as the parameter block asks for it (R380): every block, then 1 added to the completion spar. -/
def runRoutine (s : State) (n : RafterId) (p : Nat) : State :=
  let bs := memRead (rafterAt s p).scratch 0x17FFE0 32
  let o := runBlocks n p (BitVec.ofNat 8 (byteField bs 0 4)) (byteField bs 0x10 8) (byteField bs 8 4) (byteField bs 4 4)
    (leaveRoutine s p)
  if o.2 then signalDone o.1 (rafterUnit n) 0 (BitVec.ofNat 16 (byteField bs 0x0C 2)) else o.1

/-- What follows a slot switch: a slot that holds the routine runs it. -/
def enterSlot (n : RafterId) (s : State) : State :=
  match physOf s n with
  | none => s
  | some p =>
    let x := rafterAt s p
    if x.routine.getLsbD x.seq.slot.toNat then runRoutine s n p else s

/-- SLOT_SWITCH takes place now. -/
def switchNow (s : State) (n : RafterId) : Bool :=
  match physOf s n with
  | none => false
  | some p =>
    let x := rafterAt s p
    working s && x.seq.slotReq && slotDrained x && (overruns x).isEmpty && hipsReady x

/-- The slot switch (R122, R217), and the routine of the slot entered (R380). -/
def execSlotSwitch (r : RafterId) (s : State) : Out State :=
  .next (if switchNow s r then enterSlot r (slotSwitch s r) else slotSwitch s r)

end Sys2Proof.Machine
end

