-- ==== Sys2Proof/Machine/Course.lean ====
section
/-!
DEFINITION. The course (chapter 2): the ends of a rafter's work, the decision end, the checks of R63 and R67, the
boundary sequence with the central reader's snapshot (R579 to R582), and the start of a course.
-/

namespace Sys2Proof.Machine

/-! ### Rafters at the ends of a course (R61, R219, R248, R249) -/

/-- Every instruction issued before the one at the head of the sequencer's queue has completed in every other unit. -/
def earlierDone (x : Rafter) : Bool := (x.units.drop 1).all (fun l => l.all (·.after))

/-- A rafter holds: for the decision phase (R61), or for the course in safe hold (R526). -/
def holdsFor (s : State) (x : Rafter) (dec : Bool) : Bool := !x.decision && (dec || (s.saf.hold && !x.serve))

/-- A rafter that starts in the slot of the preconditioner routine runs it (R380). -/
def startIn (s : State) (p : Nat) : State := enterSlot (logicalOf s p) s

/-- Every rafter at the start of its work, held or not; its pass registers hold no guaranteed contents (R124). -/
def freshRafters (s : State) (hold : Rafter → Bool) : State :=
  (positions s).foldl (fun a p =>
    let x := atCourseStart (rafterAt a p)
    let regs := (List.range 4).map (fun k => freeVector (a.free + 256 * k))
    let b := { setRafter a p { x with hold := hold x, pass := regs } with free := a.free + 1024 }
    if hold x then b else startIn b p) s

/-- FSAFE_N may be released: a decision end without a fault of a safety-class program (R527). -/
def proveSafe (s : State) : State :=
  if s.prog.sclass && s.saf.inForce.isEmpty && !s.saf.tainted then { s with saf := { s.saf with proven := true } } else s

/-- DECISION windows released, once in a course. -/
def releaseOnce (s : State) (f : State → State) : State :=
  if s.crs.decEnded then s
  else
    let s1 := f s
    { s1 with crs := { s1.crs with decEnded := true, heldFlag := s1.crs.heldFlag || holding s1 } }

/-- The decision end (R62, R246, R527). -/
def decisionEnd (s : State) : State :=
  let len := BitVec.ofNat 20 (min (s.now - s.crs.t0) 0xFFFFF)
  let s1 := { s with crs := { s.crs with
    phase := 2, rerun := false, decLen := len, decMax := if s.crs.decMax < len then len else s.crs.decMax } }
  let s2 := proveSafe (releaseHeld (releaseOnce s1 releaseDecision))
  (positions s2).foldl (fun a p =>
    let x := rafterAt a p
    let h := holdsFor s x false
    let b := setRafter a p { x with hold := h }
    if x.hold && !h then startIn b p else b) s2

/-- Every marked rafter has executed CRS.END.D; so it is when none is marked. -/
def markedDone (s : State) : Bool :=
  (positions s).all (fun p => !(rafterAt s p).decision || (rafterAt s p).seq.decDone)

/-- The decision end comes no later than the tick that begins at T0 + D (R63); a re-run has no such bound. -/
def decisionInTime (s : State) : Bool := s.crs.rerun || decide (s.now ≤ s.crs.t0 + s.crs.decBound.toNat)

def checkDecision (s : State) : State :=
  if s.crs.phase == 1 && s.saf.resetReq.isNone && decisionInTime s && markedDone s then decisionEnd s else s

/-- The rafter's decision work is done (R249). -/
def markDecision (s : State) (p : Nat) : State :=
  let x := rafterAt s p
  if x.seq.decDone then s else checkDecision (setRafter s p { x with seq := { x.seq with decDone := true } })

/-- CRS.END executes: on a marked rafter CRS.END.D first; then the rafter idles. HALT writes its record with CODE, and the
program stops at the boundary (R219). -/
def endCourse (s : State) (n : RafterId) (p : Nat) (halt : Option W16) : State :=
  let x := rafterAt s p
  let s1 := setRafter s p { x with idle := true, seq := { x.seq with
    stall := 0, endedAt := some s.now, halted := x.seq.halted || halt.isSome } }
  let s2 := match halt with
    | some code => event { s1 with crs := { s1.crs with haltStop := true } } (rafterUnit n) 0xD6 (code.zeroExtend 32) 0
    | none => s1
  let s3 := { s2 with crs := { s2.crs with lastEnd := some s2.now } }
  if x.decision then markDecision s3 p else s3

/-- The end at the head of the sequencer's queue has executed: it leaves the queue and its completion spar is signalled. -/
def endEntry (s : State) (n : RafterId) (p : Nat) (e : InFlight) (rest : List InFlight) : State :=
  let x := setUnitQ (rafterAt s p) 0 rest
  let free := x.units.map (fun l => l.map (fun g => { g with after := false }))
  signalDone (setRafter s p { x with units := free, progress := 0 }) (rafterUnit n) (placeTag x e.place) e.cspar

/-- CRS.END.D, CRS.END or HALT at the head of the sequencer's queue executes once every earlier instruction of the rafter
has completed in every unit (R219, R248, R249). -/
def finishEnds (s : State) (n : RafterId) : State :=
  match physOf s n with
  | none => s
  | some p =>
    let x := rafterAt s p
    match unitQ x 0 with
    | [] => s
    | e :: rest =>
      if !working s || !earlierDone x then s
      else match e.job with
        | some .endD => markDecision (endEntry s n p e rest) p
        | some (.finish halt) => endCourse (endEntry s n p e rest) n p halt
        | _ => s

/-- The sequencer goes on with its queue: at most a CRS.END.D and a CRS.END stand in it. -/
def seqWork (s : State) (n : RafterId) : State := finishEnds (startSeq (finishEnds (startSeq s n) n) n) n

/-- An end takes its place in the sequencer's queue. -/
def enqueueEnd (s : State) (n : RafterId) (p : Nat) (f : Frame) (x : Rafter) (j : UnitJob) : State :=
  seqWork (setRafter s p (placed (advanced x) 0 { flight f .none false with job := some j, place := x.seq.idx })) n

/-- CRS.END, or HALT with its code: nothing issues after it in the course. -/
def crsEndEffect (s : State) (n : RafterId) (f : Frame) (halt : Option W16) : State :=
  issue s n 0 true noFire (fun p x =>
    enqueueEnd s n p f { x with seq := { x.seq with ended := true } } (.finish halt))

/-- CRS.END.D has executed in the course, or waits to. -/
def decAgain (s : State) (n : RafterId) : Bool :=
  (rafterOf s n).seq.decDone || endWaits (rafterOf s n)

/-- CRS.END.D; a second one in a course acts as NOP. -/
def crsEndDEffect (s : State) (n : RafterId) (f : Frame) : State :=
  if decAgain s n then nopEffect s n f
  else issue s n 0 true noFire (fun p x => enqueueEnd s n p f x .endD)

/-! ### Completion (R205) -/

/-- INSTRUCTION_COMPLETE: the unit's oldest instruction completes where it has finished, and the units that waited for it
go on. -/
def instructionComplete (s : State) (n : RafterId) (u : ExecUnit) : State :=
  if !working s then s
  else seqWork (startIssue (startTensor (streamWork (completeHead (streamWork s n) n (unitIndex u)) n) n) n) n

/-- SPAR_REPLY to a rafter may complete its WAIT, ARRIVE.W or POLL. -/
def sparReplyAt (s : State) (t : Nat) : State :=
  match (trussAt s t).replies with
  | [] => s
  | r :: _ => if unitKind r.dest = 0 then seqWork (sparReply s t) (unitInst r.dest) else sparReply s t

/-! ### The checks of the course timer (R63, R67 to R69) -/

/-- A fault of a kind that starts a warm reset, raised by the ridge. -/
def ridgeReset (s : State) (code : Byte) (w1 : W32) (last : Bool) : State :=
  if last || resetIsLasting s || exhausted s ridgeUnit then lastingResponse s ridgeUnit code 0 w1 0
  else resetResponse s ridgeUnit code 0 w1 0

/-- DECISION_DEADLINE_CHECK, at the end of the tick that begins at T0 + D; a re-run may pass T0 + D (R541, R542). -/
def decisionDeadline (s : State) : State :=
  if s.crs.running && s.crs.phase == 1 && s.saf.resetReq.isNone && !decisionInTime s
  then ridgeReset { s with crs := { s.crs with fault := s.crs.fault ||| 1 } } 0xD0 0 false
  else s

/-- HOLD_ONLY_RELEASE_DEADLINE (R525). -/
def holdOnlyDeadline (s : State) : State :=
  if s.crs.running && s.crs.phase == 1 && decide (s.crs.t0 + s.crs.decBound.toNat + 5000 ≤ s.now) &&
      (s.crs.rerun || s.saf.resetReq.isSome || !s.saf.inForce.isEmpty) then
    let s1 := releaseOnce s releaseDecisionHold
    { s1 with crs := { s1.crs with heldFlag := true } }
  else s

/-- A rafter has finished its course, with nothing left in its queues and units (R66), and executed CRS.END before the tick
of the close point (R68); one that safe hold keeps at its first instruction counts as finished (R526). -/
def finished (s : State) (x : Rafter) : Bool :=
  let inTime := match x.seq.endedAt with
    | some t => decide (t + 4000 < s.crs.next)
    | none => false
  holdsFor s x false ||
  (x.idle && inTime && unitsIdle x && x.jobs.isEmpty && x.iq.all (fun q => q.tokens.isEmpty && q.feed.isEmpty) &&
    x.oq.all (fun q => q.tokens.isEmpty && q.feed.isEmpty))

/-- The first rafter that has not finished. -/
def firstUnfinished (s : State) : Option Nat :=
  (List.range (rafterCount s)).find? (fun n => !finished s (rafterOf s n))

/-- The first spar away from rest, as an identifier (R323). -/
def firstAway (s : State) : Option Nat :=
  ((List.range 16).find? (fun t => decide (0 < nonRest (trussAt s t)))).map
    (fun t => t * 4096 + firstNonRest (trussAt s t))

/-- A course-deadline or rest-state fault: a fault of the body, raised at the close point. Either kind in the course before
makes it lasting (log 113). -/
def courseFault (s : State) (bit : W32) (code : Byte) (w : Nat) : State :=
  let twice := match s.crs.lastCourseFault with
    | some c => c + 1 == s.crs.course
    | none => false
  let s1 := ridgeReset { s with crs := { s.crs with
    fault := s.crs.fault ||| bit, lastCourseFault := some s.crs.course, phase := 2 } } code (BitVec.ofNat 32 w) twice
  { s1 with crs := { s1.crs with phase := 3 } }

def noteSlack (s : State) : State :=
  match s.crs.lastEnd with
  | none => s
  | some t =>
    let k := BitVec.ofNat 32 (s.crs.next - 4000 - t)
    { s with crs := { s.crs with slackMin := if k < s.crs.slackMin then k else s.crs.slackMin } }

/-- CLOSE_POINT_CHECK. A course whose work a warm reset has abandoned is not checked and releases nothing. -/
def closePoint (s : State) : State :=
  if !s.crs.running || s.crs.closed || decide (s.now + 4000 < s.crs.next) then s
  else
    let s1 := { s with crs := { s.crs with closed := true, phase := 3 } }
    if s.saf.resetReq.isSome || s.crs.abandoned || s.saf.hwSafe then s1
    else match firstUnfinished s1 with
      | some n => courseFault s1 2 0xD1 n
      | none => match firstAway s1 with
        | some i => courseFault (noteSlack s1) 4 0xD2 i
        | none =>
          let s2 := releaseCourse (noteSlack s1)
          { s2 with crs := { s2.crs with heldFlag := s2.crs.heldFlag || holding s2 } }

/-! ### Step 1: the snapshot (R579 to R582, Tables 17.3 and 17.4) -/

/-- An entry of a snapshot. -/
def snapEntry (s : State) (i : Nat) : Nat :=
  match ctrAt s i with
  | none => 0
  | some c =>
    let chained := i % 2 == 1 && (match ctrAt s (i - 1) with
      | some d => d.cfg.getLsbD 1
      | none => false)
    c.val.toNat + b2n c.ovf * 2 ^ 48 + b2n chained * 2 ^ 49 + 2 ^ 50 + field c.cfg.toNat 0 1 * 2 ^ 51 +
      field c.cfg.toNat 16 10 * 2 ^ 52

/-- The group of a counter (Table 17.1). -/
def ctrGroup (i : Nat) : Option Nat :=
  if i < 768 then some (i % 8) else if i < 896 then some (8 + i % 8) else if i < 960 then some (16 + i % 8)
  else if i < 1024 then some (24 + i % 8) else none

def groupGranted (s : State) (i : Nat) : Bool :=
  match ctrGroup i with
  | some g => s.cnt.grant.getLsbD g
  | none => false

/-- A counter shows on the board: granted, and both of a chained pair. -/
def ctrShown (s : State) (i : Nat) : Bool :=
  let lo := i - i % 2
  let chained := match ctrAt s lo with
    | some c => c.cfg.getLsbD 1
    | none => false
  if chained then groupGranted s lo && groupGranted s (lo + 1) else groupGranted s i

def snapBytes (s : State) (shown : Nat → Bool) : List Byte :=
  let head := bytesOf 8 s.crs.course.toNat ++ bytesOf 4 (min (s.cnt.cycles / 1600) 0xFFFFFFFF) ++
    [s.crs.resetGen, BitVec.ofNat 8 s.crs.point.toNat] ++ bytesOf 2 (b2n s.cnt.hadReset + 2 * b2n s.cnt.first) ++
    bytesOf 4 1048 ++ bytesOf 4 s.cnt.grant.toNat ++ zeros 36
  let rest := (List.range 1048).flatMap (fun i => bytesOf 8 (if shown i then snapEntry s i else 0)) ++ zeros 7936
  head ++ bytesOf 4 (crc32c (head ++ zeros 4 ++ rest)).toNat ++ rest

/-- Step 1, which takes `ticks`. -/
def snapshotStep (s : State) (ticks : W16) : State :=
  let full := snapBytes s (fun _ => true)
  let slot := s.crs.course.toNat % 1024
  let s1 := if s.pwr.stage = 2 ∧ !s.prog.reduced then resvWrite s 0 (0x1000000 + 16384 * slot) full else s
  let s2 := match imgAddr s (·.ctrBoard) with
    | some a => (ridgeWrite s1 a (snapBytes s (ctrShown s))).1
    | none => s1
  let c := s2.cnt
  { s2 with cnt := { c with
    snaps := satInc16 c.snaps, slot := BitVec.ofNat 10 slot, last := full, timeLast := ticks
    timeMax := if c.timeMax < ticks then ticks else c.timeMax, cycles := c.cycles % 1600 } }

/-! ### Step 2: the step and the course record (R83 to R86, R355, R392, R394, R526) -/

/-- The step ends at this boundary: every group has an outcome, or the step is skipped whole. -/
def skipAll (s : State) : Bool := s.crs.stepSkip || s.saf.hold
def stepReady (s : State) : Bool :=
  !(usedGroups s).isEmpty && (skipAll s || (usedGroups s).all (fun g => decide (2 ≤ (groupAt s g).st.toNat)))

/-- A group at a boundary where the step ends. -/
def endGroup (skip : Bool) (late : Bool) (v : Group) : Group :=
  let w := { v with st := 0, agw := false, flags := [], reduceAt := none, result := none, timedOut := v.timedOut && late, prep := [] }
  if v.st = 2 ∧ !skip then { w with outcome := 1, live := !v.live, head := nextHead v, ver := v.ver + 1 }
  else { w with outcome := 2 }

/-- A group that still awaits its agreement result. -/
def awaitsResult (s : State) (g : BitVec 8) : Bool := s.lnk.insts.any (fun i => i.agree == some g)

/-- Owned shards whose new ring entries have gone to the members of the replica axis (R396). -/
def deliveredShards (s : State) (g : BitVec 8) : List (BitVec 20) :=
  match repDesc s with
  | none => []
  | some d =>
    if axisSize s.lnk (cdAxis (cdOf s d.toNat)) ≤ 1 then []
    else (groupAt s g).prep.filter (fun q => !shMirror (shardEntry s q))

/-- A skip here of a step that other devices may commit (R396). -/
def suspectSkip (s : State) (g : BitVec 8) : State :=
  let v := groupAt s g
  if v.st = 2 ∧ !skipAll s then s else markSuspects s (deliveredShards s g)

/-- R85 and R392: whether the step committed, and whether it was skipped. -/
def commitStep (s : State) : State :=
  let gs := usedGroups s
  if stepReady s then
    let s1 := gs.foldl suspectSkip s
    let s2 := gs.foldl (fun a g => updGroup a g (endGroup (skipAll s) (awaitsResult a g))) s1
    let any := gs.any (fun g => (groupAt s2 g).outcome == 1)
    { s2 with crs := { s2.crs with step := s.crs.step + 1, stepSkip := false, stepped := some (any, !any) }
              upd := { s2.upd with taken := [] } }
  else
    let s1 := gs.foldl (fun a g => updGroup a g (fun v => { v with outcome := if v.st = 0 then 0 else 3 })) s
    { s1 with crs := { s1.crs with stepped := some (false, false) } }

/-- A group state byte (Table 2.6). -/
def groupByte (s : State) (g : Nat) : Byte :=
  let v := groupAt s (BitVec.ofNat 8 g)
  BitVec.ofNat 8 (v.outcome.toNat + b2n v.live * 4 + v.head.toNat * 8)

def committed (s : State) : Bool := s.crs.stepped.any (·.1)
def stepSkipped (s : State) : Bool := s.crs.stepped.any (·.2)

/-- The course record (Table 2.5). -/
def courseRecord (s : State) : List Byte :=
  let flags := b2n (committed s) + 2 * b2n (stepSkipped s) + 4 * b2n (s.crs.heldFlag || holding s) +
    8 * b2n s.crs.reranFlag + 16 * b2n s.crs.delayed + 32 * b2n s.crs.abandoned
  let head := bytesOf 8 s.crs.course.toNat ++ bytesOf 8 s.crs.step.toNat ++ bytesOf 4 s.tier.gen.toNat ++
    [s.crs.resetGen, BitVec.ofNat 8 s.crs.point.toNat] ++ bytesOf 2 flags ++ bytesOf 4 s.crs.decLen.toNat
  let rest := zeros 32 ++ (List.range 256).map (groupByte s) ++ zeros 192
  head ++ bytesOf 4 (crc32c (head ++ zeros 4 ++ rest)).toNat ++ rest

/-- Where records of reduced service are held (R551). -/
def heldRecord (c : Nat) : Nat := 0x3FC000 + 512 * (c % 16)

def writeRecord (s : State) : State :=
  let c := s.crs.course.toNat
  let bs := courseRecord s
  let s1 := if s.prog.reduced then { s with hst := { s.hst with rsBuf := memWrite s.hst.rsBuf (heldRecord c) bs } } else s
  if s.pwr.stage = 2 then resvWrite s1 0 (0x100000 + 512 * (c % 1024)) bs else s1

def recordStep (s : State) : State :=
  let s1 := if s.crs.stepped.isSome then s else commitStep s
  writeVersions (writeRecord s1) (s1.crs.course + 1) (committed s1 || stepSkipped s1) (stepSkipped s1) s1.cnt.hadReset

/-! ### Step 3: disables, held writes, stage Full, stops, the ACLK point (R79, R548, R555, R561, R575) -/

def applyHeld (c : Ctr) : Ctr := { c with cfg := c.held.getD c.cfg, held := none }

def applyCtrs (s : State) : State :=
  { s with
    rft := s.rft.map (fun x => { x with ctr := x.ctr.map applyHeld })
    trs := s.trs.map (fun x => { x with ctr := x.ctr.map applyHeld })
    eav := s.eav.map (fun x => { x with ctr := x.ctr.map applyHeld })
    cxl := s.cxl.map (fun x => { x with ctr := x.ctr.map applyHeld })
    lnk := { s.lnk with ports := s.lnk.ports.map (fun x => { x with ctr := x.ctr.map applyHeld }) }
    hst := { s.hst with ctr := s.hst.ctr.map applyHeld } }

/-- A record held in reduced service goes to its slot of the course-record ring. -/
def copyRecord (s : State) (k : Nat) : State :=
  let bs := memRead s.hst.rsBuf (heldRecord k) 512
  let c := byteField bs 0 8
  if recordValid (c % 1024) bs && c % 16 == k then resvWrite s 0 (0x100000 + 512 * (c % 1024)) bs else s

/-- Stage Full is entered (R548). -/
def enterFull (s : State) (ms : W16) : State :=
  let n := s.saf.seq.toNat
  let kept := min n 1024
  let s1 := { s with pwr := { s.pwr with stage := 2, bootFull := ms, fullDue := none }
                     saf := { s.saf with lost := satAdd16 s.saf.lost (n - kept) } }
  let s2 := (List.range 16).foldl copyRecord s1
  (List.range kept).foldl (fun a i =>
    let j := n - kept + i
    resvWrite a 0 (0x200000 + 32 * (j % 65536)) (bytesOf 32 (tableGet 0 a.saf.gtail (j % 1024)).toNat)) s2

/-- The ACLK point kept between the floor and the ceiling, the floor first; 0.625 GHz in reduced service. -/
def clampPoint (s : State) (k : Nat) : BitVec 2 :=
  if s.prog.reduced then 3
  else BitVec.ofNat 2 (min s.pwr.floor.toNat (max k (min s.pwr.ceil.toNat s.pwr.floor.toNat)))

/-- The governor's step at a boundary (R561), and a limit written before it. -/
def governStep (s : State) : State :=
  let p := s.pwr
  let lim := p.limitNext.getD p.limit
  let hot := decide (95 ≤ p.courseHigh.toInt) || decide (p.samples < 4 * p.skipSamples)
  let calm := match p.quietSince with
    | some t => decide (t + 10000000 ≤ s.now)
    | none => false
  let k := p.aclk.toNat
  let want := clampPoint s (if hot then k + 1 else if calm then k - 1 else k)
  let s1 := { s with pwr := { p with limit := lim, limitNext := none, aclk := want } }
  if hot && decide (k < want.toNat) then
    event { s1 with pwr := { s1.pwr with steps := satInc16 s1.pwr.steps } } ridgeUnit 0xF1 0 0
  else s1

def disableStep (s : State) (again : Bool) : State :=
  let s1 := s.crs.defer.foldl applyCmd { s with crs := { s.crs with defer := [] } }
  let s2 := (List.range 8).foldl applyPeers (applyCtrs s1)
  let s3 := match s2.pwr.fullDue with
    | some ms => enterFull s2 ms
    | none => s2
  let s4 := if s3.crs.haltStop && s3.crs.running then stopAndPromote s3 else s3
  let s5 := if s4.crs.running then handOver s4 else s4
  if again then s5 else governStep s5

/-! ### Steps 4 and 5 -/

/-- Step 4, after which the sets whose groups have just committed start their staging (R500, R501). -/
def publishAll (s : State) (again : Bool) : State :=
  let s1 := publishStep s
  if again || !committed s1 then s1 else (List.range 16).foldl (fun a p => stageSet a (a.crs.step - 1) p) s1

/-- A command fetched while a program runs: one of class L, or malformed, is dealt with at the fetch. -/
def takeRunning (a : State × List FetchedCmd) (f : FetchedCmd) : State × List FetchedCmd :=
  if f.done then (a.1, a.2 ++ [f])
  else match f.cmd with
    | none => (rejectCmd a.1 f.opc f.tag, a.2 ++ [{ f with done := true }])
    | some i =>
      match cmdClass i with
      | .atFetch => (applyCmd a.1 i, a.2 ++ [{ f with done := true }])
      | _ => (a.1, a.2 ++ [f])

/-- Commands that the host board shows before step 6 applies them: it describes the course that starts. -/
def onBoard : Instr → Bool
  | .sessionOpen .. | .publishPermit .. | .learnStart .. => true
  | _ => false

def boardCmds (l : List FetchedCmd) : List Instr :=
  l.filterMap (fun f => if f.done then none else f.cmd.filter onBoard)

/-- Step 5: the fetch, the POSTs and the host board. A repeated sequence fetches the same commands (R78). -/
def fetchStep (s : State) : State :=
  let l := if s.hst.fetched.isEmpty then fetchAll s else s.hst.fetched
  let s1 := if s.hst.fetched.isEmpty then markFetched s l else s
  let r := l.foldl takeRunning (s1, [])
  let s2 := readPosts { r.1 with hst := { r.1.hst with fetched := r.2 } }
  match imgAddr s2 (·.hboard) with
  | none => s2
  | some a => (ridgeWrite s2 a (hostBoard ((boardCmds r.2).foldl applyCmd s2) (s2.crs.course + 1))).1

/-- A digest pass starts at a boundary whose new step number is a multiple of EVERY (R470). -/
def digestStep (s : State) (again : Bool) : State :=
  let e := s.lnk.every.toNat
  if !again && e != 0 && (committed s || stepSkipped s) && s.crs.step.toNat % e == 0 then digestStart s else s

/-- R76: the sequence has not been completed by the boundary instant. -/
def slotCheck (s : State) : State :=
  if decide (s.crs.next < s.now) && !s.crs.slotOver then
    event { s with crs := { s.crs with slotOver := true, fault := s.crs.fault ||| 0x10 } } ridgeUnit 0xD3 0 0
  else s

/-- BOUNDARY_SEQUENCE: steps 1 to 5 of Table 2.3, of which step 1 takes `snap` ticks and all take `ticks`. -/
def boundarySequence (s : State) (snap ticks : W16) : State :=
  if !working s || s.crs.slotDone || decide (s.now + 1000 < s.crs.next) then s
  else
    let again := s.crs.stepped.isSome
    let s1 := disableStep (digestStep (recordStep (snapshotStep s snap)) again) again
    if !s1.crs.running then elapse s1 ticks.toNat
    else
      let s2 := elapse (fetchStep (publishAll s1 again)) ticks.toNat
      slotCheck { s2 with crs := { s2.crs with slotDone := true, slotEnd := s2.now } }

/-! ### Course sources (R49 to R56) -/

/-- The PTP clock gives instants: PTP runs and LOCKED is 1; while it is 0 they count as missing (log 108). -/
def ptpOk (s : State) : Bool := s.lnk.ptpEn && s.lnk.ptpLocked

/-- The PTP instant nearest to the prediction, where it lies within ±2 µs of it. -/
def ptpNear (s : State) : Option Nat :=
  let p := s.crs.period.toNat
  let off := s.crs.ptpOffset.toNat
  let t := ptpTick s (off + (ptpOf s s.crs.next + p / 2 - off) / p * p)
  if ptpOk s && decide (t ≤ s.crs.next + 200) && decide (s.crs.next ≤ t + 200) then some t else none

/-- The latest PTP instant by a time of the device. -/
def ptpLast (s : State) (d : Nat) : Nat :=
  let off := s.crs.ptpOffset.toNat
  ptpTick s (off + (ptpOf s d - off) / s.crs.period.toNat * s.crs.period.toNat)

/-- The latest PTP instant, where the first course may start at it. -/
def ptpFirst (s : State) : Option Nat :=
  let t := ptpLast s s.now
  if ptpOk s && decide (s.crs.next ≤ t) then some t else none

/-- The external instant of the coming boundary. -/
def extInstant (s : State) : Option Nat :=
  if s.crs.source = 1 then s.crs.extNext
  else if s.crs.source = 2 then (if s.crs.starting then ptpFirst s else ptpNear s)
  else none

/-- The coming boundary instant; none while an external instant is awaited. -/
def instantOf (s : State) : Option Nat :=
  if s.crs.source = 0 ∨ (s.crs.holdover ∧ !s.crs.rejoin) then some s.crs.next else extInstant s

/-- The device runs on its internal timer from here (R53). -/
def loseSource (s : State) : State :=
  event { s with crs := { s.crs with locked := false, holdover := true, rejoin := false, good := 0, lastExt := none
                                     fault := s.crs.fault ||| 8 } } ridgeUnit 0xD4 0 0

/-- SOURCE_LOST: the window of the awaited instant has passed without it. While the device was returning from
holdover, it counts again. -/
def sourceLost (s : State) : State :=
  if s.crs.running && s.crs.source != 0 && (extInstant s).isNone && decide (s.crs.next + 200 < s.now) then
    if !s.crs.holdover then loseSource s
    else if s.crs.rejoin then { s with crs := { s.crs with rejoin := false, good := 0, lastExt := none } }
    else s
  else s

def nearNext (s : State) : Bool := decide (s.now ≤ s.crs.next + 200) && decide (s.crs.next ≤ s.now + 200)

/-- An external instant counted in holdover: P ± 2 µs after the one before; the first one needs none before it (log 109). -/
def countEdge (c : Crs) (now : Nat) : Crs :=
  let ok := match c.lastExt with
    | some t => decide (now ≤ t + c.period.toNat + 200) && decide (t + c.period.toNat ≤ now + 200)
    | none => false
  { c with lastExt := some now, good := if ok then c.good + 1 else 1 }

/-- A rising edge counts after at least 100 ns low, with the pulse high for at least 100 ns (R589). -/
def edgeCounts (low high : W16) : Bool := decide (100 ≤ low.toNat) && decide (100 ≤ high.toNat)

/-- COURSE_IN_EDGE. -/
def courseInEdge (s : State) : State :=
  if s.crs.source != 1 || !edgeCounts s.pkg.courseLow s.pkg.courseHigh then s
  else if s.crs.starting then
    if s.crs.extNext.isNone && decide (s.crs.next ≤ s.now) then
      { s with crs := { s.crs with extNext := some s.now, next := s.now, locked := true } }
    else s
  else if !s.crs.running then s
  else if s.crs.holdover && !s.crs.rejoin then { s with crs := countEdge s.crs s.now }
  else if nearNext s then
    (if s.crs.extNext.isSome then s
    else { s with crs := { s.crs with extNext := some s.now, locked := true, holdover := false, rejoin := false } })
  else if s.crs.rejoin then { s with crs := countEdge { s.crs with rejoin := false } s.now }
  else
    let s1 := loseSource s
    { s1 with crs := countEdge s1.crs s.now }

/-- Settings that take effect at this boundary instant; a write inside the slot waits for the next one (R50). -/
def dueSets (c : Crs) : Crs :=
  let c1 := applySets { c with heldSets := c.heldSets.filter (fun h => !h.inSlot) }
  let c2 := { c1 with heldSets := (c.heldSets.filter (·.inSlot)).map (fun h => { h with inSlot := false }) }
  if c2.source = c.source then c2
  else { c2 with locked := false, holdover := false, rejoin := false, good := 0, lastExt := none }

/-- The timer after a boundary instant: the next one, or in holdover after four good instants the external one that
follows (R54). The PTP instants of a holdover are counted here. -/
def nextTiming (s : State) (c : Crs) (instant : Nat) : Crs :=
  let p := c.period.toNat
  let c1 := if c.source = 2 ∧ c.holdover ∧ !c.rejoin then
      (if ptpOk s then countEdge c (ptpLast { s with crs := c } instant) else { c with good := 0, lastExt := none }) else c
  let n := instant + p
  match c1.lastExt with
  | some e =>
    if c1.holdover && !c1.rejoin && decide (4 ≤ c1.good) then
      { c1 with next := e + (n - e + p - 1) / p * p, rejoin := true, extNext := none }
    else { c1 with next := n, extNext := none }
  | none => { c1 with next := n, extNext := none }

/-! ### Step 6: the course starts (R74, R77, R79, R82, R246, R502, R526) -/

/-- A fetched command takes effect, or is held to step 3, or is cancelled by a later one. -/
def settle (s : State) : List FetchedCmd → State
  | [] => s
  | f :: l =>
    let later := l.filterMap (fun g => if g.done then none else g.cmd)
    match (if f.done then none else f.cmd) with
    | none => settle s l
    | some i =>
      match cmdClass i with
      | .disable =>
        match survives later i with
        | some d => settle { s with crs := { s.crs with defer := s.crs.defer ++ [d] } } l
        | none => settle (complete s (cmdOpc i) (cmdTag i) 5 []) l
      | _ => settle (applyCmd s i) l

/-- The commands of step 5 take effect and the ring head passes them. -/
def takeFetched (s : State) : State :=
  let l := s.hst.fetched
  let s1 := settle (advanceHead { s with hst := { s.hst with fetched := [] } } (ringCount l)) l
  { s1 with hst := { s1.hst with posts := s1.hst.postsNext } }

/-- The course that starts at an instant. -/
def newCourse (s : State) (instant : Nat) (late : Bool) : State :=
  let first := s.crs.starting
  let ext := (extInstant s).isSome && s.crs.source != 0 && !(s.crs.holdover && !s.crs.rejoin)
  let c0 := if ext then { s.crs with locked := true, holdover := false, rejoin := false } else s.crs
  let c1 := nextTiming s (if first then c0 else dueSets c0) instant
  let d0 := s.crs.decBound = 0
  let s1 := { s with
    crs := { c1 with
      course := if first then s.crs.course else s.crs.course + 1
      running := true, starting := false, delayed := late, t0 := s.now, phase := if d0 then 2 else 1
      fault := if late then c1.fault ||| 0x20 else c1.fault
      decLast := if first then c1.decLast else c1.decLen
      decLen := 0, stepped := none, slotDone := false, slotOver := false, decEnded := false, rerun := false
      reranFlag := false, heldFlag := !s.saf.inForce.isEmpty, abandoned := false, closed := false, lastEnd := none
      haltStop := false, waitNext := false, point := s.pwr.aclk }
    saf := { s.saf with tainted := false, hold := !s.saf.inForce.isEmpty }
    cnt := { s.cnt with hadReset := false, first := s.cnt.first && first }
    pwr := { s.pwr with courseHigh := 0x80, samples := 0, skipSamples := 0 }
    pkg := { s.pkg with courseOut := if c1.courseOutEn then some s.now else none }
    tier := { s.tier with issued := [], lateSeen := [] }
    lnk := { s.lnk with ended := [], ordinals := [] } }
  let s2 := freshRafters ((List.range 16).foldl endWaitsOf s1) (fun x => holdsFor s1 x (!d0))
  let s3 := if late then event s2 ridgeUnit 0xD5 0 0 else s2
  if d0 then releaseHeld s3 else checkDecision s3

/-- The first course of a program. Under PTP its number is that of the instant; the boards are written again where the
instant is not the one predicted (R56). -/
def firstCourse (s : State) (instant : Nat) : State :=
  let p := s.crs.period.toNat
  let k : W64 := BitVec.ofNat 64 ((ptpOf s instant - s.crs.ptpOffset.toNat) / p)
  let s1 := if s.crs.source = 2 ∧ k ≠ s.crs.course then firstBoards { s with crs := { s.crs with course := k } } k else s
  newCourse { s1 with pwr := { s1.pwr with aclk := clampPoint s1 s1.pwr.aclk.toNat } } instant false

/-- COURSE_START: step 6 at the boundary instant, or late when step 5 was completed after it. -/
def courseStart (s : State) : State :=
  if s.saf.resetReq.isSome || s.saf.hwSafe then s
  else match instantOf s with
    | none => s
    | some t =>
      if s.now < t then s
      else if s.crs.starting then firstCourse s t
      else if s.crs.running && s.crs.slotDone then
        sendCpl (sendMsix (newCourse (takeFetched s) t (decide (t < s.crs.slotEnd))) 0)
      else s

/-- COURSE_OUT_PULSE_END: 1 µs after the boundary instant (R55). -/
def courseOutEnd (s : State) : State :=
  match s.pkg.courseOut with
  | some t => if t + 100 ≤ s.now then { s with pkg := { s.pkg with courseOut := none } } else s
  | none => s

/-! ### Meanings -/

/-- HALT (R219). -/
def execHalt (r : RafterId) (f : Frame) (code : W16) (s : State) : Out State := .next (crsEndEffect s r f (some code))
/-- CRS.END (R248). -/
def execCrsEnd (r : RafterId) (f : Frame) (s : State) : Out State := .next (crsEndEffect s r f none)
/-- CRS.END.D (R249). -/
def execCrsEndD (r : RafterId) (f : Frame) (s : State) : Out State := .next (crsEndDEffect s r f)
/-- An instruction completes (R205). -/
def execInstructionComplete (r : RafterId) (u : ExecUnit) (s : State) : Out State := .next (instructionComplete s r u)
/-- A spar table's reply reaches its unit (R225, R228, R231). -/
def execSparReply (t : BitVec 4) (s : State) : Out State := .next (sparReplyAt s t.toNat)
/-- The next course starts (R74, step 6). -/
def execCourseStart (s : State) : Out State := .next (courseStart s)
/-- A rising edge of COURSE_IN (R53, R54). -/
def execCourseInEdge (s : State) : Out State := .next (courseInEdge s)
/-- The external source is lost (R53). -/
def execSourceLost (s : State) : Out State := .next (sourceLost s)
/-- The check at T0 + D (R63). -/
def execDecisionDeadlineCheck (s : State) : Out State := .next (decisionDeadline s)
/-- The check at the close point (R67). -/
def execClosePointCheck (s : State) : Out State := .next (closePoint s)
/-- Steps 1 to 5 of the boundary sequence (R74). -/
def execBoundarySequence (snap ticks : W16) (s : State) : Out State := .next (boundarySequence s snap ticks)
/-- COURSE_OUT falls (R55). -/
def execCourseOutPulseEnd (s : State) : Out State := .next (courseOutEnd s)
/-- Hold-only releases at T0 + D + 50 µs (R525). -/
def execHoldOnlyReleaseDeadline (s : State) : Out State := .next (holdOnlyDeadline s)

end Sys2Proof.Machine
end

