-- ==== Sys2Proof/Machine/Recovery.lean ====
section
/-!
DEFINITION. Diagnostics and recovery (chapter 15): the gutter's writes, self-tests, scrubbing, the post-mortem record, the
warm reset, and the faults that take the ridge's control away.
-/

namespace Sys2Proof.Machine

/-! ### The gutter (R522, R523, R502, Table 15.7) -/

def classCode : GClass → Nat
  | .event => 0 | .transient => 1 | .reset => 2 | .lasting => 3

def gutterBytes (g : GutterRec) (seq : W32) : List Byte :=
  bytesOf 8 g.course.toNat ++ bytesOf 4 g.cycle.toNat ++ bytesOf 2 g.unit.toNat ++ [BitVec.ofNat 8 (classCode g.cls), g.code] ++
  bytesOf 4 g.w0.toNat ++ bytesOf 4 g.w1.toNat ++ bytesOf 4 g.w2.toNat ++ bytesOf 4 seq.toNat

/-- Vector 2, once in each 10 µs. -/
def gutterVector (s : State) : State :=
  let due := match s.saf.lastVec2 with
    | some t => decide (t + 1000 ≤ s.now)
    | none => true
  if due then sendMsix { s with saf := { s.saf with lastVec2 := some s.now } } 2 else s

/-- GLOST, once places are free again. -/
def gutterLost (s : State) : State :=
  if 0 < s.saf.dropped ∧ s.saf.queue.length < 224 then
    event { s with saf := { s.saf with dropped := 0 } } ridgeUnit 0xD9 (BitVec.ofNat 32 s.saf.dropped) 0
  else s

/-- GUTTER_RECORD_WRITE: the record at the head of the queue goes to the ridge's tail and, in stage Full, to the event ring. -/
def gutterWrite (s : State) : State :=
  match s.saf.queue with
  | [] => s
  | g :: rest =>
    let n := s.saf.seq.toNat
    let bs := gutterBytes g s.saf.seq
    let s1 := { s with saf := { s.saf with
      queue := rest, seq := s.saf.seq + 1
      gtail := tablePut 0 s.saf.gtail (n % 1024) (BitVec.ofNat 256 (natOfBytes bs)) } }
    let s2 := if s1.pwr.stage = 2 ∧ !s1.saf.hwSafe then resvWrite s1 0 (0x200000 + 32 * (n % 65536)) bs else s1
    gutterLost (gutterVector s2)

/-! ### Self-tests and scrubbing (R516 to R518) -/

/-- The units of Table 15.5. -/
def testUnits (s : State) : List UnitId :=
  (List.range (rafterCount s)).map rafterUnit ++ (List.range 16).map trussUnit ++ (List.range 8).map eaveUnit ++
  (List.range 8).map linkUnit ++ (List.range 2).map cxlUnit ++ [hostUnit, ridgeUnit]

/-- A rafter is tested after its CRS.END, with 2 µs left before the close point. -/
def testDue (s : State) (u : UnitId) : Bool :=
  (testUnits s).contains u &&
  (!s.crs.running || unitKind u != 0 || ((rafterOf s (unitInst u)).idle && decide (s.now + 200 + 4000 ≤ s.crs.next)))

def testCode (u : UnitId) (r : SelfTest) : Byte :=
  if unitKind u = 0 then
    (match r with
      | .tensor => 0x44
      | .vector => 0x55
      | .row => 0x56
      | _ => 0xEC)
  else 0xEC

/-- A checker has failed to flag (R518). -/
def testFail (s : State) (u : UnitId) (code : Byte) : State :=
  if unitKind u = 0 then
    let x := rafterOf s (unitInst u)
    let w := workAt x.seq.idx (code == 0x56)
    lastingResponse (updRafter s (unitInst u) (fun y => noteCheck y w code 0)) u code (checkWord x w code 0) 0 0
  else lastingResponse s u code 0 0 0

/-- The unit's test has run; a sweep ends with the last unit. -/
def unitTested (s : State) (u : UnitId) : State :=
  let done := if s.saf.swept.contains u then s.saf.swept else s.saf.swept ++ [u]
  if (testUnits s).all (fun v => done.contains v) then
    { s with saf := { s.saf with swept := [], sweeps := satInc16 s.saf.sweeps } }
  else { s with saf := { s.saf with swept := done } }

def selfTestBurst (s : State) (u : UnitId) (r : SelfTest) : State :=
  if s.saf.hwSafe || s.pwr.stage == 0 || s.saf.resetReq.isSome then s
  else match r with
    | .overdue =>
      if (testUnits s).contains u then
        event { s with saf := { s.saf with overdue := satInc16 s.saf.overdue } } u 0xD7 0 0
      else s
    | .pass => if testDue s u then unitTested s u else s
    | _ => if testDue s u then testFail s u (testCode u r) else s

/-- The unit that owns a memory (Table 15.4). -/
def scrubOwner (m : ScrubMem) (u : UnitId) : Bool :=
  match m with
  | .scratch | .valley | .soffit | .instr => unitKind u == 0
  | .spar | .loft => unitKind u == 1
  | .tierCache | .hbm => unitKind u == 2
  | .ridge => u == ridgeUnit

/-- A single-bit error is counted in the memory's correction register, where it has one. -/
def scrubFix (s : State) (m : ScrubMem) (u : UnitId) : State :=
  let n := unitInst u
  match m with
  | .scratch | .instr => updRafter s n (fun x => { x with eccFix := satInc16 x.eccFix })
  | .valley => updRafter s n (fun x => { x with valleyFix := satInc16 x.valleyFix })
  | .soffit => updRafter s n (fun x => { x with sofFix := satInc16 x.sofFix })
  | .spar => updTruss s n (fun t => { t with sparFix := satInc16 t.sparFix })
  | .loft => updTruss s n (fun t => { t with loftFix := satInc16 t.loftFix })
  | .tierCache => updEave s n (fun e => { e with tmcFix := satInc16 e.tmcFix })
  | .ridge | .hbm => s

/-- A double-bit error in a rafter's memory. -/
def scrubRafter (s : State) (u : UnitId) (code : Byte) (addr : Nat) : State :=
  let x := rafterOf s (unitInst u)
  let w := workAt x.seq.idx (code == 0x54)
  let i := BitVec.ofNat 24 addr
  lastingResponse (updRafter s (unitInst u) (fun y => noteCheck y w code i)) u code (checkWord x w code i)
    (BitVec.ofNat 32 addr) 0

/-- A double-bit error, with the memory's code; the manual names none for a ridge memory and for HBM3E, whose code is a
free value (log 50). -/
def scrubDouble (s : State) (m : ScrubMem) (u : UnitId) (addr : Nat) : State :=
  let n := unitInst u
  match m with
  | .scratch => scrubRafter s u 0xE0 addr
  | .valley => scrubRafter s u 0xE1 addr
  | .instr => scrubRafter s u 0xE2 addr
  | .soffit => scrubRafter s u 0x54 addr
  | .spar => sparTableFault s n 0 0x74 (addr / 8 % 4096)
  | .loft => lastingResponse (updTruss s n (fun t => { t with loftDed := true })) u 0xE3 0 (BitVec.ofNat 32 addr) 0
  | .tierCache =>
    let s1 := noteTierFault s 0xA4 (BitVec.ofNat 19 addr)
    lastingResponse s1 u 0xA4 s1.tier.faultInfo 0 0
  | .ridge | .hbm =>
    let d := drawFree s
    lastingResponse d.2 u (BitVec.ofNat 8 d.1.toNat) 0 (BitVec.ofNat 32 addr) 0

/-- SCRUB: a word of a memory is read, and corrected or reported (R516, R340). -/
def scrub (s : State) (m : ScrubMem) (u : UnitId) (addr : BitVec 36) (ecc : EccResult) : State :=
  if s.saf.hwSafe || s.pwr.stage == 0 || s.saf.resetReq.isSome || !scrubOwner m u then s
  else match ecc with
    | .clean => s
    | .single => scrubFix s m u
    | .double => scrubDouble s m u addr.toNat
    | .waitParity e => match m with
      | .spar => sparTableFault s (unitInst u) 1 0x75 e.toNat
      | _ => s

/-! ### Faults that take the ridge's control away (R527, R529, R530, R544, R602) -/

/-- RLOCK, CLKMON and SUPMON: the safety-pin controller acts without the ridge, and no warm reset is possible. -/
def ridgeLost (s : State) (code : Byte) (bit : W32) : State :=
  if !s.pwr.pwrgood then s
  else
    let saf1 := { s.saf with
      inForce := s.saf.inForce ++ [(ridgeUnit, code)], hwSafe := true, proven := false, tainted := true
      fault := s.saf.fault ||| bit, last := latchLast s ridgeUnit code, resetReq := none }
    let s1 := { s with saf := saf1, pkg := { s.pkg with alertLow := true, courseOut := none } }
    let s2 := gutterPut s1 (gutterRec s1 ridgeUnit .lasting code 0 0 0)
    if s2.pkg.perst then sendMsix s2 1 else s2

/-- SUPMON: the compute die and the ridge are held in reset until PWRGOOD falls. -/
def supplyLost (s : State) : State :=
  if !s.pwr.pwrgood then s else { (ridgeLost s 0xEA 4) with pwr := { s.pwr with dead := true } }

/-! ### The post-mortem record (R537 to R540, Tables 15.13 and 15.14) -/

/-- Bytes of consecutive BAR0 words. -/
def regBytes (s : State) (a n : Nat) : List Byte :=
  (List.range (n / 4)).flatMap (fun k => bytesOf 4 (regGet s (a + 4 * k)).toNat)

def ridgeSection (s : State) : List Byte := fitBytes 0x1000 (regBytes s 0x100000 0x100 ++ regBytes s 0x3C00000 0x100)

/-- The latest 1,024 records, oldest first. -/
def tailSection (s : State) : List Byte :=
  let n := s.saf.seq.toNat
  let k := min n 1024
  fitBytes 0x8000 ((List.range k).flatMap (fun i => bytesOf 32 (tableGet 0 s.saf.gtail ((n - k + i) % 1024)).toNat))

def sparOpCode : SparOp → Nat
  | .waitGe => 0 | .waitEq => 1 | .waitDec => 2 | .signalAdd => 3 | .signalSet => 4 | .arrive => 5 | .arriveW => 6
  | .read => 7 | .other => 8

def waitBytes (t : Truss) (k : Nat) : List Byte :=
  match t.waits.find? (fun w => w.place = k) with
  | none => zeros 16
  | some w => bytesOf 2 w.unit.toNat ++ bytesOf 2 w.index.toNat ++ [BitVec.ofNat 8 (sparOpCode w.op), BitVec.ofNat 8 (b2n w.phase)] ++
      zeros 2 ++ bytesOf 4 w.v.toNat ++ zeros 4

def sparSection (s : State) (t : Nat) : List Byte :=
  let x := trussAt s t
  (List.range 4096).flatMap (fun i =>
    let e := sparEntry x (BitVec.ofNat 12 i)
    bytesOf 4 e.count.toNat ++ bytesOf 4 e.rest.toNat ++
      [BitVec.ofNat 8 (b2n e.phase), BitVec.ofNat 8 (x.waits.filter (fun w => w.index.toNat = i)).length] ++ zeros 6) ++
  (List.range 128).flatMap (waitBytes x)

def agBytes (g : Ag) : List Byte :=
  bytesOf 8 g.base.toNat ++ bytesOf 8 g.limit.toNat ++ g.pairs.flatMap (fun p => bytesOf 8 p.1.toNat) ++
  g.pairs.map (fun p => BitVec.ofNat 8 p.2.toNat) ++ zeros 12

/-- The pool's entries in the order of the queues, each queue's from its head (log 51): queue, position and token. -/
def poolEntries (x : Rafter) : List (Option (Nat × Nat × Token)) :=
  (List.range 16).flatMap (fun q =>
    (List.range (x.depth.getD q 0).toNat).map (fun k => ((queueAt x q).tokens[k]?).map (fun t => (q, k, t))))

def mapBytes (e : Option (Nat × Nat × Token)) : List Byte :=
  match e with
  | none => zeros 2
  | some (q, k, _) => bytesOf 2 (q + 16 * k + 0x8000)

def entryHead (e : Option (Nat × Nat × Token)) : List Byte :=
  match e with
  | none => zeros 72
  | some (_, _, t) => bytesOf 8 t.hdr.toNat ++ fitBytes 64 t.data

def tableBytes (t : Table W32) (n : Nat) : List Byte := (List.range n).flatMap (fun k => bytesOf 4 (tableGet 0 t k).toNat)

def rafterSection (s : State) (n : Nat) : List Byte :=
  let x := rafterOf s n
  let a := 0x1000000 + 0x10000 * n
  let pool := poolEntries x
  fitBytes 0x20000 (regBytes s a 0x400 ++ regBytes s (a + 0x800) 0x800 ++ x.seq.ags.flatMap agBytes ++
    fitBytes 0x400 (pool.flatMap mapBytes) ++ fitBytes 0x9000 (pool.flatMap entryHead) ++
    x.pass.flatMap (fun p => tableBytes p 256) ++ x.acc.flatMap (fun b => tableBytes b.cells 4096))

/-- Block bytes, then EAV_GUARD0, EAV_GUARD1 and EAV_TMC_STAT in the last 12 B of the 4 KiB (log 52). -/
def eaveSection (s : State) (e : Nat) : List Byte :=
  let a := 0x2800000 + 0x40000 * e
  regBytes s (a + 0x12000) 0xFF4 ++ regBytes s (a + 0x11000) 8 ++ regBytes s (a + 0x16000) 4

def connBytes (e : Nat × Conn) : List Byte :=
  bytesOf 2 e.1 ++ bytesOf 4 e.2.tx.toNat ++ bytesOf 4 ((e.2.kept.head?.map (·.psn)).getD e.2.tx).toNat ++ zeros 6

def linkSection (s : State) (l : Nat) : List Byte :=
  fitBytes 0x1000 (regBytes s (0x3000000 + 0x80000 * l) 0x100 ++
    ((portAt s l).conns.filter (fun e => e.2.isOpen)).flatMap connBytes)

def portSection (s : State) : List Byte :=
  fitBytes 0x1000 (regBytes s 0x2C10000 0x100 ++ regBytes s 0x2C20000 0x100 ++ regBytes s 0x200000 0x100)

/-- A section: TYPE, UNIT and contents. -/
structure Section where
  typ : Byte
  unit : UnitId
  bytes : List Byte
deriving DecidableEq, Repr

/-- The sections of part `k`, in the order of R539. -/
def sectionsOf (s : State) (k : Nat) : List Section :=
  (if k = 0 then [Section.mk 1 ridgeUnit (ridgeSection s), Section.mk 2 ridgeUnit (tailSection s)] else []) ++
  ((List.range 16).filter (fun t => t % 8 = k)).map (fun t => Section.mk 3 (trussUnit t) (sparSection s t)) ++
  ((List.range (rafterCount s)).filter (fun n => n % 8 = k)).map (fun n => Section.mk 4 (rafterUnit n) (rafterSection s n)) ++
  (if k = 0 then
    (List.range 8).map (fun e => Section.mk 5 (eaveUnit e) (eaveSection s e)) ++
    (List.range 8).map (fun l => Section.mk 6 (linkUnit l) (linkSection s l)) ++
    [Section.mk 7 hostUnit (portSection s)] else [])

/-- Directory entries from an offset, with the bytes of the part that were written. -/
def directory (cut : Nat) : Nat → List Section → List Byte
  | _, [] => []
  | o, x :: l =>
    [x.typ, 0] ++ bytesOf 2 x.unit.toNat ++ bytesOf 4 (0x1000 + o) ++ bytesOf 4 x.bytes.length ++
    bytesOf 4 (min x.bytes.length (cut - o)) ++ directory cut (o + x.bytes.length) l

/-- A part: header, directory and sections; `cut` is how many bytes of sections were written before the limit. -/
def pmPart (s : State) (r : ResetReq) (k : Nat) (cut : Option W32) : List Byte :=
  let secs := sectionsOf s k
  let body := secs.flatMap (·.bytes)
  let n := match cut with
    | some c => min c.toNat body.length
    | none => body.length
  let flags := b2n (decide (n < body.length)) + 2 * b2n r.lasting + 4 * r.phase.toNat
  let head := bytesOf 4 0x4D503936 ++ bytesOf 2 1 ++ [BitVec.ofNat 8 k, BitVec.ofNat 8 flags] ++
    bytesOf 8 r.trigger.course.toNat ++ bytesOf 4 s.saf.pmCount.toNat ++ [s.crs.resetGen, BitVec.ofNat 8 s.pwr.aclk.toNat] ++
    bytesOf 2 secs.length ++ gutterBytes r.trigger r.seq ++ bytesOf 4 (s.now - r.raised)
  head ++ bytesOf 4 (crc32c (head ++ zeros 196)).toNat ++ zeros 192 ++ fitBytes 0xF00 (directory n 0 secs) ++ body.take n

/-- The record that a capture takes: its number modulo 4, or the next unlocked one. -/
def pmRecord (s : State) : Option Nat :=
  ((List.range 4).map (fun k => (s.saf.pmCount.toNat + k) % 4)).find? (fun r => !s.saf.pmLock.getLsbD r)

/-- Step 3 (R539, R540, R553). -/
def capture (s : State) (r : ResetReq) (cut : Option W32) : State :=
  match (if s.prog.reduced then none else pmRecord s) with
  | none => event s ridgeUnit 0xD8 0 0
  | some k =>
    let s1 := (List.range 8).foldl (fun a st => resvWrite a st (0x8000000 + 0x800000 * k) (pmPart s r st cut)) s
    { s1 with saf := { s1.saf with
      pmCount := s.saf.pmCount + 1, pmLast := BitVec.ofNat 2 k, pmValid := s.saf.pmValid ||| (1#4 <<< k) } }

/-! ### The warm reset (R531 to R534, Tables 15.11 and 15.12) -/

/-- A receiving unit gives up the requests and prepared shards of the step (R394). -/
def clearUnit (u : UpdUnit) : UpdUnit := { u with queue := [], jobs := [], waits := [], resent := [] }

def clearStep (v : Group) : Group :=
  { v with st := 0, agw := false, flags := [], reduceAt := none, result := none, timedOut := false, prep := [] }

/-- Shards that an abandoned step makes suspect: every shard of a group of depth 1 whose ring entry stage 7 has rewritten,
and those that were delivered (R395, R396). -/
def abandonedShards (s : State) (g : BitVec 8) : List (BitVec 20) :=
  let v := groupAt s g
  let own := if v.depth = 0 ∧ v.prep ≠ [] then groupShards s g else []
  own ++ (deliveredShards s g).filter (fun q => !own.contains q)

/-- The course's learning work is abandoned and the step is skipped (R73, R394, R466). -/
def abandonLearning (s : State) : State :=
  let s1 := (usedGroups s).foldl (fun a g => markSuspects a (abandonedShards a g)) s
  let s2 := { s1 with
    upd := { s1.upd with units := s1.upd.units.map clearUnit, groups := s1.upd.groups.map (fun e => (e.1, clearStep e.2)) }
    crs := { s1.crs with stepSkip := true } }
  abortCourse s2 (BitVec.ofNat 32 s2.crs.course.toNat)

/-- Reload: every rafter's configuration is rewritten, and the rafters stand in the state of R124. -/
def reloadRafters (s : State) : State :=
  (positions s).foldl (fun a p =>
    let x := rafterAt a p
    let img := s.prog.img.bind (fun i => i.rafters.find? (fun r => r.rafter = logicalOf s p))
    let y := match img with
      | some r => configure r x
      | none => unconfigured x
    setRafter a p { y with prefetch := [] }) s

/-- A write-back of TMMV that is cut short: its first rows stand, how many is a free value; the others hold their earlier
values (R287). -/
def cutShort (p : Nat) (s : State) (e : InFlight) : State :=
  if e.old.isEmpty then s
  else
    let d := drawFree s
    let rows := d.1.toNat % 65
    let back := e.old.filter (fun w => decide (rows ≤ w.1 / 64 % 64))
    setRafter d.2 p { rafterAt d.2 p with
      valley := back.foldl (fun m w => tablePut 0 m w.1 w.2) (rafterAt d.2 p).valley }

/-- The instructions of every rafter that execute when the reset begins are abandoned. -/
def cutWork (s : State) : State :=
  (positions s).foldl (fun a p => (unitQ (rafterAt a p) 2).foldl (cutShort p) a) s

/-- Every pending guard wait of a receiving unit is abandoned with its request, which writes no ring entry; the request's
group is skipped (R365, log 115). -/
def abandonWaits (s : State) (k : Nat) : State :=
  let s1 := updUu (endWaitsOf s k) k (fun u => { u with waits := [], resent := [] })
  let u := uuAt s1 k
  let lost := fun (r : UpdReq) => !guardDone s1 k r
  let s2 := updUu s1 k (fun v => { v with
    queue := v.queue.filter (fun r => !lost r), jobs := v.jobs.filter (fun j => !lost j.req) })
  ((u.queue ++ u.jobs.map (·.req)).filter lost).foldl (fun a r => updGroup a r.group (fun g => { g with st := 3 })) s2

/-- Steps 4 to 6. -/
def resetDie (s : State) : State :=
  let s1 := reloadRafters (cutWork s)
  let s2 := tierReset { s1 with trs := s1.trs.map resetTruss, sparInbox := [], reads := [], acks := [] }
  restoreGroups ((List.range 16).foldl abandonWaits s2)

/-- A warm reset restarts staging in progress (R500). -/
def restartStaging (s : State) : State :=
  (List.range 16).foldl (fun a p =>
    match pubImg a p with
    | some i => if (pubAt a p).staging then setPub a p { pubAt a p with left := pubShards a i } else a
    | none => a) s

/-- The next decision point (R532, R524, R70, R71, R73): first what is abandoned, then where execution resumes. -/
def beforeReset (s : State) (r : ResetReq) : State :=
  if r.phase = 2 ∨ (r.phase = 1 ∧ r.lasting) then abandonLearning s
  else if r.phase = 3 ∧ r.lasting ∧ s.crs.stepped = none then abandonLearning s
  else s

def afterReset (s : State) (r : ResetReq) : State :=
  if r.phase = 1 ∧ !r.lasting then
    let s1 := { s with crs := { s.crs with phase := 1, rerun := true, reranFlag := true } }
    checkDecision (freshRafters s1 (fun x => holdsFor s1 x true))
  else if r.phase = 3 then
    freshRafters { s with crs := { s.crs with
      phase := 3, slotDone := false, waitNext := true
      abandoned := s.crs.abandoned || (r.lasting && s.crs.stepped.isNone) } } (fun _ => true)
  else
    let s1 := { s with crs := { s.crs with phase := if s.crs.closed then 3 else 2, abandoned := true, waitNext := true } }
    let s2 := freshRafters s1 (fun _ => true)
    if r.phase = 1 then releaseOnce s2 releaseDecisionHold else s2

/-- The duration is recorded (SAF_RESET_TIME). -/
def noteReset (s : State) (r : ResetReq) : State :=
  let d : W16 := BitVec.ofNat 16 (min 0xFFFF (s.now - r.raised))
  { s with saf := { s.saf with timeLast := d, timeMax := if s.saf.timeMax < d then d else s.saf.timeMax } }

/-- WARM_RESET: steps 2 to 7, of which `ticks` pass after the quiesce step. -/
def warmReset (s : State) (ticks : W16) (cut : Option W32) : State :=
  match s.saf.resetReq with
  | none => s
  | some r =>
    if !s.crs.running || s.saf.hwSafe then s
    else
      let s1 := { s with crs := { s.crs with resetGen := s.crs.resetGen + 1 } }
      let s2 := beforeReset (capture s1 r cut) r
      let s3 := elapse (restartStaging (resetDie s2)) ticks.toNat
      let s4 := { s3 with saf := { s3.saf with resetReq := none, hold := !s3.saf.inForce.isEmpty }
                          cnt := { s3.cnt with hadReset := true } }
      releaseWaiting (noteReset (afterReset s4 r) r)

/-! ### Meanings -/

/-- A gutter record is written (R523). -/
def execGutterRecordWrite (s : State) : Out State := .next (gutterWrite s)
/-- A warm reset runs (R531). -/
def execWarmReset (ticks : W16) (cut : Option W32) (s : State) : Out State := .next (warmReset s ticks cut)
/-- A unit's self-test (R517). -/
def execSelfTestBurst (u : UnitId) (r : SelfTest) (s : State) : Out State := .next (selfTestBurst s u r)
/-- A scrubber reads a word (R516). -/
def execScrub (m : ScrubMem) (u : UnitId) (addr : BitVec 36) (ecc : EccResult) (s : State) : Out State :=
  .next (scrub s m u addr ecc)
/-- The ridge hardware watchdog expires (R530). -/
def execWatchdogExpiry (s : State) : Out State := .next (ridgeLost s 0xE8 1)
/-- A lockstep comparison fails (R527). -/
def execLockstepMismatch (s : State) : Out State := .next (ridgeLost s 0xE8 1)
/-- A clock leaves ±0.5 % or stops (R544). -/
def execClockMonitorFault (_clock : BitVec 3) (s : State) : Out State := .next (ridgeLost s 0xE9 2)
/-- A rail leaves its trip limit (R602). -/
def execSupplyMonitorFault (_rail : BitVec 4) (s : State) : Out State := .next (supplyLost s)

end Sys2Proof.Machine
end

