-- ==== Sys2Proof/Machine/Power.lean ====
section
/-!
DEFINITION. Power (chapters 15, 16 and 18): bring-up and secure boot, stage Full, power loss and PERST_N, power states, the
governor, and the stacks' temperatures.
-/

namespace Sys2Proof.Machine

/-! ### The state at power-up (R435, R543, R546, R564) -/

/-- Fuses after the loss of power: a burn cut short leaves a value between the old one and VALUE, a free value. -/
def fusesAfterLoss (s : State) : Fuses :=
  match s.sec.burn with
  | none => s.sec.fuses
  | some (k, v) =>
    let old := ctrValue s k
    { s.sec.fuses with ctrs := s.sec.fuses.ctrs.set k (old + (Config.freeValue s.free).toNat % (v - old + 1)) }

/-- The whole device as at power-up. Kept: the part's grade, enabled positions and fuses, host memory, the levels of the
pins, and what has already left the device. A new debug challenge is drawn (R570). -/
def atPowerUp (s : State) (good boot : Bool) : State :=
  let r := State.reset
  { r with
    grade := s.grade, enabled := s.enabled, now := s.now, free := s.free + 1, pending := s.pending
    pwr := { r.pwr with pwrgood := good, boot := boot }
    sec := { r.sec with fuses := fusesAfterLoss s, draws := s.sec.draws + 1, spdm := s.sec.spdm }
    hst := { r.hst with mem := s.hst.mem, barSize := s.hst.barSize, msixSent := s.hst.msixSent, reads := s.hst.reads
                        cfgReplies := s.hst.cfgReplies }
    lnk := { r.lnk with out := s.lnk.out }
    pkg := { r.pkg with perst := s.pkg.perst, hostRate := s.pkg.hostRate, hostWidth := s.pkg.hostWidth
                        smbAddr := s.pkg.smbAddr, smb := s.pkg.smb, scan := s.pkg.scan, tdo := s.pkg.tdo } }

/-- POWER_LOSS: FSAFE_N low, every TLP whole, no work; nothing of the device's memory survives (R543). -/
def powerLoss (s : State) : State := if s.pwr.pwrgood then atPowerUp s false false else s

/-! ### PERST_N (R546, R591) -/

/-- The host link trains while PERST_N is high. -/
def trainHost (s : State) : State :=
  if s.pkg.perst then { s with hst := { s.hst with up := true, rate := s.pkg.hostRate, width := s.pkg.hostWidth } } else s

/-- A falling edge resets the whole device, and bring-up is due again from step 1. A ridge that the supply monitors hold
in reset stays there (R602). -/
def perstAssert (s : State) : State :=
  if !s.pkg.perst then s
  else
    let s1 := { s with pkg := { s.pkg with perst := false } }
    if !s.pwr.pwrgood then s1
    else if s.pwr.dead then { s1 with hst := { s1.hst with up := false, rate := 0, width := 0 } }
    else atPowerUp s1 true true

def perstDeassert (s : State) (rate width : BitVec 2) : State :=
  let s1 := { s with pkg := { s.pkg with perst := true, hostRate := rate, hostWidth := width } }
  if s.pwr.pwrgood && !s.pkg.perst then trainHost s1 else s1

/-! ### Secure boot (R563) -/

/-- The key of a firmware slot is that of a Skelver root not revoked. -/
def rootKey (s : State) (h : Header) : Bool :=
  (List.range 2).any (fun r => !s.sec.fuses.roots.getLsbD r && Config.sha3 h.pubkey == Config.rootDigest r)

def fwAccepted (s : State) (f : Flash) : Bool :=
  let h := headerOf f.header
  h.magic == 0x534B5631 && Config.sha3 f.body == h.bodyDig && signatureOk h && rootKey s h && h.kind == 1 &&
  decide (ctrValue s 0 ≤ h.svn)

def runFirmware (s : State) (slot : Bool) (f : Flash) : State :=
  let h := headerOf f.header
  { s with sec := { s.sec with fwSlot := slot, fwSvn := BitVec.ofNat 8 h.svn, fwDig := h.bodyDig } }

/-- The directory's bytes before its CRC. -/
def dirBytes (d : FlashDir) : List Byte :=
  [d.magic, d.slotA, d.slotB, d.rsOff, d.rsLen, d.flags].flatMap (fun w => bytesOf 4 w.toNat)

/-- The directory reads as Table 16.5 lays it out. -/
def dirValid (d : FlashDir) : Bool :=
  d.magic == 0x534B4644 && crc32c (dirBytes d) == d.crc && d.slotA.toNat % 4096 == 0 && d.slotB.toNat % 4096 == 0

/-- The directory names an image to start by itself (R554). -/
def dirAutostart (d : FlashDir) : Bool := d.rsOff != 0 && decide (d.rsLen.toNat ≤ 2 ^ 24) && d.flags.getLsbD 0

/-- Neither slot is accepted: the device stays in stage ROM, with the flash signals released. -/
def stayInRom (s : State) : State := { s with sec := { s.sec with flashRel := true } }

/-- The slot with the higher SVN first, then the other, with FWFALL. The second component: firmware runs. -/
def bootSlots (s : State) (a b : Flash) : State × Bool :=
  let bFirst := decide ((headerOf a.header).svn < (headerOf b.header).svn)
  let one := if bFirst then b else a
  let two := if bFirst then a else b
  if fwAccepted s one then (runFirmware s bFirst one, true)
  else
    let s1 := event s ridgeUnit 0xF6 0 0
    if fwAccepted s1 two then (runFirmware s1 (!bFirst) two, true)
    else (stayInRom s1, false)

/-- The boot ROM; a directory that does not read leads to no slot (log 116). -/
def bootRom (s : State) (d : FlashDir) (a b : Flash) : State × Bool :=
  if dirValid d then bootSlots s a b else (stayInRom s, false)

/-! ### Bring-up (R545 to R549, R554) -/

/-- The autostart image: checked, installed and started as by PROG.START with course 0 (R554). -/
def autostart (s : State) (f : FlashImage) : State :=
  let h := headerOf f.bytes.header
  let j : LoadJob := { tag := 0, addr := 0, len := 0x2000 + f.bytes.body.length, reduced := true }
  let pre := preReject s j h f.bytes.body
  let reads := readsFor s h pre f.img
  let v := verdictOf reads.1 h pre f.img reads.2
  let s1 := reportStatus (rejectEvent (takeProgram reads.1 v.prog) pre) v h.image f.time.toNat
  if v.prog.isSome && settingsOk s1 s1.crs.minPeriod then
    let b := firstBoundary s1 0
    startAt s1 b.1 b.2
  else s1

/-- Steps 3 and 4: the compute die at 0.625 GHz, its memories clear and the outcome of their self-test, and stage Reduced. -/
def reachReduced (s : State) (tested : Bool) (ms : W16) : State :=
  { (clearDie s) with
    saf := { (clearDie s).saf with untested := !tested }
    now := s.now + ms.toNat * 100000
    pwr := { s.pwr with stage := 1, aclk := 3, floor := 3, bootReduced := ms, lastUse := s.now + ms.toNat * 100000 } }

/-- PWRGOOD_RISE: steps 1 to 4 of Table 16.1; also the bring-up that a falling PERST_N restarts. -/
def pwrgoodRise (s : State) (railsOk tested : Bool) (f : FlashArea) (auto : Option FlashImage) (ms : W16) : State :=
  if s.pwr.pwrgood && !s.pwr.boot then s
  else
    let s1 := trainHost { s with pwr := { s.pwr with pwrgood := true, boot := false } }
    if !railsOk then supplyLost s1
    else
      let r := bootRom s1 f.dir f.slotA f.slotB
      if !r.2 then r.1
      else
        let s2 := reachReduced r.1 tested ms
        match auto with
        | some i => if tested && dirAutostart f.dir then autostart s2 i else s2
        | none => s2

/-- A CXL port after enumeration: present with at least 256 MiB, of which at most 2 TiB are used (R424, R426, R590). -/
def enumerate (s : State) (c : Nat) (found : Option CxlFound) : State :=
  updCxl s c (fun p =>
    match found with
    | some f =>
      if 1 ≤ f.units then { p with perst := true, isPresent := true, serve := true, up := true, rate := f.rate, width := f.width
                                   units := BitVec.ofNat 18 (16 * min f.units 8192) }
      else { p with perst := true }
    | none => { p with perst := true })

/-- MTEST for every stack that failed (R549). -/
def memoryFailed (s : State) (pass : Byte) : State :=
  ((List.range 8).filter (fun k => !pass.getLsbD k)).foldl
    (fun a k => lastingResponse a ridgeUnit 0xF2 0 (BitVec.ofNat 32 k) 0) s

/-- STAGE_FULL_ENTRY: steps 5 to 7. The memory self-test leaves every stack as unlisted memory reads, with the tier map
UNMAPPED; while a program runs, the stage changes in step 3 of the next boundary sequence. -/
def stageFull (s : State) (pass : Byte) (c0 c1 : Option CxlFound) (ms : W16) : State :=
  if s.pwr.stage != 1 || s.saf.hwSafe || s.pwr.fullDue.isSome || s.pwr.mtFail != 0 then s
  else
    let s1 := { s with
      pwr := { s.pwr with mtPass := pass, mtFail := ~~~pass, mtPct := 100 }
      eav := s.eav.map (fun e => { e with hbm := [], tmc := [] }) }
    let s2 := enumerate (enumerate s1 0 c0) 1 c1
    if pass != 0xFF then memoryFailed s2 pass
    else if s2.crs.running then { s2 with pwr := { s2.pwr with fullDue := some ms } }
    else enterFull s2 ms

/-! ### Power states (R556 to R558) -/

/-- POWER_STATE_ENTRY: 1 ms after the last use, while no program runs. -/
def enterState (s : State) : State :=
  if s.pwr.stage == 0 || s.saf.hwSafe || s.crs.running || s.crs.starting || s.pwr.st != 0 ||
      decide (s.now < s.pwr.lastUse + 100000) then s
  else { s with pwr := { s.pwr with st := deepest (tolerance s) } }

def wakeUp (s : State) : State := if s.pwr.st = 0 then s else wake s

def enterD3 (s : State) : State := if hostUp s then { s with hst := { s.hst with d3hot := true } } else s

/-! ### The governor (R559, R560, R562) -/

/-- The greatest number of skipped pulses that keeps the effective frequency at the floor. -/
def maxSkip (s : State) : Nat :=
  ((List.range 16).filter (fun k => decide (16 * aclkMHz s.pwr.floor ≤ (16 - k) * aclkMHz s.pwr.aclk))).foldl max 0

/-- The readings of a sample: the highest one, its record over the course and since the last read, THERM_N and, from
105 °C, THERM. -/
def takeTemps (s : State) (g : GovSample) : State :=
  let s1 := { s with pwr := { s.pwr with temps := g.temps, tempValid := g.valid } }
  let h := (hottest s1).2
  let p := s1.pwr
  let low := decide (100 ≤ h.toInt) || (p.thermLow && decide (95 ≤ h.toInt))
  let s2 := { s1 with
    pwr := { p with
      tempHigh := if p.tempHigh.toInt < h.toInt then h else p.tempHigh
      courseHigh := if p.courseHigh.toInt < h.toInt then h else p.courseHigh
      thermLow := low }
    pkg := { s1.pkg with alertLow := s1.pkg.alertLow || low } }
  if 105 ≤ h.toInt ∧ !s2.saf.inForce.contains (ridgeUnit, 0xEB) then
    lastingResponse { s2 with saf := { s2.saf with fault := s2.saf.fault ||| 8 } } ridgeUnit 0xEB 0 0 0
  else s2

/-- A sample calls for more skipped pulses. -/
def overPower (s : State) (g : GovSample) : Bool := decide (s.pwr.limit.toNat < g.proj10.toNat) || decide (780 < g.proj1.toNat)

/-- How far the governor raises k is not stated: a free value above the present k and at most the bound (log 53). -/
def raisedSkip (s : State) (bound : Nat) : State × Nat :=
  let k := s.pwr.skip.toNat
  let d := drawFree s
  if k < bound then (d.2, k + 1 + d.1.toNat % (bound - k)) else (s, k)

/-- The new number of skipped pulses, with PWRCAP when it goes below the floor. -/
def setSkip (s : State) (k : Nat) : State :=
  let cap := decide (maxSkip s < k)
  let s1 := { s with pwr := { s.pwr with skip := BitVec.ofNat 4 k, capped := cap, skipAt := if k = s.pwr.skip.toNat then s.pwr.skipAt else s.now } }
  if cap && !s.pwr.capped then
    event { s1 with pwr := { s1.pwr with caps := satInc16 s1.pwr.caps } } ridgeUnit 0xF0 0 0
  else s1

/-- Pulse skipping: raised by a sample over a limit, below the floor only where R44 would fail there; at 105 °C as far as
the floor allows; lowered one step per 100 µs while the projection stays 30 W below the limit. -/
def skipStep (s : State) (g : GovSample) : State :=
  let k := s.pwr.skip.toNat
  let m := maxSkip s
  let hot := decide (105 ≤ ((hottest s).2).toInt)
  if overPower s g then
    let r := raisedSkip s (if g.failsAtFloor then 15 else m)
    setSkip r.1 (if hot then max m r.2 else r.2)
  else if hot then setSkip s m
  else if g.proj10.toNat + 30 ≤ s.pwr.limit.toNat then
    (if 0 < k ∧ s.pwr.skipAt + 10000 ≤ s.now then setSkip s (k - 1) else s)
  else { s with pwr := { s.pwr with skipAt := s.now } }

/-- What the step at the next boundary looks at (R561). -/
def noteSample (s : State) (g : GovSample) : State :=
  let p := s.pwr
  let calm := p.skip == 0 && decide (((hottest s).2).toInt < 90) && decide (g.avg.toNat + 30 ≤ p.limit.toNat)
  { s with pwr := { p with
    samples := p.samples + 1, skipSamples := p.skipSamples + b2n (p.skip != 0)
    quietSince := if calm then some (p.quietSince.getD s.now) else none } }

/-- GOVERNOR_SAMPLE. -/
def governorSample (s : State) (g : GovSample) : State :=
  if !s.pwr.pwrgood then s
  else
    let s1 := { s with pwr := { s.pwr with avg := g.avg, peak := if s.pwr.peak < g.ms1 then g.ms1 else s.pwr.peak } }
    noteSample (skipStep (takeTemps s1 g) g) g

/-- STACK_TEMPERATURE_REPORT: above 85 °C the stack's refresh rate is doubled (R604). -/
def stackTemp (s : State) (k : BitVec 3) (t : Byte) : State :=
  if !s.pwr.pwrgood then s
  else updEave { s with pwr := { s.pwr with stackTemps := s.pwr.stackTemps.set k.toNat t } } k.toNat
    (fun e => { e with fastRefresh := decide (85 < t.toInt) })

/-! ### Meanings -/

/-- PWRGOOD rises (R545). -/
def execPwrgoodRise (railsOk tested : Bool) (flash : FlashArea) (auto : Option FlashImage) (ms : W16) (s : State) :
    Out State := .next (pwrgoodRise s railsOk tested flash auto ms)
/-- The memory self-test ends (R548, R549). -/
def execStageFullEntry (pass : Byte) (c0 c1 : Option CxlFound) (ms : W16) (s : State) : Out State :=
  .next (stageFull s pass c0 c1 ms)
/-- PWRGOOD falls (R543). -/
def execPowerLoss (s : State) : Out State := .next (powerLoss s)
/-- PERST_N falls (R546, R591). -/
def execPerstNAssert (s : State) : Out State := .next (perstAssert s)
/-- PERST_N rises (R546). -/
def execPerstNDeassert (rate width : BitVec 2) (s : State) : Out State := .next (perstDeassert s rate width)
/-- A power state is entered (R557). -/
def execPowerStateEntry (s : State) : Out State := .next (enterState s)
/-- The device wakes (R557). -/
def execPowerStateWake (s : State) : Out State := .next (wakeUp s)
/-- The function enters D3hot (R558). -/
def execD3hotEntry (s : State) : Out State := .next (enterD3 s)
/-- A sample of the governor (R559 to R562). -/
def execGovernorSample (g : GovSample) (s : State) : Out State := .next (governorSample s g)
/-- A stack reports its temperature (R604). -/
def execStackTemperatureReport (stack : BitVec 3) (temp : Byte) (s : State) : Out State := .next (stackTemp s stack temp)

end Sys2Proof.Machine
end

