-- ==== Sys2Proof/Machine/Security.lean ====
section
/-!
DEFINITION. Identity, attestation, debug and the responder (R504, R564, R568 to R570, Table 16.8), board management and
JTAG (R593 to R595, Table 18.5).
-/

namespace Sys2Proof.Machine

/-! ### Anti-rollback (R564) -/

/-- FUSE_BURN_COMPLETE: the counter has its new value. -/
def burnComplete (s : State) : State :=
  if s.saf.hwSafe then s
  else match s.sec.burn with
    | none => s
    | some (k, v) =>
      event { s with sec := { s.sec with burn := none, fuses := { s.sec.fuses with ctrs := s.sec.fuses.ctrs.set k v } } }
        ridgeUnit 0xF4 (BitVec.ofNat 32 k) (BitVec.ofNat 32 v)

/-! ### Attestation (R568, R569) -/

def digestBytes64 (d : BitVec 512) : List Byte := bytesOf 64 d.toNat

def identityBytes : List Byte := (List.range 2592).map Config.identityKey

def fuseDigest (s : State) : BitVec 512 :=
  let f := s.sec.fuses
  Config.sha3 (Config.fuseArray f.ctrs f.owned f.revoked f.roots f.hashes)

def attState (s : State) : Nat :=
  b2n (s.sec.fuses.owned != 0) + 2 * b2n s.sec.debug + 4 * s.pwr.stage.toNat + 16 * b2n s.prog.loaded + 32 * b2n s.crs.running +
  64 * b2n s.prog.sclass + 128 * b2n s.prog.reduced

/-- Bytes 0x000 to 0x1FF of the report. -/
def reportHead (s : State) : List Byte :=
  let p := s.prog
  let f := s.sec.fuses
  bytesOf 4 0x534B4154 ++ bytesOf 2 1 ++ zeros 2 ++ bytesOf 4 (deviceId s) ++ bytesOf 4 (attState s) ++
  s.sec.nonce.flatMap (fun w => bytesOf 4 w.toNat) ++ digestBytes64 s.sec.fwDig ++ bytesOf 4 s.sec.fwSvn.toNat ++ zeros 4 ++
  bytesOf 8 p.imageId.toNat ++ digestBytes64 p.dig ++ [p.ctr] ++ zeros 3 ++ bytesOf 4 p.svn.toNat ++
  f.ctrs.map (BitVec.ofNat 8) ++ bytesOf 4 (f.owned.toNat + 16 * f.revoked.toNat) ++ zeros 4 ++
  digestBytes64 (fuseDigest s) ++ digestBytes64 (Config.sha3 identityBytes) ++
  bytesOf 8 (if s.prog.loaded then s.crs.course.toNat else 0) ++ zeros 104

/-- A signature by the identity key over the SHA3-512 digest of a text. -/
def identitySign (bs : List Byte) : List Byte := fitBytes 4627 (Config.deviceSign (digestBytes64 (Config.sha3 bs)))

/-- ATTESTATION_REPORT_DONE. -/
def attestDone (s : State) : State :=
  if !s.sec.attGo || s.saf.hwSafe then s
  else
    let h := reportHead s
    { s with sec := { s.sec with attGo := false, attDone := true, report := h ++ identitySign h } }

/-! ### Debug (R570) -/

/-- The key may open debug: an owner key, or a root key while no owner slot is programmed. -/
def debugKey (s : State) (hash : BitVec 512) : Bool :=
  if s.sec.fuses.owned = 0 then
    (List.range 2).any (fun r => !s.sec.fuses.roots.getLsbD r && hash == Config.rootDigest r)
  else (List.range 4).any (fun k => s.sec.fuses.owned.getLsbD k && !s.sec.fuses.revoked.getLsbD k &&
    s.sec.fuses.hashes.getD k 0 == hash)

def debugAccepted (s : State) : Bool :=
  let hash := Config.sha3 (memRead s.sec.dbgResp 0 2592)
  debugKey s hash &&
  Config.mldsaVerify hash (digestBytes64 (Config.sha3 (bytesOf 32 (challenge s).toNat))) (memRead s.sec.dbgResp 0xA20 4627)

/-- DEBUG_RESPONSE_CHECK: a new challenge is drawn after each attempt. -/
def debugCheck (s : State) : State :=
  if !s.sec.dbgGo || s.saf.hwSafe then s
  else
    let s1 := { s with sec := { s.sec with dbgGo := false, draws := s.sec.draws + 1 } }
    if debugAccepted s then
      event { s1 with sec := { s1.sec with debug := true, dbgFail := false } } ridgeUnit 0xF5 0 0
    else { s1 with sec := { s1.sec with dbgFail := true } }

/-! ### The SPDM responder (R504, R568, R569) -/

/-- Measurements 1 to 4: FWDIG, IMGDIG, FUSEDIG and DEVID, signed as the report is. -/
def measurements (s : State) : List Byte :=
  let m := digestBytes64 s.sec.fwDig ++ digestBytes64 s.prog.dig ++ digestBytes64 (fuseDigest s) ++ bytesOf 4 (deviceId s)
  m ++ identitySign m

/-- SPDM_MESSAGE, over DOE once configuration requests are answered. -/
def spdmMessage (s : State) (q : SpdmReq) : State :=
  if !hostUp s || s.pwr.stage == 0 || s.saf.hwSafe then s
  else match q with
    | .getMeasurements => { s with sec := { s.sec with spdm := measurements s :: s.sec.spdm } }
    | .getCertificate => { s with sec := { s.sec with spdm := Config.certificate :: s.sec.spdm } }
    | .ideKeyProg ok => if ok then { s with hst := { s.hst with ide := true } } else s

/-! ### Board management (R594, R595) -/

/-- The SMBus target answers from the end of step 1 of bring-up. -/
def smbUp (s : State) : Bool := s.pwr.pwrgood && !s.pwr.boot && !s.pwr.dead

/-- A Block Read: its bytes; nothing is cleared by it. -/
def smbRead (s : State) (bs : List Byte) : State :=
  if smbUp s then { s with pkg := { s.pkg with smb := bs :: s.pkg.smb } } else s

def smbAddress (s : State) : Nat := 0x58 + s.pkg.smbAddr.toNat

/-- SMB_ALERT_RESPONSE: a device that drives SMB_ALERT_N low answers, and lets go when no cause is left. -/
def smbAlert (s : State) : State :=
  if !s.pkg.alertLow then s
  else
    let s1 := smbRead s [BitVec.ofNat 8 (smbAddress s)]
    if smbUp s && !s.pwr.thermLow && s.saf.inForce.isEmpty then { s1 with pkg := { s1.pkg with alertLow := false } } else s1

/-! ### JTAG (R570, R593) -/

/-- What the pins show to the boundary-scan cells: a free value for each of the 286 signal balls (log 54). -/
def capturePins (s : State) : State × List Bool :=
  ({ s with free := s.free + 286 }, (List.range 286).map (fun k => (Config.freeValue (s.free + k)).getLsbD 0))

/-- JTAG_BOUNDARY_SCAN, while no program runs. -/
def boundaryScan (s : State) (op : JtagOp) : State :=
  if s.crs.running then s
  else match op with
    | .bypass => { s with pkg := { s.pkg with tdo := [false], extest := false } }
    | .sample =>
      let c := capturePins s
      { c.1 with pkg := { c.1.pkg with tdo := c.2, extest := false } }
    | .preload bits => { s with pkg := { s.pkg with scan := bits, extest := false } }
    | .extest =>
      let c := capturePins s
      { c.1 with pkg := { c.1.pkg with tdo := c.2, extest := true } }

/-! ### Meanings -/

/-- A counter burn ends (R564). -/
def execFuseBurnComplete (s : State) : Out State := .next (burnComplete s)
/-- The attestation report is written (R569). -/
def execAttestationReportDone (s : State) : Out State := .next (attestDone s)
/-- The debug response is checked (R570). -/
def execDebugResponseCheck (s : State) : Out State := .next (debugCheck s)
/-- An SPDM or IDE_KM message (R504, R569). -/
def execSpdmMessage (q : SpdmReq) (s : State) : Out State := .next (spdmMessage s q)
/-- SMBus command 0x01 (Table 18.5). -/
def execSmbDeviceId (s : State) : Out State := .next (smbRead s (bytesOf 4 (deviceId s)))
/-- SMBus command 0x02 (Table 18.5). -/
def execSmbPwrStatus (s : State) : Out State := .next (smbRead s (bytesOf 4 (pwrStatus s)))
/-- SMBus command 0x03 (Table 18.5). -/
def execSmbSafStatus (s : State) : Out State := .next (smbRead s (bytesOf 4 (safStatus s)))
/-- SMBus command 0x04 (Table 18.5). -/
def execSmbPwrTemp (s : State) : Out State := .next (smbRead s (bytesOf 4 (pwrTemp s)))
/-- SMBus command 0x05 (Table 18.5). -/
def execSmbPwrPower (s : State) : Out State := .next (smbRead s (bytesOf 4 (pwrPower s)))
/-- SMBus command 0x06 (Table 18.5). -/
def execSmbStackTemperatures (s : State) : Out State := .next (smbRead s s.pwr.stackTemps)
/-- An Alert Response Address read (R595). -/
def execSmbAlertResponse (s : State) : Out State := .next (smbAlert s)
/-- A boundary-scan operation (R593). -/
def execJtagBoundaryScan (op : JtagOp) (s : State) : Out State := .next (boundaryScan s op)

end Sys2Proof.Machine
end

