-- ==== Sys2Proof/Machine/Dispatch.lean ====
section
/-!
DEFINITION. One arm for each command: one direct call of its meaning.
-/

namespace Sys2Proof.Machine

def exec (i : Instr) (s : State) : Host.Outcome State Fault Refusal :=
  match i with
  | .nop r f => Sys2Proof.Machine.execNop r f s
  | .loop r f o => Sys2Proof.Machine.execLoop r f o s
  | .br r f cond target => Sys2Proof.Machine.execBr r f cond target s
  | .slot r f => Sys2Proof.Machine.execSlot r f s
  | .slotSwitch r => Sys2Proof.Machine.execSlotSwitch r s
  | .streamEngineHipSend r => Sys2Proof.Machine.execStreamEngineHipSend r s
  | .hip r f oqmask => Sys2Proof.Machine.execHip r f oqmask s
  | .halt r f code => Sys2Proof.Machine.execHalt r f code s
  | .agSet r f o => Sys2Proof.Machine.execAgSet r f o s
  | .agStr r f o => Sys2Proof.Machine.execAgStr r f o s
  | .setSh r f o hw => Sys2Proof.Machine.execSetSh r f o hw s
  | .waitGe r f spar v => Sys2Proof.Machine.execWaitGe r f spar v s
  | .waitEq r f spar v => Sys2Proof.Machine.execWaitEq r f spar v s
  | .waitDec r f spar v => Sys2Proof.Machine.execWaitDec r f spar v s
  | .signalAdd r f spar v => Sys2Proof.Machine.execSignalAdd r f spar v s
  | .signalSet r f spar v => Sys2Proof.Machine.execSignalSet r f spar v s
  | .arrive r f spar t => Sys2Proof.Machine.execArrive r f spar t s
  | .arriveW r f spar t => Sys2Proof.Machine.execArriveW r f spar t s
  | .pollGe r f o => Sys2Proof.Machine.execPollGe r f o s
  | .pollEq r f o => Sys2Proof.Machine.execPollEq r f o s
  | .steerSelect r f o => Sys2Proof.Machine.execSteerSelect r f o s
  | .steerRoute r f o => Sys2Proof.Machine.execSteerRoute r f o s
  | .join r f o => Sys2Proof.Machine.execJoin r f o s
  | .fork r f o => Sys2Proof.Machine.execFork r f o s
  | .steeringStep r stu => Sys2Proof.Machine.execSteeringStep r stu s
  | .drain r f o => Sys2Proof.Machine.execDrain r f o s
  | .load r f o hw => Sys2Proof.Machine.execLoad r f o hw s
  | .store r f o hw => Sys2Proof.Machine.execStore r f o hw s
  | .xload r f o hw => Sys2Proof.Machine.execXload r f o hw s
  | .gather r f o hw => Sys2Proof.Machine.execGather r f o hw s
  | .scatter r f o hw => Sys2Proof.Machine.execScatter r f o hw s
  | .scatterAdd r f o hw => Sys2Proof.Machine.execScatterAdd r f o hw s
  | .prefetch r f sag next => Sys2Proof.Machine.execPrefetch r f sag next s
  | .prefetchForward r => Sys2Proof.Machine.execPrefetchForward r s
  | .upd r f o hw => Sys2Proof.Machine.execUpd r f o hw s
  | .collRs r f o hw => Sys2Proof.Machine.execCollRs r f o hw s
  | .collAg r f o hw => Sys2Proof.Machine.execCollAg r f o hw s
  | .collAr r f o hw => Sys2Proof.Machine.execCollAr r f o hw s
  | .collFr r f o => Sys2Proof.Machine.execCollFr r f o s
  | .crsEnd r f => Sys2Proof.Machine.execCrsEnd r f s
  | .crsEndD r f => Sys2Proof.Machine.execCrsEndD r f s
  | .instructionComplete r u => Sys2Proof.Machine.execInstructionComplete r u s
  | .tld r f o hw => Sys2Proof.Machine.execTld r f o hw s
  | .tmm r f o hw => Sys2Proof.Machine.execTmm r f o hw s
  | .tmma r f o hw => Sys2Proof.Machine.execTmma r f o hw s
  | .tmmv r f o hw => Sys2Proof.Machine.execTmmv r f o hw s
  | .tchk r f buf hw => Sys2Proof.Machine.execTchk r f buf hw s
  | .accumulatorScrub r buf => Sys2Proof.Machine.execAccumulatorScrub r buf s
  | .vAdd r f o hw => Sys2Proof.Machine.execVAdd r f o hw s
  | .vSub r f o hw => Sys2Proof.Machine.execVSub r f o hw s
  | .vMul r f o hw => Sys2Proof.Machine.execVMul r f o hw s
  | .vMin r f o hw => Sys2Proof.Machine.execVMin r f o hw s
  | .vMax r f o hw => Sys2Proof.Machine.execVMax r f o hw s
  | .vFma r f o hw => Sys2Proof.Machine.execVFma r f o hw s
  | .vAbs r f o hw => Sys2Proof.Machine.execVAbs r f o hw s
  | .vNeg r f o hw => Sys2Proof.Machine.execVNeg r f o hw s
  | .vCvt r f o hw => Sys2Proof.Machine.execVCvt r f o hw s
  | .vCmpLt r f o hw => Sys2Proof.Machine.execVCmpLt r f o hw s
  | .vCmpLe r f o hw => Sys2Proof.Machine.execVCmpLe r f o hw s
  | .vCmpEq r f o hw => Sys2Proof.Machine.execVCmpEq r f o hw s
  | .vSel r f o hw => Sys2Proof.Machine.execVSel r f o hw s
  | .vExp2 r f o hw => Sys2Proof.Machine.execVExp2 r f o hw s
  | .vLog2 r f o hw => Sys2Proof.Machine.execVLog2 r f o hw s
  | .vRcp r f o hw => Sys2Proof.Machine.execVRcp r f o hw s
  | .vSqrt r f o hw => Sys2Proof.Machine.execVSqrt r f o hw s
  | .vRsqrt r f o hw => Sys2Proof.Machine.execVRsqrt r f o hw s
  | .vTanh r f o hw => Sys2Proof.Machine.execVTanh r f o hw s
  | .vQmx r f o hw => Sys2Proof.Machine.execVQmx r f o hw s
  | .vRedSum r f o hw => Sys2Proof.Machine.execVRedSum r f o hw s
  | .vRedMax r f o hw => Sys2Proof.Machine.execVRedMax r f o hw s
  | .vFoldSum r f o hw => Sys2Proof.Machine.execVFoldSum r f o hw s
  | .vFoldMax r f o hw => Sys2Proof.Machine.execVFoldMax r f o hw s
  | .vChk r f hw => Sys2Proof.Machine.execVChk r f hw s
  | .rnLn r f o hw => Sys2Proof.Machine.execRnLn r f o hw s
  | .rnRms r f o hw => Sys2Proof.Machine.execRnRms r f o hw s
  | .rnSmx r f o hw => Sys2Proof.Machine.execRnSmx r f o hw s
  | .rnLnB r f o hw => Sys2Proof.Machine.execRnLnB r f o hw s
  | .rnRmsB r f o hw => Sys2Proof.Machine.execRnRmsB r f o hw s
  | .rnSmxB r f o hw => Sys2Proof.Machine.execRnSmxB r f o hw s
  | .rnSpill r f o hw => Sys2Proof.Machine.execRnSpill r f o hw s
  | .rnFill r f o hw => Sys2Proof.Machine.execRnFill r f o hw s
  | .rnChk r f hw => Sys2Proof.Machine.execRnChk r f hw s
  | .tokenAdmission r q tok credit => Sys2Proof.Machine.execTokenAdmission r q tok credit s
  | .tokenAcknowledgement r q seq refused => Sys2Proof.Machine.execTokenAcknowledgement r q seq refused s
  | .credit r q => Sys2Proof.Machine.execCredit r q s
  | .hipTokenAtHead r q => Sys2Proof.Machine.execHipTokenAtHead r q s
  | .scratchpadPortGrant r reads writes => Sys2Proof.Machine.execScratchpadPortGrant r reads writes s
  | .loftBankGrant t bank reqs => Sys2Proof.Machine.execLoftBankGrant t bank reqs s
  | .sparOperation t ecc => Sys2Proof.Machine.execSparOperation t ecc s
  | .sparReply t => Sys2Proof.Machine.execSparReply t s
  | .meshFlitArrival rt side plane fl err => Sys2Proof.Machine.execMeshFlitArrival rt side plane fl err s
  | .meshFlitReplay rt side plane ok => Sys2Proof.Machine.execMeshFlitReplay rt side plane ok s
  | .readRequest src tag space addr len hw => Sys2Proof.Machine.execReadRequest src tag space addr len hw s
  | .readResponse dst tag rgen addr data => Sys2Proof.Machine.execReadResponse dst tag rgen addr data s
  | .write src tag space addr data => Sys2Proof.Machine.execWrite src tag space addr data s
  | .writeAcknowledgement dst tag rgen => Sys2Proof.Machine.execWriteAcknowledgement dst tag rgen s
  | .ridgeRegisterAccess off wr v => Sys2Proof.Machine.execRidgeRegisterAccess off wr v s
  | .ridgeRegisterResponse => Sys2Proof.Machine.execRidgeRegisterResponse s
  | .progressLimit r => Sys2Proof.Machine.execProgressLimit r s
  | .courseStart => Sys2Proof.Machine.execCourseStart s
  | .courseInEdge => Sys2Proof.Machine.execCourseInEdge s
  | .sourceLost => Sys2Proof.Machine.execSourceLost s
  | .decisionDeadlineCheck => Sys2Proof.Machine.execDecisionDeadlineCheck s
  | .closePointCheck => Sys2Proof.Machine.execClosePointCheck s
  | .boundarySequence snap ticks => Sys2Proof.Machine.execBoundarySequence snap ticks s
  | .commandRingFetch => Sys2Proof.Machine.execCommandRingFetch s
  | .cmdNop tag => Sys2Proof.Machine.execCmdNop tag s
  | .progLoad tag addr len reduced => Sys2Proof.Machine.execProgLoad tag addr len reduced s
  | .loadChecksComplete img time => Sys2Proof.Machine.execLoadChecksComplete img time s
  | .progStart tag first => Sys2Proof.Machine.execProgStart tag first s
  | .progStop tag => Sys2Proof.Machine.execProgStop tag s
  | .learnStop tag => Sys2Proof.Machine.execLearnStop tag s
  | .learnStart tag => Sys2Proof.Machine.execLearnStart tag s
  | .sessionOpen tag sess iw ow => Sys2Proof.Machine.execSessionOpen tag sess iw ow s
  | .sessionClose tag sess => Sys2Proof.Machine.execSessionClose tag sess s
  | .winBind tag win vec addr stride => Sys2Proof.Machine.execWinBind tag win vec addr stride s
  | .publishPermit tag set standing step => Sys2Proof.Machine.execPublishPermit tag set standing step s
  | .publishRevoke tag set => Sys2Proof.Machine.execPublishRevoke tag set s
  | .fence tag rafters nmu bridge => Sys2Proof.Machine.execFence tag rafters nmu bridge s
  | .tierAlloc o => Sys2Proof.Machine.execTierAlloc o s
  | .tierAllocFrameZeroed extent => Sys2Proof.Machine.execTierAllocFrameZeroed extent s
  | .tierSeal o => Sys2Proof.Machine.execTierSeal o s
  | .tierSealComplete extent => Sys2Proof.Machine.execTierSealComplete extent s
  | .tierPin o pin => Sys2Proof.Machine.execTierPin o pin s
  | .tierFree o => Sys2Proof.Machine.execTierFree o s
  | .linkExport o => Sys2Proof.Machine.execLinkExport o s
  | .linkExportComplete tag => Sys2Proof.Machine.execLinkExportComplete tag s
  | .linkImport o => Sys2Proof.Machine.execLinkImport o s
  | .portService tag cxl port inService => Sys2Proof.Machine.execPortService tag cxl port inService s
  | .ctrGrant tag mask => Sys2Proof.Machine.execCtrGrant tag mask s
  | .ctrRevoke tag mask => Sys2Proof.Machine.execCtrRevoke tag mask s
  | .pwrTol tag tol => Sys2Proof.Machine.execPwrTol tag tol s
  | .updateRequest u hw => Sys2Proof.Machine.execUpdateRequest u hw s
  | .controlWaitSatisfied u hw => Sys2Proof.Machine.execControlWaitSatisfied u hw s
  | .guardWaitSatisfied u hw => Sys2Proof.Machine.execGuardWaitSatisfied u hw s
  | .flagReduceStart g => Sys2Proof.Machine.execFlagReduceStart g s
  | .agreementResult g => Sys2Proof.Machine.execAgreementResult g s
  | .agreementTimeout g => Sys2Proof.Machine.execAgreementTimeout g s
  | .publishStagingComplete set => Sys2Proof.Machine.execPublishStagingComplete set s
  | .tierLookup extent ecc => Sys2Proof.Machine.execTierLookup extent ecc s
  | .scheduleRecordIssue k => Sys2Proof.Machine.execScheduleRecordIssue k s
  | .promotionStart => Sys2Proof.Machine.execPromotionStart s
  | .evictionRequest extent => Sys2Proof.Machine.execEvictionRequest extent s
  | .promotionComplete extent => Sys2Proof.Machine.execPromotionComplete extent s
  | .cxlReadResponse port extent block hw => Sys2Proof.Machine.execCxlReadResponse port extent block hw s
  | .cxlLinkDown port => Sys2Proof.Machine.execCxlLinkDown port s
  | .ixertaData port m hw => Sys2Proof.Machine.execIxertaData port m hw s
  | .ixertaAck port m => Sys2Proof.Machine.execIxertaAck port m s
  | .ixertaNak port m => Sys2Proof.Machine.execIxertaNak port m s
  | .ixertaOpen port m => Sys2Proof.Machine.execIxertaOpen port m s
  | .ixertaOpenAck port m => Sys2Proof.Machine.execIxertaOpenAck port m s
  | .ixertaFlag port m => Sys2Proof.Machine.execIxertaFlag port m s
  | .ixertaDigest port m => Sys2Proof.Machine.execIxertaDigest port m s
  | .ixertaAbort port m => Sys2Proof.Machine.execIxertaAbort port m s
  | .ixertaReq port m => Sys2Proof.Machine.execIxertaReq port m s
  | .ackTimer port rank => Sys2Proof.Machine.execAckTimer port rank s
  | .resendTimeout port rank => Sys2Proof.Machine.execResendTimeout port rank s
  | .collectiveTimeout xfer course => Sys2Proof.Machine.execCollectiveTimeout xfer course s
  | .digestPassComplete hw => Sys2Proof.Machine.execDigestPassComplete hw s
  | .ptpMessage port m => Sys2Proof.Machine.execPtpMessage port m s
  | .linkUp port => Sys2Proof.Machine.execLinkUp port s
  | .linkDown port => Sys2Proof.Machine.execLinkDown port s
  | .gutterRecordWrite => Sys2Proof.Machine.execGutterRecordWrite s
  | .warmReset ticks cut => Sys2Proof.Machine.execWarmReset ticks cut s
  | .holdOnlyReleaseDeadline => Sys2Proof.Machine.execHoldOnlyReleaseDeadline s
  | .selfTestBurst u r => Sys2Proof.Machine.execSelfTestBurst u r s
  | .scrub m u addr ecc => Sys2Proof.Machine.execScrub m u addr ecc s
  | .watchdogExpiry => Sys2Proof.Machine.execWatchdogExpiry s
  | .lockstepMismatch => Sys2Proof.Machine.execLockstepMismatch s
  | .clockMonitorFault clock => Sys2Proof.Machine.execClockMonitorFault clock s
  | .supplyMonitorFault rail => Sys2Proof.Machine.execSupplyMonitorFault rail s
  | .governorSample g => Sys2Proof.Machine.execGovernorSample g s
  | .pwrgoodRise railsOk tested flash auto ms => Sys2Proof.Machine.execPwrgoodRise railsOk tested flash auto ms s
  | .stageFullEntry pass c0 c1 ms => Sys2Proof.Machine.execStageFullEntry pass c0 c1 ms s
  | .powerLoss => Sys2Proof.Machine.execPowerLoss s
  | .perstNAssert => Sys2Proof.Machine.execPerstNAssert s
  | .perstNDeassert rate width => Sys2Proof.Machine.execPerstNDeassert rate width s
  | .powerStateEntry => Sys2Proof.Machine.execPowerStateEntry s
  | .powerStateWake => Sys2Proof.Machine.execPowerStateWake s
  | .d3hotEntry => Sys2Proof.Machine.execD3hotEntry s
  | .hostBar2Read off len hw => Sys2Proof.Machine.execHostBar2Read off len hw s
  | .hostBar2Write off data hw => Sys2Proof.Machine.execHostBar2Write off data hw s
  | .registerWrite off size v => Sys2Proof.Machine.execRegisterWrite off size v s
  | .registerReadClear off rd => Sys2Proof.Machine.execRegisterReadClear off rd s
  | .crsCourseLoRead => Sys2Proof.Machine.execCrsCourseLoRead s
  | .crsPeriodWrite v => Sys2Proof.Machine.execCrsPeriodWrite v s
  | .crsCtrlWrite v => Sys2Proof.Machine.execCrsCtrlWrite v s
  | .crsPtpOffsetWrite v => Sys2Proof.Machine.execCrsPtpOffsetWrite v s
  | .hstCrCtrlWrite v => Sys2Proof.Machine.execHstCrCtrlWrite v s
  | .hstCqHeadWrite v => Sys2Proof.Machine.execHstCqHeadWrite v s
  | .fenceRegisterWrite which v => Sys2Proof.Machine.execFenceRegisterWrite which v s
  | .ctrCfgWrite idx v => Sys2Proof.Machine.execCtrCfgWrite idx v s
  | .ctrValWrite idx v => Sys2Proof.Machine.execCtrValWrite idx v s
  | .ctrValLoRead idx => Sys2Proof.Machine.execCtrValLoRead idx s
  | .pwrTolWrite v => Sys2Proof.Machine.execPwrTolWrite v s
  | .safForceWrite v => Sys2Proof.Machine.execSafForceWrite v s
  | .secCtrlFlashrelWrite v => Sys2Proof.Machine.execSecCtrlFlashrelWrite v s
  | .antiRollbackAdvance v => Sys2Proof.Machine.execAntiRollbackAdvance v s
  | .fuseBurnComplete => Sys2Proof.Machine.execFuseBurnComplete s
  | .ownerProgram v => Sys2Proof.Machine.execOwnerProgram v s
  | .ownerRevoke v => Sys2Proof.Machine.execOwnerRevoke v s
  | .secAttNonceWrite k v => Sys2Proof.Machine.execSecAttNonceWrite k v s
  | .attestationRequest => Sys2Proof.Machine.execAttestationRequest s
  | .attestationReportDone => Sys2Proof.Machine.execAttestationReportDone s
  | .debugResponseCheck => Sys2Proof.Machine.execDebugResponseCheck s
  | .spdmMessage q => Sys2Proof.Machine.execSpdmMessage q s
  | .pcieCompletionTimeout again => Sys2Proof.Machine.execPcieCompletionTimeout again s
  | .smbDeviceId => Sys2Proof.Machine.execSmbDeviceId s
  | .smbPwrStatus => Sys2Proof.Machine.execSmbPwrStatus s
  | .smbSafStatus => Sys2Proof.Machine.execSmbSafStatus s
  | .smbPwrTemp => Sys2Proof.Machine.execSmbPwrTemp s
  | .smbPwrPower => Sys2Proof.Machine.execSmbPwrPower s
  | .smbStackTemperatures => Sys2Proof.Machine.execSmbStackTemperatures s
  | .smbAlertResponse => Sys2Proof.Machine.execSmbAlertResponse s
  | .jtagBoundaryScan op => Sys2Proof.Machine.execJtagBoundaryScan op s
  | .courseOutPulseEnd => Sys2Proof.Machine.execCourseOutPulseEnd s
  | .foreignFrame port k => Sys2Proof.Machine.execForeignFrame port k s
  | .peerTableWrite port rank entry => Sys2Proof.Machine.execPeerTableWrite port rank entry s
  | .linkImportComplete recs => Sys2Proof.Machine.execLinkImportComplete recs s
  | .msixVectorUnmask vec => Sys2Proof.Machine.execMsixVectorUnmask vec s
  | .configurationRequest toD0 => Sys2Proof.Machine.execConfigurationRequest toD0 s
  | .stackTemperatureReport stack temp => Sys2Proof.Machine.execStackTemperatureReport stack temp s

end Sys2Proof.Machine
end

