-- ==== Sys2Proof/WellFormed.lean ====
section
/-!
DEFINITION. Well-formedness of a command: an instruction breaks none of the rules that the load checks hold a
single instruction to (Table 8.4), a host command is not malformed (R487).
-/

namespace Sys2Proof

/-- The command breaks no rule that its own operands decide. -/
def wellFormed (i : Instr) : Bool := (Machine.breaks i).isEmpty && !Machine.malformed i

end Sys2Proof
end

