-- ==== Sys2Proof/Safety.lean ====
section
/-!
DEFINITION. The words in which statements about the device are made: when a rafter's sequencer may issue, what an
instruction that passes on leaves, what a state may differ in, and the invariants.
-/

namespace Sys2Proof.Machine

/-! ### Rafters that may issue (R90, R122, R225, R531) -/

/-- Logical rafter `n` stands at position `p` in the state `x`, and nothing holds issue: a program runs, no warm reset
is under way, the rafter neither holds nor idles, no SLOT, WAIT or ARRIVE.W is awaited, and no CRS.END has issued. -/
structure Ready (s : State) (n : RafterId) (p : Nat) (x : Rafter) : Prop where
  place : physOf s n = some p
  state : s.rft[p]? = some x
  works : mayIssue s x = true
  noSlot : x.seq.slotReq = false
  noWait : x.seq.waiting = false
  noEnd : x.seq.ended = false

/-- The issue queue of unit `u` is `q`, and has a free place (R89, R90). -/
def Room (x : Rafter) (u : Nat) (q : List InFlight) : Prop := x.units[u]? = some q ∧ q.length < 4

/-- Every instruction in a unit's queue has finished, so that the sequencer executes its next one at once (R204). -/
def AllDone (q : List InFlight) : Prop := ∀ e ∈ q, e.done = true

/-- An entry of an issue queue for an instruction with the frame `f` whose work is done. -/
def IsDone (f : Frame) (e : InFlight) : Prop := e.cspar = f.cspar ∧ e.done = true ∧ e.acks = 0 ∧ e.job = none

/-- An entry of an issue queue for an instruction with the frame `f` that waits for `k`. -/
def IsWaiting (f : Frame) (k : Await) (e : InFlight) : Prop := e.cspar = f.cspar ∧ e.done = false ∧ e.kind = k ∧ e.job = none

/-- An entry of an issue queue for an instruction with the frame `f` whose work `j` has not begun. -/
def Queued (f : Frame) (j : UnitJob) (e : InFlight) : Prop :=
  e.cspar = f.cspar ∧ e.done = false ∧ e.acks = 0 ∧ e.job = some j

/-- No instruction in a unit's queue waits to begin. -/
def NoJobs (q : List InFlight) : Prop := ∀ e ∈ q, e.job = none

/-- The instruction that is next is the last of no loop that is entered. -/
def NoLoopEnds (x : Rafter) : Prop := ∀ l, x.seq.loops.head? = some l → l.last ≠ x.seq.idx

/-- Why the rafter issues nothing: there is no such rafter, no program runs, a warm reset is under way, the ridge does
without its control, or the rafter holds or idles (R4, R61, R68, R531). -/
def Resting (s : State) (n : RafterId) : Prop :=
  physOf s n = none ∨ mayIssue s (rafterOf s n) = false

/-! ### What an instruction that passes on leaves -/

/-- `y` is `x` after an instruction issued: only the place in the slot, the loops, their counters, STALL, the progress
counter and the performance counters may differ. -/
def OnlyPlace (x y : Rafter) : Prop :=
  y = { x with
    seq := { x.seq with idx := y.seq.idx, loops := y.seq.loops, lcLeft := y.seq.lcLeft, lcDone := y.seq.lcDone
                        stall := 0 }
    progress := 0
    ctr := y.ctr }

/-- `y` is `x` after an instruction issued and execution falls through to the next one, unless a loop ends there. -/
def FallsThrough (x y : Rafter) : Prop :=
  OnlyPlace x y ∧
  (NoLoopEnds x → y.seq.idx = x.seq.idx + 1 ∧ y.seq.loops = x.seq.loops ∧ y.seq.lcLeft = x.seq.lcLeft ∧
    y.seq.lcDone = x.seq.lcDone)

/-- The state with rafter `p` replaced, and the completion spar of the instruction signalled (R205). -/
def Completed (s : State) (n : RafterId) (p : Nat) (f : Frame) (y : Rafter) : State :=
  signalDone (setRafter s p y) (rafterUnit n) (placeTag (rafterAt s p) (rafterAt s p).seq.idx) f.cspar

/-- The units of a rafter go on with what stands in their queues. -/
def unitsGoOn (s : State) (n : RafterId) : State := seqWork (startIssue (startTensor (streamWork s n) n) n) n

/-- Nothing in the queues of the units that begin their instructions themselves waits to begin. -/
structure NothingWaits (x : Rafter) : Prop where
  jobs : x.jobs = []
  stream : streamState x = x
  seq : NoJobs (unitQ x 0)
  tensor : NoJobs (unitQ x 2)
  issue : NoJobs (unitQ x 9)

/-! ### Token kinds and hip tokens (R116, R127, R218) -/

/-- No token of a kind that its consumer does not take stands at the head of an input queue. -/
def KindsFit (x : Rafter) : Prop := ∀ k, k < 8 → wrongKind x k = false

/-- A command leaves rafter `p` as `y`; tokens of a wrong kind that then stand at heads are faults, and where there is
none nothing else changes (QKIND, R127). -/
def KindsChecked (s : State) (n : RafterId) (p : Nat) (y : Rafter) (r : Host.Outcome State Fault Refusal) : Prop :=
  r = .next (kindCheck (setRafter s p y) n) ∧ (KindsFit y → r = .next (setRafter s p y))

/-- Output queue `k` has sent no hip token in the slot, has a free entry, and can send all that it holds and one more: it is
bound to the own stream engine, or has the credits. -/
def CanSendHip (x : Rafter) (k : Nat) : Prop :=
  (oqOf x k).hipSent = false ∧ 0 < oqFree x k ∧ (oqOf x k).sent ≤ (oqOf x k).tokens.length ∧
  (oqToSe x k = true ∨
    ((∀ t ∈ (oqOf x k).tokens.drop (oqOf x k).sent, isHip t = false) ∧
     (oqOf x k).tokens.length + 1 - (oqOf x k).sent ≤ tableGet 0 (oqOf x k).held (routeKey (outRoute x k))))

/-- Output queue `k` of rafter `n`, `v` before, is `w` after it has sent a hip token. -/
def SentHip (n : RafterId) (x : Rafter) (k : Nat) (v w : Queue) : Prop :=
  w.tokens = v.tokens ++ [mkToken 2 v.seq (outEpoch x k) (rafterUnit n) k false (hipData (hipTotal v) x.seq.slot)] ∧
  w.sent = w.tokens.length ∧ w.seq = 0 ∧ w.hipSent = true ∧
  tableGet 0 w.epochs (routeKey (outRoute x k)) = outEpoch x k + 1 ∧
  (oqToSe x k = false → w.fired = hipTotal v)

/-- An instruction of the sequencer, of the stream engine, the tensor array, the vector or row engine, a steering unit or
the issue port: the rafter that issues it. -/
def issuer : Instr → Option RafterId
  | .nop r _ => some r
  | .loop r _ _ => some r
  | .br r _ _ _ => some r
  | .slot r _ => some r
  | .hip r _ _ => some r
  | .halt r _ _ => some r
  | .agSet r _ _ => some r
  | .agStr r _ _ => some r
  | .setSh r _ _ _ => some r
  | .waitGe r _ _ _ => some r
  | .waitEq r _ _ _ => some r
  | .waitDec r _ _ _ => some r
  | .signalAdd r _ _ _ => some r
  | .signalSet r _ _ _ => some r
  | .arrive r _ _ _ => some r
  | .arriveW r _ _ _ => some r
  | .pollGe r _ _ => some r
  | .pollEq r _ _ => some r
  | .steerSelect r _ _ => some r
  | .steerRoute r _ _ => some r
  | .join r _ _ => some r
  | .fork r _ _ => some r
  | .drain r _ _ => some r
  | .load r _ _ _ => some r
  | .store r _ _ _ => some r
  | .xload r _ _ _ => some r
  | .gather r _ _ _ => some r
  | .scatter r _ _ _ => some r
  | .scatterAdd r _ _ _ => some r
  | .prefetch r _ _ _ => some r
  | .upd r _ _ _ => some r
  | .collRs r _ _ _ => some r
  | .collAg r _ _ _ => some r
  | .collAr r _ _ _ => some r
  | .collFr r _ _ => some r
  | .crsEnd r _ => some r
  | .crsEndD r _ => some r
  | .tld r _ _ _ => some r
  | .tmm r _ _ _ => some r
  | .tmma r _ _ _ => some r
  | .tmmv r _ _ _ => some r
  | .tchk r _ _ _ => some r
  | .vAdd r _ _ _ => some r
  | .vSub r _ _ _ => some r
  | .vMul r _ _ _ => some r
  | .vMin r _ _ _ => some r
  | .vMax r _ _ _ => some r
  | .vFma r _ _ _ => some r
  | .vAbs r _ _ _ => some r
  | .vNeg r _ _ _ => some r
  | .vCvt r _ _ _ => some r
  | .vCmpLt r _ _ _ => some r
  | .vCmpLe r _ _ _ => some r
  | .vCmpEq r _ _ _ => some r
  | .vSel r _ _ _ => some r
  | .vExp2 r _ _ _ => some r
  | .vLog2 r _ _ _ => some r
  | .vRcp r _ _ _ => some r
  | .vSqrt r _ _ _ => some r
  | .vRsqrt r _ _ _ => some r
  | .vTanh r _ _ _ => some r
  | .vQmx r _ _ _ => some r
  | .vRedSum r _ _ _ => some r
  | .vRedMax r _ _ _ => some r
  | .vFoldSum r _ _ _ => some r
  | .vFoldMax r _ _ _ => some r
  | .vChk r _ _ => some r
  | .rnLn r _ _ _ => some r
  | .rnRms r _ _ _ => some r
  | .rnSmx r _ _ _ => some r
  | .rnLnB r _ _ _ => some r
  | .rnRmsB r _ _ _ => some r
  | .rnSmxB r _ _ _ => some r
  | .rnSpill r _ _ _ => some r
  | .rnFill r _ _ _ => some r
  | .rnChk r _ _ => some r
  | _ => none

/-! ### Operands of transfers, products, vectors and rows -/

/-- A stream instruction moves FP32 elements without padding between addresses of the scratchpad, in the run-time shape
of `d0` elements per row and `d1` rows, one plane, within its planned shape and its generators. -/
structure ScratchMove (x : Rafter) (op : StreamOp) (o : StreamOps) (d0 d1 : Nat) : Prop where
  types : dType (descOf x o.desc) = .fp32 ∧ o.dtype = .fp32
  spaces : (agOf x o.sag).space = .scratch ∧ (agOf x o.dag).space = .scratch
  queues : o.sq = false ∧ o.dq = false
  plane : dD2 (descOf x o.desc) = 1
  noPad : dPadw (descOf x o.desc) = false
  shape : shapeValue x o.shp (dD0 (descOf x o.desc) + dD1 (descOf x o.desc) * 2 ^ 16) = d0 + d1 * 2 ^ 16
  small : 0 < d0 ∧ d0 ≤ dD0 (descOf x o.desc) ∧ 0 < d1 ∧ d1 ≤ dD1 (descOf x o.desc)
  bounds : streamBoundsOk x (jobOf x op o .pass (d0 + d1 * 2 ^ 16)) o = true

/-- The signed word at the index generator's address. -/
def indexWord (x : Rafter) (o : StreamOps) : Int := signed32 (memWord x.scratch (agAddr x o.iag).toNat 4)

/-- What a transfer that has gone through leaves of its rafter: the scratchpad, the sequencer's place and the engine's own
registers may differ. -/
def OnlyMoved (x y z : Rafter) : Prop :=
  FallsThrough x z ∧
  y = { x with
    scratch := y.scratch, units := y.units, seq := z.seq, progress := 0, ctr := y.ctr
    seDesc := y.seDesc, seXpose := y.seXpose, seState := 0 }

/-- What a tensor, vector or row instruction leaves of its rafter's place: the sequencer has passed on as `z` has, and the
instruction stands at the end of its unit's queue. -/
def PassedOn (x y z : Rafter) (u : Nat) (l : List InFlight) : Prop :=
  FallsThrough x z ∧ y.seq = z.seq ∧ y.units = x.units.set u l

/-- A vector instruction that is no part of a chain writes `e` FP32 results to the scratchpad through DST, within its
generators. -/
structure PlainVector (x : Rafter) (op : VecOp) (f : Frame) (o : VectorOps) (e : Nat) : Prop where
  alone : f.chain = false ∧ x.chain = []
  dest : o.dk = .stream ∧ o.dtype = .fp32
  count : shapeValue x o.shp o.count.toNat = e ∧ 0 < e ∧ e ≤ o.count.toNat
  bounds : vecBoundsOk x op o e = true

/-- Element `i` of the result of a vector instruction over the rafter's operands as they stand. -/
def laneResult (x : Rafter) (op : VecOp) (o : VectorOps) (e i : Nat) : W32 :=
  let v := vecStep x op o e
  let a := stepOperands x v noPass i
  (laneOp op o.bf a.1 a.2.1 a.2.2.1).1

/-- Operand A of a vector instruction at element `i`. -/
def laneA (x : Rafter) (op : VecOp) (o : VectorOps) (e i : Nat) : W32 :=
  (srcWord x (vecStep x op o e) o.atype noPass i (vecSrc x o.opa)).1

/-- The elements of one row of a row instruction: X, DY, gamma and beta of the planned length `plan`. -/
def rowX (x : Rafter) (o : RowOps) (len k : Nat) : W32 :=
  (rowElems x.scratch o.xtype (agAddr x o.xag).toNat len).getD k 0
def rowDy (x : Rafter) (o : RowOps) (len k : Nat) : W32 :=
  (rowElems x.scratch o.xtype (agAddr x o.dyag).toNat len).getD k 0
def rowGamma (x : Rafter) (o : RowOps) (len k : Nat) : W32 :=
  (rowElems x.scratch o.ptype (agAddr x o.gag).toNat len).getD k 0
def rowBeta (x : Rafter) (o : RowOps) (plan len k : Nat) : W32 :=
  (rowElems x.scratch o.ptype ((agAddr x o.gag).toNat + plan * typeBytes o.ptype) len).getD k 0

/-- A row instruction works on one row of `len` elements, writes FP32, accumulates no parameter gradients, and lies
within its generators. -/
structure OneRow (x : Rafter) (kind : RowKind) (o : RowOps) (len : Nat) : Prop where
  shape : shapeValue x o.shp (dTshape (descOf x o.td)) = 1 + len * 2 ^ 15
  small : 0 < len ∧ 1 ≤ shR (dTshape (descOf x o.td)) ∧ len ≤ shRowLen (dTshape (descOf x o.td))
  dest : o.otype = .fp32 ∧ o.pacc = false
  bounds : rowBoundsOk x o kind (shRowLen (dTshape (descOf x o.td))) 1 len = true

/-- Rafter `p` replaced, and the ordinal of descriptor `d` risen by one: a COLL has been numbered (R452). -/
def Numbered (s : State) (p : Nat) (y : Rafter) (d : Nat) : State :=
  let ords := tablePut 0 s.lnk.ordinals d (tableGet 0 s.lnk.ordinals d + 1)
  { setRafter s p y with lnk := { s.lnk with ordinals := ords } }

/-! ### What a state may differ in -/

/-- Nothing but rafters differs. -/
def OnlyRafters (s t : State) : Prop := t = { s with rft := t.rft }

/-- Nothing but rafter `p` differs. -/
def OnlyRafter (s t : State) (p : Nat) : Prop :=
  OnlyRafters s t ∧ ∀ q, q ≠ p → t.rft[q]? = s.rft[q]?

/-- Nothing but trusses differs. -/
def OnlyTrusses (s t : State) : Prop := t = { s with trs := t.trs }

/-- Nothing but truss `k` differs. -/
def OnlyTruss (s t : State) (k : Nat) : Prop :=
  OnlyTrusses s t ∧ ∀ q, q ≠ k → t.trs[q]? = s.trs[q]?

/-- Two rafters agree in all but their performance counters. -/
def SameButCounters (x y : Rafter) : Prop := y = { x with ctr := y.ctr }

/-! ### Host commands (R483 to R488) -/

/-- The ridge takes a host command at once: its firmware works, no program runs, no command stands before it, and the
completion queue has a place for it or is not in use. -/
structure Attends (s : State) : Prop where
  stage : s.pwr.stage ≠ 0
  works : s.saf.hwSafe = false
  idle : s.crs.running = false
  first : s.hst.queued = []
  ring : ringInUse s = true
  room : cqFree s ≠ 0

/-- A command was answered: where ring and completion queue are in use, its entry stands at the tail that was, the tail
and the phase have moved on, no other byte of host memory has changed, and vector 3 has been sent unless it is masked;
otherwise host memory has not changed. -/
def Answered (s t : State) (opc : Byte) (tag : W16) (status : Nat) (detail : List Byte) : Prop :=
  (ringInUse s = true →
    (let a := s.hst.cqBase.toNat + 32 * s.hst.cqTail.toNat
     let wrap := decide (s.hst.cqTail.toNat + 1 = ringSize s)
     memRead t.hst.mem a 32 = bytesOf 2 tag.toNat ++ [opc, BitVec.ofNat 8 status] ++ bytesOf 4 (b2n s.hst.cqPhase) ++
       zeros 8 ++ fitBytes 16 detail ∧
     (∀ b, b < a ∨ a + 32 ≤ b → memByte t.hst.mem b = memByte s.hst.mem b) ∧
     t.hst.cqTail = (if wrap then 0 else s.hst.cqTail + 1) ∧ t.hst.cqPhase = (s.hst.cqPhase != wrap) ∧
     t.hst.cqOut = s.hst.cqOut + 1 ∧ (s.hst.msixMask.getLsbD 3 = false → 3 ∈ t.hst.msixSent))) ∧
  (ringInUse s = false → t.hst.mem = s.hst.mem ∧ t.hst.cqTail = s.hst.cqTail)

/-- The course, the program, the tiers, the links, the stacks and the security state are as they were. -/
def Untouched (s t : State) : Prop :=
  t.crs = s.crs ∧ t.prog = s.prog ∧ t.tier = s.tier ∧ t.cxl = s.cxl ∧ t.lnk = s.lnk ∧ t.eav = s.eav ∧ t.sec = s.sec

/-! ### Receiving units and connections (R389, R441 to R443) -/

/-- Receiving unit `k`, whose identifier is `u`, works, stands as `v`, and no spar table's reply waits for it. -/
structure Receives (s : State) (u : UnitId) (k : Nat) (v : UpdUnit) : Prop where
  index : updIndex u = some k
  works : working s = true
  unit : s.upd.units[k]? = some v
  inbox : s.sparInbox = []

/-- No request that a unit holds has a version guard (R361). -/
def Unguarded (s : State) (v : UpdUnit) : Prop :=
  ∀ r ∈ v.jobs.map (·.req) ++ v.queue, (groupAt s r.group).guarded = false

/-- A message that passes the checks of port `l`, in order on an open connection `c` on which nothing awaits an
acknowledgement and fewer than 15 messages have come since the last one. -/
structure InOrder (s : State) (l : Nat) (p : LnkPort) (c : Conn) (m : IxMsg) : Prop where
  port : s.lnk.ports[l]? = some p
  ready : portReady s l = true
  peer : peerValid p m.src = true
  good : m.crcOk = true ∧ m.addrOk = true
  conn : connAt p m.src = c
  opened : c.isOpen = true
  kept : c.kept = []
  next : m.psn = c.rx
  few : c.sinceAck < 15

/-- A connection after it has taken the message in order. -/
def afterMessage (s : State) (c : Conn) : Conn :=
  { c with rx := c.rx + 1, nak := false, badPsn := none, sinceAck := c.sinceAck + 1, ackFrom := some (c.ackFrom.getD s.now) }

/-- The state after port `l` has taken the message in order on connection `c`. -/
def inOrderTaken (s : State) (l : Nat) (c : Conn) (m : IxMsg) : State :=
  updConn (hitPort s l 0x301 m.payload.length) l m.src (fun _ => afterMessage s c)

/-- The connection to `r` on port `l`. -/
def connOn (s : State) (l : Nat) (r : BitVec 10) : Conn := connAt (portAt s l) r

/-! ### The host port and the fence mask (R482, R506) -/

/-- The host port is up and no warm reset holds accesses back. -/
structure Reached (s : State) : Prop where
  up : hostUp s = true
  calm : s.saf.resetReq = none

/-- The device awake, with the host port up and the ridge in control: what an access to BAR2 needs. -/
structure Awake (s : State) : Prop extends Reached s where
  works : s.saf.hwSafe = false
  state : s.pwr.st ≠ 4

/-- The fence mask names no position that is disabled at manufacture. -/
def FencesUsable (s : State) : Prop := s.fenced &&& ~~~s.enabled = 0

end Sys2Proof.Machine
end

