-- ==== Sys2Proof/Certificates/Slice0/Obligations.lean ====
section
/-!
DEFINITION. The statements for the provers.
-/

open Sys2Proof Sys2Proof.Machine

/-! ### The machine -/

/-- A step takes the command at the front of the queue and is its meaning on the state with the queue's rest. -/
def Obligations.StepRunsFront : Prop :=
  ∀ (c : Instr) (rest : List Instr) (s : State), s.pending = c :: rest →
    step s = exec c { s with pending := rest }

/-- With no command waiting, a step is one 10 ns tick (log 2): the time base rises by one; of a rafter no more than the
progress counter and the performance counters change, and of the memories, the program, the course timer and the power
controller nothing. While no flit moves in the mesh, nothing of the safety unit and the pins changes either. -/
def Obligations.EmptyQueueTicks : Prop :=
  ∀ s : State, s.pending = [] → ∃ t, step s = .next t ∧ t.now = s.now + 1 ∧ t.pending = [] ∧
    t.crs = s.crs ∧ t.pwr = s.pwr ∧ t.sec = s.sec ∧ t.prog = s.prog ∧ t.tier = s.tier ∧ t.upd = s.upd ∧
    t.free = s.free ∧ ((∀ k ∈ s.trs, meshBusy k = false) → t.saf = s.saf ∧ t.pkg = s.pkg) ∧
    t.rft.length = s.rft.length ∧
    (∀ (p : Nat) (x y : Rafter), s.rft[p]? = some x → t.rft[p]? = some y → y = { x with progress := y.progress, ctr := y.ctr }) ∧
    (∀ (e : Nat) (v w : Eave), s.eav[e]? = some v → t.eav[e]? = some w → w = { v with ctr := w.ctr })

/-! ### The sequencer (R88 to R96, R204, R212 to R222) -/

/-- NOP, AG.SET, AG.STR and an immediate SETSH complete at issue: execution falls through, the completion spar is
signalled, and the address generator or the shape register takes its value; nothing else changes. -/
def Obligations.AtIssueInstructionsComplete : Prop :=
  ∀ (s : State) (n : RafterId) (p : Nat) (x : Rafter) (f : Frame), Ready s n p x → ∃ y, FallsThrough x y ∧
    exec (.nop n f) s = .next (Completed s n p f y) ∧
    (∀ o, exec (.agSet n f o) s = .next (Completed s n p f { y with seq := { y.seq with
      ags := x.seq.ags.set o.ag.toNat
        { space := o.space, base := o.base, limit := o.limit, pairs := [(0, 0), (0, 0), (0, 0), (0, 0)] } } })) ∧
    (∀ o g, x.seq.ags[o.ag.toNat]? = some g →
      exec (.agStr n f o) s = .next (Completed s n p f { y with seq := { y.seq with
        ags := x.seq.ags.set o.ag.toNat { g with pairs := g.pairs.set o.pair.toNat (o.stride, o.lc) } } })) ∧
    (∀ o hw, o.src = false → exec (.setSh n f o hw) s = .next (Completed s n p f { y with seq := { y.seq with
      sh := x.seq.sh.set o.sh.toNat o.value } }))

/-- A BR that tests the poll flag waits for earlier POLLs and shows STALL 5; else a BR that is not taken falls through,
and one that is taken makes TARGET the next instruction and ends the loops whose END lies before TARGET. LOOP: a count
above the planned one is a shape fault (R210). A count of at least 1 enters the loop: LC is loaded, its completed
iterations are 0, and the body's first instruction is next. A count of 0 skips the body: where no enclosing loop ends
at END, the instruction after END is next, and no loop is entered. Whenever END issues: where the innermost loop that
ends there has iterations remaining, its body's first instruction is next and no further loop is taken; where it has
none, the loop finishes, and the enclosing loops are taken in the same way. In both cases the iterations completed on
its LC rise by one. -/
def Obligations.BranchesAndLoops : Prop :=
  (∀ (s : State) (n : RafterId) (p : Nat) (x : Rafter) (f : Frame) (cond : BrCond) (target : BitVec 10),
      Ready s n p x →
      (cond ≠ .always → (x.seq.asks ≠ [] ∨ ∃ e ∈ unitQ x 0, pollsLater e = true) →
        exec (.br n f cond target) s = .next (setRafter s p { x with seq := { x.seq with stall := 5 } })) ∧
      ((cond = .always ∨ (x.seq.asks = [] ∧ ∀ e ∈ unitQ x 0, pollsLater e = false)) →
        ∃ y, exec (.br n f cond target) s = .next (Completed s n p f y) ∧ OnlyPlace x y ∧
          (brTaken cond x = true → y.seq.idx = target.toNat ∧
            (∃ out, x.seq.loops = out ++ y.seq.loops ∧ (∀ l ∈ out, l.last < target.toNat)) ∧
            (∀ l, y.seq.loops.head? = some l → target.toNat ≤ l.last) ∧
            y.seq.lcDone = x.seq.lcDone ∧ y.seq.lcLeft = x.seq.lcLeft) ∧
          (brTaken cond x = false → FallsThrough x y))) ∧
  (∀ (s : State) (n : RafterId) (p : Nat) (x : Rafter) (f : Frame) (o : LoopOps), Ready s n p x →
      (o.count.toNat < shapeValue x o.shp o.count.toNat →
        exec (.loop n f o) s = .next (shapeFault s n (shapeValue x o.shp o.count.toNat))) ∧
      (shapeValue x o.shp o.count.toNat ≤ o.count.toNat →
        ∃ y, exec (.loop n f o) s = .next (Completed s n p f y) ∧ OnlyPlace x y ∧
          (0 < shapeValue x o.shp o.count.toNat →
            y.seq.idx = x.seq.idx + 1 ∧
            y.seq.loops = { lc := o.lc, first := x.seq.idx + 1, last := o.endIdx.toNat,
                            left := shapeValue x o.shp o.count.toNat } :: x.seq.loops ∧
            y.seq.lcDone = x.seq.lcDone.set o.lc.toNat 0 ∧
            y.seq.lcLeft = x.seq.lcLeft.set o.lc.toNat (BitVec.ofNat 24 (shapeValue x o.shp o.count.toNat))) ∧
          (shapeValue x o.shp o.count.toNat = 0 →
            (∀ l, x.seq.loops.head? = some l → l.last ≠ o.endIdx.toNat) →
            y.seq.idx = o.endIdx.toNat + 1 ∧ y.seq.loops = x.seq.loops ∧
            y.seq.lcDone = x.seq.lcDone.set o.lc.toNat 0))) ∧
  (∀ (q : Seq) (l : LoopFrame) (ls : List LoopFrame), q.loops = l :: ls → l.last = q.idx →
      (1 < l.left →
        (afterIssue q q.idx).idx = l.first ∧
        (afterIssue q q.idx).loops = { l with left := l.left - 1 } :: ls ∧
        (afterIssue q q.idx).lcDone = q.lcDone.modify l.lc.toNat (· + 1)) ∧
      (l.left ≤ 1 →
        afterIssue q q.idx = afterIssue { q with
          loops := ls, lcLeft := q.lcLeft.set l.lc.toNat 0, lcDone := q.lcDone.modify l.lc.toNat (· + 1) } q.idx))

/-- No instruction of a rafter does anything while the rafter holds or idles, no program runs, a warm reset is under way, or
there is no such rafter. While SLOT is awaited, or a WAIT or ARRIVE.W, no instruction issues: STALL shows why, and nothing
else changes. Nothing issues after CRS.END or HALT (R248); STALL is 0 there (log 36). -/
def Obligations.NothingIssuesWhileHeld : Prop :=
  (∀ (i : Instr) (s : State) (n : RafterId), issuer i = some n → Resting s n → exec i s = .next s) ∧
  (∀ (i : Instr) (s : State) (n : RafterId) (p : Nat) (x : Rafter), issuer i = some n →
      physOf s n = some p → s.rft[p]? = some x → mayIssue s x = true →
      (x.seq.slotReq = true ∨ x.seq.waiting = true ∨ x.seq.ended = true) →
      exec i s = .next (setRafter s p { x with seq := { x.seq with
        stall := if x.seq.slotReq then 6 else if x.seq.waiting then 5 else 0 } }))

/-! ### Spars from a rafter (R224 to R231) -/

/-- A spar operation that leaves a rafter joins the end of one input of the table that its identifier names: the input of
the rafter's position where the table is in its own truss, else that of the mesh. Nothing else changes but the
rafter's performance counters. The completion addition is a SIGNAL.ADD of 1 to the spar that CSPAR names; there is
none for 0xFFFF. Spar instructions with every earlier sequencer instruction finished. SIGNAL.ADD, SIGNAL.SET and
ARRIVE: the operation leaves for its table at once, and the instruction has finished. WAIT and ARRIVE.W: the operation
leaves, issue is held and STALL reads 5. POLL.GE and POLL.EQ: a read leaves; the sequencer remembers the comparison,
and the scratchpad word that takes COUNT where WR is set. -/
def Obligations.SparInstructions : Prop :=
  (∀ (s : State) (n : RafterId) (p : Nat) (x : Rafter) (t : Truss) (g : W16) (c : SparId) (op : SparOp) (th : W16)
      (v : W32), n < 96 → physOf s n = some p → s.rft[p]? = some x → s.trs[c.toNat / 4096]? = some t →
      ∃ y, SameButCounters x y ∧
        sendSpar s (rafterUnit n) g c op th v =
          { s with
            rft := s.rft.set p y
            trs := s.trs.set (c.toNat / 4096) { t with
              inputs := t.inputs.modify (if p / 6 = c.toNat / 4096 then p % 6 else 6)
                (· ++ [{ src := rafterUnit n, tag := g, op := op, index := c.truncate 12, t := th, v := v }]) } }) ∧
  (∀ (s : State) (u : UnitId) (g : W16) (c : SparId),
      (c = 0xFFFF → signalDone s u g c = s) ∧ (c ≠ 0xFFFF → signalDone s u g c = sendSpar s u g c .signalAdd 0 1)) ∧
  (∀ (s : State) (n : RafterId) (p : Nat) (x : Rafter) (q : List InFlight) (f : Frame) (c : SparId),
      Ready s n p x → Room x 0 q → AllDone q →
      ∃ y e, FallsThrough x y ∧ IsDone f e ∧
        (let s1 := setRafter s p { y with units := x.units.set 0 (q ++ [e]) }
         (∀ v, exec (.signalAdd n f c v) s = .next (sendSpar s1 (rafterUnit n) (placeTag x x.seq.idx) c .signalAdd 0 v)) ∧
         (∀ v, exec (.signalSet n f c v) s = .next (sendSpar s1 (rafterUnit n) (placeTag x x.seq.idx) c .signalSet 0 v)) ∧
         (∀ t, exec (.arrive n f c t) s = .next (sendSpar s1 (rafterUnit n) (placeTag x x.seq.idx) c .arrive t 0)))) ∧
  (∀ (s : State) (n : RafterId) (p : Nat) (x : Rafter) (q : List InFlight) (f : Frame) (c : SparId),
      Ready s n p x → Room x 0 q → AllDone q →
      ∃ y e, FallsThrough x y ∧ IsWaiting f .reply e ∧
        (let s1 := setRafter s p { y with
           units := x.units.set 0 (q ++ [e])
           seq := { y.seq with waiting := true, stall := 5, asks := x.seq.asks ++ [.wait] } }
         (∀ v, exec (.waitGe n f c v) s = .next (sendSpar s1 (rafterUnit n) (placeTag x x.seq.idx) c .waitGe 0 v)) ∧
         (∀ v, exec (.waitEq n f c v) s = .next (sendSpar s1 (rafterUnit n) (placeTag x x.seq.idx) c .waitEq 0 v)) ∧
         (∀ v, exec (.waitDec n f c v) s = .next (sendSpar s1 (rafterUnit n) (placeTag x x.seq.idx) c .waitDec 0 v)) ∧
         (∀ t, exec (.arriveW n f c t) s = .next (sendSpar s1 (rafterUnit n) (placeTag x x.seq.idx) c .arriveW t 0)))) ∧
  (∀ (s : State) (n : RafterId) (p : Nat) (x : Rafter) (q : List InFlight) (f : Frame) (o : PollOps),
      Ready s n p x → Room x 0 q → AllDone q →
      (o.wr = true → (scratchWordAt x o.ag).isSome = true) →
      ∃ y e, FallsThrough x y ∧ IsWaiting f .reply e ∧
        (let wr := if o.wr then scratchWordAt x o.ag else none
         let s1 := fun (a : SparPurpose) => setRafter s p { y with
           units := x.units.set 0 (q ++ [e])
           seq := { y.seq with asks := x.seq.asks ++ [a] } }
         exec (.pollGe n f o) s = .next (sendSpar (s1 (.pollGe o.v wr)) (rafterUnit n) (placeTag x x.seq.idx) o.spar .read 0 0) ∧
         exec (.pollEq n f o) s = .next (sendSpar (s1 (.pollEq o.v wr)) (rafterUnit n) (placeTag x x.seq.idx) o.spar .read 0 0)))

/-- SETSH from the scratchpad, with every earlier sequencer instruction finished and the read free of faults: the shape
register holds the 4 B word at the generator's address. A generator outside the scratchpad, or an address that is no
multiple of 4, is an address-bound fault. HIP sends one hip token on each output queue of OQMASK: the route's epoch
closes, the queue's SEQ restarts at 0, and it has sent its hip token in the slot; other queues stay. SLOT does so on
every active output queue that has not sent one in the slot, and holds issue until the switch: STALL reads 6. Each of
these queues has a free entry and the credits for what it holds. -/
def Obligations.SequencerReadsAndHips : Prop :=
  (∀ (s : State) (n : RafterId) (p : Nat) (x : Rafter) (q : List InFlight) (f : Frame) (o : SetShOps),
      Ready s n p x → Room x 0 q → AllDone q → o.src = true →
      (∀ a, scratchWordAt x o.ag = some a → ∃ y e, FallsThrough x y ∧ IsDone f e ∧
        exec (.setSh n f o .pass) s = .next (setRafter s p { y with
          units := x.units.set 0 (q ++ [e])
          seq := { y.seq with sh := x.seq.sh.set o.sh.toNat (BitVec.ofNat 32 (memWord x.scratch a 4)) } })) ∧
      ((agOf x o.ag).space ≠ .scratch ∨ agAddr x o.ag % 4 ≠ 0 →
        ∀ hw, exec (.setSh n f o hw) s = .next (boundFault s n))) ∧
  (∀ (s : State) (n : RafterId) (p : Nat) (x : Rafter) (f : Frame) (o : SetShOps) (hw : UnitCheck), Ready s n p x →
      o.src = false → ∃ y, FallsThrough x y ∧ exec (.setSh n f o hw) s = .next (Completed s n p f { y with
        seq := { y.seq with sh := x.seq.sh.set o.sh.toNat o.value } })) ∧
  (∀ (s : State) (n : RafterId) (p : Nat) (x : Rafter) (q : List InFlight) (f : Frame) (mask : Byte),
      Ready s n p x → Room x 0 q → AllDone q →
      (∀ k, k < 8 → mask.getLsbD k = true → CanSendHip x k) →
      ∃ y z e, exec (.hip n f mask) s = .next (setRafter s p y) ∧ FallsThrough x z ∧ IsDone f e ∧
        y.seq = { z.seq with hips := none } ∧ y.units = x.units.set 0 (q ++ [e]) ∧
        y.iq = x.iq ∧ y.scratch = x.scratch ∧ y.oq.length = x.oq.length ∧
        (∀ k v w, k < 8 → x.oq[k]? = some v → y.oq[k]? = some w →
          if mask.getLsbD k then SentHip n x k v w else w = v)) ∧
  (∀ (s : State) (n : RafterId) (p : Nat) (x : Rafter) (q : List InFlight) (f : Frame),
      Ready s n p x → Room x 0 q → AllDone q →
      (∀ k, k < 8 → (hipsDue x).getLsbD k = true → CanSendHip x k) →
      ∃ y e, exec (.slot n f) s = .next (setRafter s p y) ∧ IsWaiting f .switch e ∧
        y.seq = { x.seq with slotReq := true, seHips := false, stall := 6, hips := none } ∧
        y.units = x.units.set 0 (q ++ [e]) ∧ y.iq = x.iq ∧ y.scratch = x.scratch ∧ y.progress = 0 ∧
        (∀ k v w, k < 8 → x.oq[k]? = some v → y.oq[k]? = some w →
          if descOq (slotDescOf x x.seq.slot) k && !v.hipSent then SentHip n x k v w else w = v))

/-- The slot switch, once the old slot has drained and every active input queue has its checked hip token at the head: hip
tokens are removed, the active queues' counters restart, NEXT is active at its entry instruction, loops and address
generators are cleared (R96), SLOT's completion spar is signalled, and where the slot entered is reserved for it the
preconditioner routine runs (R380); entering any other slot adds nothing. Before that a slot switch does nothing. The
stream engine's hip tokens at a slot switch: one on the route to each active input queue that it feeds; on each active
output queue that it empties, the hip token at the head, which agrees with the data tokens it took, is removed. -/
def Obligations.SlotSwitchAndHips : Prop :=
  (∀ (s : State) (n : RafterId) (p : Nat) (x : Rafter), physOf s n = some p → s.rft[p]? = some x → working s = true →
      x.seq.slotReq = true → slotDrained x = true → overruns x = [] → hipsReady x = true →
      ∃ y, exec (.slotSwitch n) s = .next (enterSlot n (kindCheck (signalDone (setRafter s p y) (rafterUnit n)
          (placeTag x (seqPlace x .switch)) (slotSpar x)) n)) ∧
        (let d := slotDescOf x x.seq.slot
         y.seq.slot = descNext d ∧ y.seq.idx = descEntry (slotDescOf x (descNext d)) ∧ y.seq.loops = [] ∧
         y.seq.slotReq = false ∧ y.seq.stall = 0 ∧ y.seq.sh = x.seq.sh ∧ y.seq.poll = x.seq.poll ∧
         y.units = x.units.set 0 [] ∧
         (∀ a, a < 16 → y.seq.ags[a]? = some Ag.reset) ∧ (∀ l, l < 8 → y.seq.lcDone[l]? = some 0) ∧
         (∀ k v, x.iq[k]? = some v → y.iq[k]? = some (if descIq d k then
           { v with tokens := v.tokens.tail, fired := 0, hipOk := false } else v)) ∧
         (∀ k v, x.oq[k]? = some v → y.oq[k]? = some (if descOq d k then
           { v with fired := 0, hipSent := false, hipOk := false, taken := 0 } else v)) ∧
         y.scratch = x.scratch ∧ y.pass = x.pass ∧ y.acc = x.acc)) ∧
  (∀ (s : State) (n : RafterId) (p : Nat) (x : Rafter), physOf s n = some p → s.rft[p]? = some x →
      x.routine.getLsbD x.seq.slot.toNat = false → enterSlot n s = s) ∧
  (∀ (s : State) (n : RafterId) (p : Nat) (x : Rafter), physOf s n = some p → s.rft[p]? = some x →
      (x.seq.slotReq = false ∨ slotDrained x = false ∨ (overruns x = [] ∧ hipsReady x = false)) →
      exec (.slotSwitch n) s = .next s) ∧
  (∀ (s : State) (n : RafterId) (p : Nat) (x : Rafter), physOf s n = some p → s.rft[p]? = some x → working s = true →
      x.seq.slotReq = true → x.seq.seHips = false → unitQ x 1 = [] →
      (∀ k ∈ seHeads x, hipDiffers x k = false) →
      ∃ y, exec (.streamEngineHipSend n) s = .next (setRafter s p y) ∧
        (let d := slotDescOf x x.seq.slot
         (∀ k v, x.iq[k]? = some v → y.iq[k]? = some (if descIq d k && iqFromSe x k then
           feedToken n v 2 (hipData (feedCount v) x.seq.slot) else v)) ∧
         (∀ k v, x.oq[k]? = some v → y.oq[k]? = some (if (seHeads x).contains k then
           { v with tokens := v.tokens.tail, sent := v.sent - 1, hipOk := true } else v)) ∧
         y = { x with iq := y.iq, oq := y.oq, seq := { x.seq with seHips := true }, progress := 0 }))

/-! ### Steering and draining (R106 to R111, R232 to R235) -/

/-- A steering instruction with FIRE NONE puts its unit into its mode for its run-time number of steps where the unit is
idle, and waits in the unit's queue where it is not. A count above the planned one is a shape fault; a count of 0
completes and touches no queue (R93). -/
def Obligations.SteeringInstructionsSetAMode : Prop :=
  ∀ (s : State) (n : RafterId) (p : Nat) (x : Rafter) (q : List InFlight) (u : Stu) (f : Frame) (o : SteerOps),
    Ready s n p x → Room x (5 + o.stu.toNat) q → x.stu[o.stu.toNat]? = some u → f.fire = .none →
    (let c := shapeValue x o.shp o.steps.toNat
     (o.steps.toNat < c → ∀ i ∈ [Instr.steerSelect n f o, .steerRoute n f o, .join n f o, .fork n f o],
        exec i s = .next (shapeFault s n c)) ∧
     (c ≤ o.steps.toNat → ∃ y, FallsThrough x y ∧
       (c = 0 → ∃ e, IsDone f e ∧ ∀ i ∈ [Instr.steerSelect n f o, .steerRoute n f o, .join n f o, .fork n f o],
          exec i s = .next (setRafter s p { y with units := x.units.set (5 + o.stu.toNat) (q ++ [e]) })) ∧
       (0 < c → ∃ e, IsWaiting f .steps e ∧
          ∀ mi ∈ [((1 : BitVec 3), Instr.steerSelect n f o), (2, .steerRoute n f o), (3, .join n f o), (4, .fork n f o)],
            KindsChecked s n p { y with
              units := x.units.set (5 + o.stu.toNat) (q ++ [e])
              stu := x.stu.set o.stu.toNat (if u.mode = 0 then
                { mode := mi.1, ops := o, left := c, place := x.seq.idx, part := 0, later := u.later }
                else { u with later := u.later ++ [{ mode := mi.1, ops := o, left := c, place := x.seq.idx }] }) }
              (exec mi.2 s))))

/-- A steering unit in mode SELECT: the control token at the head of CQ names an input queue; its data token, whose SEQ agrees
with DSEQ, goes to XQ as the next token of that route, and both tokens are consumed. A unit in mode ROUTE whose tokens
disagree raises a steering mismatch; one whose control token has not arrived waits. -/
def Obligations.SteeringSteps : Prop :=
  (∀ (s : State) (n : RafterId) (p : Nat) (x : Rafter) (ui : BitVec 2) (u : Stu) (c t : Token) (cs ts : List Token)
      (iq : Nat) (v w o : Queue),
      physOf s n = some p → s.rft[p]? = some x → working s = true → x.stu[ui.toNat]? = some u →
      u.mode = 1 → u.part = 0 → 1 < u.left → u.ops.shw = false →
      x.iq[u.ops.cq.toNat]? = some w → w.tokens = c :: cs → isControl c = true →
      (steerQueues u.ops)[ctlSel c]? = some iq → iq ≠ u.ops.cq.toNat →
      x.iq[iq]? = some v → v.tokens = t :: ts → isData t = true → tokSeq t.hdr = ctlDseq c →
      x.oq[u.ops.xq.toNat]? = some o → o.hipSent = false → 0 < stepRoom x u.ops.xq.toNat →
      ∃ y o', KindsChecked s n p y (exec (.steeringStep n ui) s) ∧
        y.iq = (x.iq.set iq { v with tokens := ts, fired := v.fired + 1 }).set u.ops.cq.toNat { w with tokens := cs } ∧
        y.oq = x.oq.set u.ops.xq.toNat o' ∧
        o'.tokens = o.tokens ++
          [mkToken 0 o.seq (outEpoch x u.ops.xq.toNat) (rafterUnit n) u.ops.xq.toNat false t.data] ∧
        o'.seq = o.seq + 1 ∧ o'.epochs = o.epochs ∧ o'.hipSent = false ∧
        y.stu = x.stu.set ui.toNat { u with left := u.left - 1, part := 0 } ∧ y.scratch = x.scratch ∧ y.seq = x.seq) ∧
  (∀ (s : State) (n : RafterId) (p : Nat) (x : Rafter) (ui : BitVec 2) (u : Stu) (c t : Token),
      physOf s n = some p → s.rft[p]? = some x → working s = true → x.stu[ui.toNat]? = some u →
      u.mode = 2 → u.part = 0 → 0 < u.left →
      ((iqOf x u.ops.cq.toNat).tokens = [] → exec (.steeringStep n ui) s = .next s) ∧
      ((iqOf x u.ops.cq.toNat).tokens.head? = some c → isControl c = true →
        (iqOf x u.ops.xq.toNat).tokens.head? = some t → isData t = true →
        ctlSel c < (steerQueues u.ops).length → tokSeq t.hdr ≠ ctlDseq c →
        exec (.steeringStep n ui) s = .next (dataflowFault s n 0x35 u.place
          (faultInfoWord (tokSeq t.hdr) 0x35 true false ui.toNat) (ctlDseq c))))

/-- DRAIN with its tokens there, and no token of a wrong kind behind them: the run-time count of data tokens leaves the
head of the queue and counts in the firing counter, and the instruction has finished. -/
def Obligations.DrainConsumes : Prop :=
  ∀ (s : State) (n : RafterId) (p : Nat) (x : Rafter) (q : List InFlight) (v : Queue) (f : Frame) (o : DrainOps),
    Ready s n p x → Room x 0 q → AllDone q → f.fire = .none → x.seq.drain = none → x.iq[o.iq.toNat]? = some v →
    (let c := shapeValue x o.shp o.count.toNat
     let w := { v with tokens := v.tokens.drop c, fired := v.fired + BitVec.ofNat 24 c }
     c ≤ o.count.toNat → c ≤ v.tokens.length → (∀ t ∈ v.tokens.take c, isData t = true) →
     KindsFit { x with iq := x.iq.set o.iq.toNat w } →
     ∃ y e, FallsThrough x y ∧ IsDone f e ∧
       exec (.drain n f o) s = .next (setRafter s p { y with
         units := x.units.set 0 (q ++ [e])
         iq := x.iq.set o.iq.toNat w }))

/-! ### The stream engine (R236 to R242, R288 to R308) -/

/-- Every transfer within its descriptor and its generators: its job joins the stream engine's, which goes on with its work.
LOAD and STORE of one row of `k` FP32 elements within the scratchpad, with the engine idle and the data sound: the bytes
at the source are at the destination, and every other byte of the scratchpad stays. XLOAD of `m` rows of one element: the
column is one row at the destination. -/
def Obligations.TransfersCopy : Prop :=
  (∀ (s : State) (n : RafterId) (p : Nat) (x : Rafter) (q : List InFlight) (f : Frame) (o : StreamOps) (hw : UnitCheck),
      Ready s n p x → Room x 1 q →
      ∀ i ∈ [(StreamOp.load, Instr.load n f o hw), (.store, .store n f o hw), (.xload, .xload n f o hw),
        (.gather, .gather n f o hw), (.scatter, .scatter n f o hw), (.scatterAdd, .scatterAdd n f o hw)],
      (let d := descOf x o.desc
       let j := jobOf x i.1 o hw (shapeValue x o.shp (dD0 d + dD1 d * 2 ^ 16))
       0 < j.d0 → j.d0 ≤ dD0 d → 0 < j.d1 → j.d1 ≤ dD1 d → mxRowOk (dType d) j.d0 = true → streamBoundsOk x j o = true →
       ∃ y e, FallsThrough x y ∧ IsWaiting f .stream e ∧
         exec i.2 s = .next (streamWork (setRafter s p { y with
           jobs := x.jobs ++ [j], units := x.units.set 1 (q ++ [e]) }) n))) ∧
  (∀ (s : State) (n : RafterId) (p : Nat) (x : Rafter) (q : List InFlight) (f : Frame) (o : StreamOps) (k : Nat),
      Ready s n p x → Room x 1 q → AllDone q → x.jobs = [] →
      ∀ i ∈ [(StreamOp.load, Instr.load n f o .pass), (.store, .store n f o .pass)],
      ScratchMove x i.1 o k 1 →
      ∃ t y z e, exec i.2 s = .next t ∧ OnlyRafter s t p ∧ t.rft[p]? = some y ∧ OnlyMoved x y z ∧ IsDone f e ∧
        y.units = x.units.set 1 (q ++ [e]) ∧
        (∀ j, j < 4 * k → memByte y.scratch ((agAddr x o.dag).toNat + j) = memByte x.scratch ((agAddr x o.sag).toNat + j)) ∧
        (∀ a, a < (agAddr x o.dag).toNat ∨ (agAddr x o.dag).toNat + 4 * k ≤ a → memByte y.scratch a = memByte x.scratch a)) ∧
  (∀ (s : State) (n : RafterId) (p : Nat) (x : Rafter) (q : List InFlight) (f : Frame) (o : StreamOps) (m : Nat),
      Ready s n p x → Room x 1 q → AllDone q → x.jobs = [] → ScratchMove x .xload o 1 m →
      ∃ t y z e, exec (.xload n f o .pass) s = .next t ∧ OnlyRafter s t p ∧ t.rft[p]? = some y ∧ OnlyMoved x y z ∧
        IsDone f e ∧ y.units = x.units.set 1 (q ++ [e]) ∧
        (∀ r, r < m → memWord y.scratch ((agAddr x o.dag).toNat + 4 * r) 4 =
          memWord x.scratch (agAddr x o.sag + (r : Int) * dSrs (descOf x o.desc)).toNat 4) ∧
        (∀ a, a < (agAddr x o.dag).toNat ∨ (agAddr x o.dag).toNat + 4 * m ≤ a → memByte y.scratch a = memByte x.scratch a))

/-- GATHER of one row of `k` FP32 elements within the scratchpad: the row that the index names is at the destination.
SCATTER writes the row that the index names; SCATTER.ADD adds to it, element by element with one rounding. Every other
byte of the scratchpad stays. A run-time shape above the planned one is a shape fault of every transfer; a shape with
an extent of zero completes and touches nothing. -/
def Obligations.IndexedTransfersAndShapes : Prop :=
  (∀ (s : State) (n : RafterId) (p : Nat) (x : Rafter) (q : List InFlight) (f : Frame) (o : StreamOps) (k : Nat),
      Ready s n p x → Room x 1 q → AllDone q → x.jobs = [] → ScratchMove x .gather o k 1 →
      (let a := agAddr x o.sag + indexWord x o * dSrs (descOf x o.desc)
       indexBad (agOf x o.sag) (indexWord x o) a (4 * k) = false →
       ∃ t y z e, exec (.gather n f o .pass) s = .next t ∧ OnlyRafter s t p ∧ t.rft[p]? = some y ∧ OnlyMoved x y z ∧
         IsDone f e ∧ y.units = x.units.set 1 (q ++ [e]) ∧
         (∀ j, j < 4 * k → memByte y.scratch ((agAddr x o.dag).toNat + j) = memByte x.scratch (a.toNat + j)) ∧
         (∀ b, b < (agAddr x o.dag).toNat ∨ (agAddr x o.dag).toNat + 4 * k ≤ b →
           memByte y.scratch b = memByte x.scratch b))) ∧
  (∀ (s : State) (n : RafterId) (p : Nat) (x : Rafter) (q : List InFlight) (f : Frame) (o : StreamOps) (k : Nat),
      Ready s n p x → Room x 1 q → AllDone q → x.jobs = [] →
      (let a := agAddr x o.dag + indexWord x o * dDrs (descOf x o.desc)
       let src := (agAddr x o.sag).toNat
       indexBad (agOf x o.dag) (indexWord x o) a (4 * k) = false →
       (ScratchMove x .scatter o k 1 →
         ∃ t y z e, exec (.scatter n f o .pass) s = .next t ∧ OnlyRafter s t p ∧ t.rft[p]? = some y ∧ OnlyMoved x y z ∧
           IsDone f e ∧ y.units = x.units.set 1 (q ++ [e]) ∧
           (∀ r, r < k → memWord y.scratch (a.toNat + 4 * r) 4 = memWord x.scratch (src + 4 * r) 4) ∧
           (∀ b, b < a.toNat ∨ a.toNat + 4 * k ≤ b → memByte y.scratch b = memByte x.scratch b)) ∧
       (ScratchMove x .scatterAdd o k 1 →
         ∃ t y z e, exec (.scatterAdd n f o .pass) s = .next t ∧ OnlyRafter s t p ∧ t.rft[p]? = some y ∧ OnlyMoved x y z ∧
           IsDone f e ∧ y.units = x.units.set 1 (q ++ [e]) ∧
           (∀ r, r < k → memWord y.scratch (a.toNat + 4 * r) 4 =
             (addR (BitVec.ofNat 32 (memWord x.scratch (a.toNat + 4 * r) 4))
               (BitVec.ofNat 32 (memWord x.scratch (src + 4 * r) 4))).1.toNat) ∧
           (∀ b, b < a.toNat ∨ a.toNat + 4 * k ≤ b → memByte y.scratch b = memByte x.scratch b)))) ∧
  (∀ (s : State) (n : RafterId) (p : Nat) (x : Rafter) (q : List InFlight) (f : Frame) (o : StreamOps) (hw : UnitCheck),
      Ready s n p x → Room x 1 q →
      (let d := descOf x o.desc
       let w := shapeValue x o.shp (dD0 d + dD1 d * 2 ^ 16)
       let six := [Instr.load n f o hw, .store n f o hw, .xload n f o hw, .gather n f o hw, .scatter n f o hw,
         .scatterAdd n f o hw]
       (dD0 d < w % 2 ^ 16 ∨ dD1 d < w / 2 ^ 16 % 2 ^ 16 → ∀ i ∈ six, exec i s = .next (shapeFault s n w)) ∧
       (w % 2 ^ 16 ≤ dD0 d → w / 2 ^ 16 % 2 ^ 16 ≤ dD1 d → w % 2 ^ 16 = 0 ∨ w / 2 ^ 16 % 2 ^ 16 = 0 → ∃ y e, FallsThrough x y ∧ IsDone f e ∧
          ∀ i ∈ six, exec i s = .next (setRafter s p { y with units := x.units.set 1 (q ++ [e]) }))))

/-- PREFETCH with the engine idle and fewer than 16 requests kept: the request of the extent at its address, with the
count of extents after it, joins the rafter's prefetch queue, and the instruction has finished. Where the engine is not
idle, the instruction joins its jobs. The oldest request of the queue goes on to the tier controller with a hold of 1 and
leaves the queue (R308, R432). UPD takes
its place in the issue port's queue, which goes on. From the valley buffer, where no earlier instruction has still to write
the tiles and no guard is used: a request with the tiles' values in order joins the queue of the shard's unit, the tiles that were written
become clean, and the instruction waits for its acceptance. With a run-time count of zero, and in safe hold, it
completes at once and sends nothing; with learning stopped it completes with an event. -/
def Obligations.PrefetchAndUpdIssue : Prop :=
  (∀ (s : State) (n : RafterId) (p : Nat) (x : Rafter) (q : List InFlight) (f : Frame) (sag : BitVec 4) (next : Byte),
      Ready s n p x → Room x 1 q → AllDone q → x.jobs = [] → x.prefetch.length < 16 →
      (agOf x sag).space = .unified → agOk x sag (agAddr x sag) 1 = true →
      ∃ t y z e, exec (.prefetch n f sag next) s = .next t ∧ OnlyRafter s t p ∧ t.rft[p]? = some y ∧ FallsThrough x z ∧
        IsDone f e ∧ y.units = x.units.set 1 (q ++ [e]) ∧ y.seq = z.seq ∧ y.scratch = x.scratch ∧ y.jobs = [] ∧
        y.prefetch = x.prefetch ++ [(BitVec.ofNat 19 ((agAddr x sag).toNat / 2 ^ 24), next, x.wgen)]) ∧
  (∀ (s : State) (n : RafterId) (p : Nat) (x : Rafter) (q : List InFlight) (f : Frame) (sag : BitVec 4) (next : Byte),
      Ready s n p x → Room x 1 q → (agOf x sag).space = .unified → agOk x sag (agAddr x sag) 1 = true →
      ∃ y e j, FallsThrough x y ∧ IsWaiting f .accept e ∧ j.op = .prefetch ∧ j.src = agAddr x sag ∧ j.next = next ∧
        exec (.prefetch n f sag next) s = .next (streamWork (setRafter s p { y with
          jobs := x.jobs ++ [j], units := x.units.set 1 (q ++ [e]) }) n)) ∧
  (∀ (s : State) (n : RafterId) (p : Nat) (x : Rafter) (e : BitVec 19) (next g : Byte)
      (rest : List (BitVec 19 × Byte × Byte)),
      physOf s n = some p → s.rft[p]? = some x → s.saf.resetReq = none → x.prefetch = (e, next, g) :: rest →
      exec (.prefetchForward n) s = .next (streamWork (requestPromotions false 1
        (min (next.toNat + 1) (2 ^ 19 - e.toNat)) e.toNat (setRafter s p { x with prefetch := rest })) n)) ∧
  (∀ (s : State) (n : RafterId) (p : Nat) (x : Rafter) (q : List InFlight) (f : Frame) (o : UpdOps) (hw : UnitCheck),
      Ready s n p x → Room x 9 q → s.saf.hold = false → s.upd.lstop = false →
      (let c := shapeValue x o.shp o.vtn.toNat
       let bytes := 4 * shElems (shardEntry s o.shard)
       (o.src = .valley → 0 < c ∧ c ≤ o.vtn.toNat) → (c = 0 → o.shp = .planned) →
       (o.src = .scratch → agSpanOk x o.sag (agAddr x o.sag) (agAddr x o.sag + (bytes : Nat)) = true) →
       ∃ y e, FallsThrough x y ∧ Queued f (.upd o hw c (agAddr x o.sag)) e ∧
         exec (.upd n f o hw) s = .next (startUpds (setRafter s p { y with units := x.units.set 9 (q ++ [e]) }) n))) ∧
  (∀ (s : State) (n : RafterId) (p : Nat) (x : Rafter) (q : List InFlight) (f : Frame) (o : UpdOps) (u : UpdUnit),
      Ready s n p x → Room x 9 q → AllDone q → NoJobs (unitQ x 2) → s.saf.hold = false → s.upd.lstop = false →
      o.src = .valley → (∀ g, (groupAt s g).guarded = false) → u.jobs = [] →
      (let c := shapeValue x o.shp o.vtn.toNat
       let k := receiver s (shEave (shardEntry s o.shard))
       0 < c → c ≤ o.vtn.toNat → c ≤ 64 → mayRead x o c = true → s.upd.units[k]? = some u →
       (∀ j, j < c → x.dirty.getLsbD ((o.vt0.toNat + j) % 64) = true) →
       ∃ t y e r, exec (.upd n f o .pass) s = .next t ∧ t.rft[p]? = some y ∧ IsWaiting f .accept e ∧
         y.units = x.units.set 9 (q ++ [e]) ∧
         (∀ j, j < 64 → y.dirty.getLsbD j = (x.dirty.getLsbD j && !decide (∃ i, i < c ∧ (o.vt0.toNat + i) % 64 = j))) ∧
         y.valley = x.valley ∧ y.scratch = x.scratch ∧
         t.upd.units[k]? = some { u with queue := u.queue ++ [r] } ∧
         r.rafter = some n ∧ r.shard = o.shard ∧ r.group = o.group ∧ r.tag = e.tag ∧
         r.vals = tileVals x o.vt0 c)) ∧
  (∀ (s : State) (n : RafterId) (p : Nat) (x : Rafter) (q : List InFlight) (f : Frame) (o : UpdOps) (hw : UnitCheck),
      Ready s n p x → Room x 9 q → o.src = .valley → shapeValue x o.shp o.vtn.toNat ≤ o.vtn.toNat →
      ∃ y e, FallsThrough x y ∧ IsDone f e ∧
        (let s1 := setRafter s p { y with units := x.units.set 9 (q ++ [e]) }
         (shapeValue x o.shp o.vtn.toNat = 0 ∨ s.saf.hold = true → exec (.upd n f o hw) s = .next s1) ∧
         (0 < shapeValue x o.shp o.vtn.toNat → s.saf.hold = false → s.upd.lstop = true →
            exec (.upd n f o hw) s = .next (event s1 (rafterUnit n) 0x9C 0 0))))

/-! ### Update and collective issue, the end of a course's work (R243 to R249) -/

/-- A COLL of whole chunks, at most its planned count, within its generators, takes its place in the issue port's queue, which
goes on. COLL.RS, COLL.AG and COLL.AR in safe hold or with a run-time count of zero: the ordinal of the descriptor rises; with
zero only RSPAR is added to, in safe hold the status word is 6 (R246, R526). COLL.RS and COLL.AR without compression,
COLL.AG and COLL.FR in a group of several members and out of safe hold, with their source readable: an instance starts
under XFER = ordinal × 1024 + CDESC, holding the device's contribution, and awaits what the other members send.
COLL.FR in safe hold: its status word is 6. -/
def Obligations.Collectives : Prop :=
  (∀ (s : State) (n : RafterId) (p : Nat) (x : Rafter) (q : List InFlight) (f : Frame) (o : CollOps) (hw : UnitCheck),
      Ready s n p x → Room x 9 q →
      (let d := cdOf s o.cdesc.toNat
       let c := shapeValue x o.shp (cdCount d)
       let k := axisSize s.lnk (cdAxis d)
       let src := agAddr x o.sag
       let dst := agAddr x o.dag
       let out := fun (op : Nat) => vectorBytes (cdDtype d) (if op = 0 then c / k else c)
       c ≤ cdCount d → c % (4096 * k) = 0 →
       (∀ i ∈ [(0, Instr.collRs n f o hw), (1, .collAg n f o hw), (2, .collAr n f o hw)],
         (c = 0 ∨ s.saf.hold = true ∨ (agSpanOk x o.sag src (src + vectorBytes (cdStype d) c) = true ∧
           ((i.1 = 0 ∧ cdArrive d = true) ∨ agSpanOk x o.dag dst (dst + out i.1) = true))) →
         ∃ y e, FallsThrough x y ∧ Queued f (.coll i.1 o hw c src dst) e ∧
           exec i.2 s = .next (startIssue (setRafter s p { y with units := x.units.set 9 (q ++ [e]) }) n)) ∧
       (s.saf.hold = true ∨ agSpanOk x o.dag dst (dst + 4) = true →
         ∃ y e, FallsThrough x y ∧ Queued f (.coll 3 o .pass 0 0 dst) e ∧
           exec (.collFr n f o) s = .next (startIssue (setRafter s p { y with units := x.units.set 9 (q ++ [e]) }) n)))) ∧
  (∀ (s : State) (n : RafterId) (p : Nat) (x : Rafter) (q : List InFlight) (f : Frame) (o : CollOps) (hw : UnitCheck),
      Ready s n p x → Room x 9 q → AllDone q →
      (let d := cdOf s o.cdesc.toNat
       let c := shapeValue x o.shp (cdCount d)
       let crs := BitVec.ofNat 32 s.crs.course.toNat
       c ≤ cdCount d → c % (4096 * axisSize s.lnk (cdAxis d)) = 0 →
       ∃ y e, FallsThrough x y ∧ IsDone f e ∧
         (let s1 := Numbered s p { y with units := x.units.set 9 (q ++ [e]) } o.cdesc.toNat
          ∀ i ∈ [Instr.collRs n f o hw, .collAg n f o hw, .collAr n f o hw],
            (c = 0 → exec i s = .next (addRspar s1 d o.rspar crs)) ∧
            (c ≠ 0 → s.saf.hold = true → exec i s = .next (putStatus s1 d o.rspar crs 6))))) ∧
  (∀ (s : State) (n : RafterId) (p : Nat) (x : Rafter) (q : List InFlight) (f : Frame) (o : CollOps),
      Ready s n p x → Room x 9 q → AllDone q → s.saf.hold = false → (∀ l ∈ s.lnk.ports, l.staged = []) →
      (let d := cdOf s o.cdesc.toNat
       let c := shapeValue x o.shp (cdCount d)
       let k := axisSize s.lnk (cdAxis d)
       let ord := tableGet 0 s.lnk.ordinals o.cdesc.toNat
       let xfer := BitVec.ofNat 16 (ord * 1024 + o.cdesc.toNat)
       let crs := BitVec.ofNat 32 s.crs.course.toNat
       2 ≤ k → c ≤ cdCount d → 0 < c → c % (4096 * k) = 0 →
       agSpanOk x o.sag (agAddr x o.sag) (agAddr x o.sag + vectorBytes (cdStype d) c) = true →
       agSpanOk x o.dag (agAddr x o.dag) (agAddr x o.dag + vectorBytes (cdDtype d) c) = true →
       (∀ j ∈ s.lnk.insts, j.xfer ≠ xfer ∨ j.course ≠ crs) →
       ∃ y e, FallsThrough x y ∧ IsDone f e ∧
         (let s1 := Numbered s p { y with units := x.units.set 9 (q ++ [e]) } o.cdesc.toNat
          ∀ s2 bs, unifiedRead s1 none (agAddr x o.sag).toNat (vectorBytes (cdStype d) c) = (s2, .ok bs) →
            (cdComp d = 0 →
              ∃ t i, exec (.collAr n f o .pass) s = .next t ∧ t.lnk.insts = s.lnk.insts ++ [i] ∧ i.xfer = xfer ∧
                i.course = crs ∧ i.op = 2 ∧ i.own = sourceVals (cdStype d) c bs ∧ i.left = c / k ∧ i.done = false) ∧
            (cdComp d = 0 → agSpanOk x o.dag (agAddr x o.dag) (agAddr x o.dag + vectorBytes (cdDtype d) (c / k)) = true →
              ∃ t i, exec (.collRs n f o .pass) s = .next t ∧ t.lnk.insts = s.lnk.insts ++ [i] ∧ i.xfer = xfer ∧
                i.course = crs ∧ i.op = 0 ∧ i.own = sourceVals (cdStype d) c bs ∧ i.left = c / k ∧ i.done = false) ∧
            (∃ t i, exec (.collAg n f o .pass) s = .next t ∧ t.lnk.insts = s.lnk.insts ++ [i] ∧ i.xfer = xfer ∧
                i.course = crs ∧ i.op = 1 ∧ 0 < i.gleft ∧ i.gleft = (k - 1) * chunkBytes i ∧ i.done = false)))) ∧
  (∀ (s : State) (n : RafterId) (p : Nat) (x : Rafter) (q : List InFlight) (f : Frame) (o : CollOps),
      Ready s n p x → Room x 9 q → AllDone q → (∀ l ∈ s.lnk.ports, l.staged = []) →
      (s.saf.hold = true ∨ agSpanOk x o.dag (agAddr x o.dag) (agAddr x o.dag + 4) = true) →
      (let d := cdOf s o.cdesc.toNat
       let ord := tableGet 0 s.lnk.ordinals o.cdesc.toNat
       let xfer := BitVec.ofNat 16 (ord * 1024 + o.cdesc.toNat)
       let crs := BitVec.ofNat 32 s.crs.course.toNat
       2 ≤ axisSize s.lnk (cdAxis d) → (∀ j ∈ s.lnk.insts, j.xfer ≠ xfer ∨ j.course ≠ crs) →
       (s.saf.hold = false → ∃ t i, exec (.collFr n f o) s = .next t ∧ t.lnk.insts = s.lnk.insts ++ [i] ∧ i.xfer = xfer ∧
          i.course = crs ∧ i.op = 3 ∧ i.flag = o.flag ∧ i.left = axisSize s.lnk (cdAxis d) - 1 ∧ i.done = false) ∧
       (s.saf.hold = true → ∃ y e, FallsThrough x y ∧ IsDone f e ∧
          exec (.collFr n f o) s = .next (putStatus
            (Numbered s p { y with units := x.units.set 9 (q ++ [e]) } o.cdesc.toNat) d o.rspar crs 6))))

/-- CRS.END, CRS.END.D and HALT take their place in the sequencer's queue, which goes on, and after CRS.END and HALT nothing
issues; a second CRS.END.D acts as NOP. While an instruction issued before it has not completed, the end waits. With
every earlier instruction of the rafter complete: CRS.END on a rafter that is not marked for the decision phase signals
its completion spar, and the rafter idles; CRS.END.D: the rafter's decision work is done, and the decision ends when no
other marked rafter has still to execute it, in time; HALT: a gutter record with CODE, RFT_SEQ_FLAGS.HALTED, and the
program's stop at the boundary; the rafter idles. -/
def Obligations.CourseWorkEnds : Prop :=
  (∀ (s : State) (n : RafterId) (p : Nat) (x : Rafter) (q : List InFlight) (f : Frame), Ready s n p x → Room x 0 q →
      ∃ (y : Rafter) (e : InFlight), FallsThrough x y ∧
        (let At := fun (j : UnitJob) (z : Rafter) => seqWork (setRafter s p { z with
           units := x.units.set 0 (q ++ [{ e with job := some j }]) }) n
         e.cspar = f.cspar ∧ e.done = false ∧ e.acks = 0 ∧
         exec (.crsEnd n f) s = .next (At (.finish none) { y with seq := { y.seq with ended := true } }) ∧
         (∀ code, exec (.halt n f code) s = .next (At (.finish (some code)) { y with seq := { y.seq with ended := true } })) ∧
         (x.seq.decDone = false → endWaits x = false → exec (.crsEndD n f) s = .next (At .endD y)) ∧
         (x.seq.decDone = true ∨ endWaits x = true → exec (.crsEndD n f) s = .next (Completed s n p f y)))) ∧
  (∀ (s : State) (n : RafterId) (p : Nat) (x : Rafter) (f : Frame), Ready s n p x → Room x 0 [] →
      (∃ l ∈ x.units.drop 1, ∃ g ∈ l, g.after = false) →
      ∃ y e, FallsThrough x y ∧ Queued f (.finish none) e ∧
        exec (.crsEnd n f) s = .next (setRafter s p { y with
          units := x.units.set 0 [e], seq := { y.seq with ended := true } })) ∧
  (∀ (s : State) (n : RafterId) (p : Nat) (x : Rafter) (f : Frame), Ready s n p x → Room x 0 [] →
      (∀ l ∈ x.units, l = []) → ∃ y, FallsThrough x y ∧
        (x.decision = false → exec (.crsEnd n f) s = .next { Completed s n p f { y with
            idle := true, seq := { y.seq with ended := true, endedAt := some s.now } } with
          crs := { s.crs with lastEnd := some s.now } }) ∧
        (x.seq.decDone = false →
          (let t := Completed s n p f { y with seq := { y.seq with decDone := true } }
           (markedDone t = false ∨ s.crs.phase ≠ 1 → exec (.crsEndD n f) s = .next t) ∧
           (markedDone t = true → s.crs.phase = 1 → decisionInTime s = true →
             exec (.crsEndD n f) s = .next (finishEnds (startSeq (decisionEnd t) n) n)))) ∧
        (∀ code : W16, x.decision = false → s.saf.queue.length < 224 →
          ∃ t z, exec (.halt n f code) s = .next t ∧ t.rft[p]? = some z ∧ z.seq.halted = true ∧ z.idle = true ∧
            z.scratch = x.scratch ∧ t.crs = { s.crs with haltStop := true, lastEnd := some s.now } ∧
            t.saf = { s.saf with queue := s.saf.queue ++
              [gutterRec s (rafterUnit n) .event 0xD6 0 (code.zeroExtend 32) 0] } ∧
            (∀ r, r ≠ p → t.rft[r]? = s.rft[r]?)))

/-- The oldest instruction of a unit completes once its work and its acknowledgements are in: it leaves the queue, what its
completion does to its unit is done (a product's buffer holds its result, or is EMPTY after a drain), its completion spar
is signalled, and the units go on with what waits in them. Until then the units only go on; where nothing waits in them,
nothing else happens. The signal is a SIGNAL.ADD of 1 to the spar that CSPAR names, and there is none for 0xFFFF (R205). -/
def Obligations.OldestInstructionCompletes : Prop :=
  ∀ (s : State) (n : RafterId) (p : Nat) (x : Rafter) (u : ExecUnit) (e : InFlight) (rest : List InFlight),
    physOf s n = some p → s.rft[p]? = some x → working s = true → x.units[unitIndex u]? = some (e :: rest) →
    (∀ g c, c = 0xFFFF → signalDone s (rafterUnit n) g c = s) ∧
    (∀ g c, c ≠ 0xFFFF → signalDone s (rafterUnit n) g c = sendSpar s (rafterUnit n) g c .signalAdd 0 1) ∧
    (∀ b, e.kind = .empties b → finishEntry x e = { x with acc := x.acc.set (b2n b) Acc.reset, taMode := modeAfter x }) ∧
    (streamWork s n = s →
      (let z := { x with units := x.units.set (unitIndex u) rest, progress := 0 }
       let t := signalDone (setRafter s p (finishEntry z e)) (rafterUnit n) (placeTag x e.place) e.cspar
       (e.done = true → e.acks = 0 → exec (.instructionComplete n u) s = .next (unitsGoOn t n)) ∧
       (e.done = false ∨ e.acks ≠ 0 → exec (.instructionComplete n u) s = .next (unitsGoOn s n)) ∧
       (NothingWaits x → u ≠ .stream →
         (e.done = true → e.acks = 0 → (∀ b, e.kind ≠ .holds b ∧ e.kind ≠ .empties b) → e.kind ≠ .checks →
           exec (.instructionComplete n u) s = .next (signalDone (setRafter s p z) (rafterUnit n)
             (placeTag x e.place) e.cspar)) ∧
         (e.done = false ∨ e.acks ≠ 0 → exec (.instructionComplete n u) s = .next s))))

/-! ### The tensor array (R134 to R163, R251 to R268) -/

/-- TLD takes its place in the tensor array's queue, which goes on. With the shadow register free and every earlier
instruction of the queue finished, the shadow holds the block's types, extents, address and elements as they stand in the
scratchpad. With a block that no product has taken, the instruction waits in the queue (R142). -/
def Obligations.TldLoadsTheShadow : Prop :=
  ∀ (s : State) (n : RafterId) (p : Nat) (x : Rafter) (q : List InFlight) (f : Frame) (o : TensorOps),
    Ready s n p x → Room x 2 q →
    (let d := descOf x o.td
     let w := shapeValue x o.shp (dTshape d)
     shN w ≤ shN (dTshape d) → shK w ≤ shK (dTshape d) → 0 < shN w → 0 < shK w →
     operandOk x o.bag o.btype (shN w) (shK w) (dBstr d) (dBsoff d) (dBsstr d) = true →
     (∀ hw, ∃ y e, FallsThrough x y ∧ Queued f (.tld o hw (shN w) (shK w) (agAddr x o.bag)) e ∧
       (let t := setRafter s p { y with units := x.units.set 2 (q ++ [e]) }
        exec (.tld n f o hw) s = .next (startTensor t n) ∧
        (AllDone q → x.shadow ≠ none → exec (.tld n f o hw) s = .next t))) ∧
     (AllDone q → x.shadow = none → shN w ≤ 64 →
       ∃ y e b, exec (.tld n f o .pass) s = .next (setRafter s p { y with
           units := x.units.set 2 (q ++ [e]), shadow := some b }) ∧
         FallsThrough x y ∧ IsDone f e ∧ b.btype = o.btype ∧ b.buns = o.buns ∧ b.n = shN w ∧ b.k = shK w ∧ b.td = o.td ∧
         b.addr = (agAddr x o.bag).toNat ∧
         (∀ j k, j < shN w → k < shK w → k < 64 * chunkWidth o.btype →
           tableGet 0 b.elems (64 * chunkWidth o.btype * j + k) =
             BitVec.ofNat 32 (elemAt x.scratch (b.addr + j * dBstr d) (elemBits o.btype) k))))

/-- TMM, TMMA and TMMV within their planned shape and their generators take their place in the tensor array's queue, with the
output entries of a drain reserved, and the array goes on. With every earlier instruction of the queue finished and the
buffer not draining, TMM, TMMA and TMMV without a drain: each element of the region is the dot product of its row and column from its
starting value, which is +0 for TMM, the buffer's element for TMMA, and the tile's for TMMV (R137). TMM leaves the other
elements of its buffer at +0, TMMA and TMMV leave those of the buffer or tile as they were. The scratchpad stays. -/
def Obligations.ProductsFillTheirRegion : Prop :=
  ∀ (s : State) (n : RafterId) (p : Nat) (x x1 : Rafter) (q : List InFlight) (a : Acc) (f : Frame) (o : TensorOps)
    (m c k : Nat),
    Ready s n p x → Room x 2 q → x.acc[b2n o.buf]? = some a → x1 = takeShadow x o.ws →
    (let w := shapeValue x o.shp (dTshape (descOf x o.td))
     productOversize o w (dTshape (descOf x o.td)) = false → productExtents x o w = (m, c, k) →
     0 < m → m ≤ 64 → 0 < c → c ≤ 64 → 0 < k → productBoundsOk x o m c k = true →
     (∀ hw, ∀ i ∈ [(ProductKind.tmm, Instr.tmm n f o hw), (.tmma, .tmma n f o hw), (.tmmv, .tmmv n f o hw)],
       productFire f o x = none → ∃ y e, FallsThrough x y ∧
         Queued f (.product i.1 o hw m c k (agAddr x o.aag) (agAddr x o.bag) (agAddr x o.dag)
           (if i.1 = .tmmv then readsDue x o.vt else 0)) e ∧ e.resv = productEntries i.1 o ∧
         exec i.2 s = .next (startTensor (setRafter s p { y with units := x.units.set 2 (q ++ [e]) }) n)) ∧
     (AllDone q → NoJobs q → a.st ≠ 3 → f.fire = .none → o.drn = false →
     (let A := (productOperands x1 o m c k).1
     let B := (productOperands x1 o m c k).2
     (∃ y z e, exec (.tmm n f o .pass) s = .next (setRafter s p y) ∧ PassedOn x y z 2 (q ++ [e]) ∧ e.done = true ∧
       y.scratch = x.scratch ∧ y.valley = x.valley ∧ (accOf y o.buf).st = 1 ∧
       (∀ i j, i < 64 → j < 64 → accCell (accOf y o.buf) i j =
         match A[i]?, B[j]? with
         | some r, some l => (dotElement r l 0 false).1
         | _, _ => 0)) ∧
     (∃ y z e, exec (.tmma n f o .pass) s = .next (setRafter s p y) ∧ PassedOn x y z 2 (q ++ [e]) ∧ e.done = true ∧
       y.scratch = x.scratch ∧ y.valley = x.valley ∧ (accOf y o.buf).st = 1 ∧
       (∀ i j, i < 64 → j < 64 → accCell (accOf y o.buf) i j =
         match A[i]?, B[j]? with
         | some r, some l => (dotElement r l (accCell a i j) (a.stuck.contains (64 * i + j))).1
         | _, _ => accCell a i j)) ∧
     (readsDue x o.vt = 0 → ∃ y z e, exec (.tmmv n f o .pass) s = .next (setRafter s p y) ∧ PassedOn x y z 2 (q ++ [e]) ∧ e.done = true ∧
       y.scratch = x.scratch ∧ y.dirty.getLsbD o.vt.toNat = true ∧
       (∀ t, t < 64 → t ≠ o.vt.toNat → y.dirty.getLsbD t = x.dirty.getLsbD t) ∧
       (∀ t i j, t ≠ o.vt → i < 64 → j < 64 → valleyCell y t i j = valleyCell x t i j) ∧
       (∀ i j, i < 64 → j < 64 → valleyCell y o.vt i j =
         match A[i]?, B[j]? with
         | some r, some l => (dotElement r l (if o.clr then 0 else valleyCell x o.vt i j) false).1
         | _, _ => valleyCell x o.vt i j)))))

/-- The self-tests. TCHK on a sound buffer, V.CHK and RN.CHK whose computation agrees: the instruction finishes and no
contents change; TCHK waits in its queue while a buffer is accumulating or draining. A mismatch of V.CHK or RN.CHK is
lasting. A row of a buffer that agrees with its checksum lane leaves the scrubber one row further; one that does not is
handed to the check of the buffer (R161). -/
def Obligations.SelfTestsPassOrAreLasting : Prop :=
  ∀ (s : State) (n : RafterId) (p : Nat) (x : Rafter) (f : Frame), Ready s n p x →
    (∀ q b, Room x 2 q → AllDone q → (∀ a ∈ x.acc, a.st ≠ 1 ∧ a.st ≠ 3) → (∀ g ∈ q, g.kind ≠ .loads) →
      accSound (accOf x b) = true → ∃ y e, FallsThrough x y ∧ IsDone f e ∧
        exec (.tchk n f b .pass) s = .next (setRafter s p { y with units := x.units.set 2 (q ++ [e]), taMode := 3 })) ∧
    (∀ q b hw, Room x 2 q → ∃ y e, FallsThrough x y ∧ Queued f (.tchk b hw) e ∧
      (let t := setRafter s p { y with units := x.units.set 2 (q ++ [e]) }
       exec (.tchk n f b hw) s = .next (startTensor t n) ∧
       (AllDone q → (∃ a ∈ x.acc, a.st = 1 ∨ a.st = 3) → exec (.tchk n f b hw) s = .next t))) ∧
    (∀ q, Room x 3 q → ∃ y e, FallsThrough x y ∧ IsDone f e ∧
      (let s1 := setRafter s p { y with units := x.units.set 3 (q ++ [e]) }
       let z := fun info => noteCheck (rafterAt s1 p) (workAt x.seq.idx false) 0x55 info
       (∀ hw, mismatchOf 0x55 hw = none → exec (.vChk n f hw) s = .next s1) ∧
       ∀ info, exec (.vChk n f (.once 0x55 info)) s = .next (lastingResponse (setRafter s1 p (z info)) (rafterUnit n) 0x55
         (z info).vrInfo 0 0))) ∧
    (∀ q, Room x 4 q → ∃ y e, FallsThrough x y ∧ IsDone f e ∧
      (let s1 := setRafter s p { y with units := x.units.set 4 (q ++ [e]) }
       let z := fun info => noteCheck (rafterAt s1 p) (workAt x.seq.idx true) 0x56 info
       (∀ hw, mismatchOf 0x56 hw = none → exec (.rnChk n f hw) s = .next s1) ∧
       ∀ info, exec (.rnChk n f (.once 0x56 info)) s = .next (lastingResponse (setRafter s1 p (z info)) (rafterUnit n) 0x56
         (z info).vrInfo 0 0))) ∧
    (∀ b i, x.scrubRow[b2n b]? = some i →
      (let t := setRafter s p { x with scrubRow := x.scrubRow.set (b2n b) (i + 1) }
       (rowXor (accOf x b) i.toNat = tableGet 0 (accOf x b).rows i.toNat → exec (.accumulatorScrub n b) s = .next t) ∧
       (rowXor (accOf x b) i.toNat ≠ tableGet 0 (accOf x b).rows i.toNat →
         exec (.accumulatorScrub n b) s = .next (checkAcc t n b))))

/-! ### The vector and row engines (R164 to R197, R269 to R284) -/

/-- An element-wise vector instruction outside a chain: word `i` of its destination is the operation on the operands at
element `i`, a NaN as the canonical one (Table 4.5), and every other byte of the scratchpad stays. Any vector instruction
with CHAIN joins the chain and awaits its end; the last one runs the chain over the count of its first, completes its
instructions and leaves the pass registers that it wrote with free values; over no elements it writes nothing. -/
def Obligations.VectorInstructionsWriteTheirResults : Prop :=
  (∀ (s : State) (n : RafterId) (p : Nat) (x : Rafter) (q : List InFlight) (f : Frame) (o : VectorOps) (e : Nat),
    Ready s n p x → Room x 3 q → (∀ g ∈ q, g.kind ≠ .chain) →
    ∀ i ∈ [(VecOp.add, Instr.vAdd n f o .pass), (.sub, .vSub n f o .pass), (.mul, .vMul n f o .pass),
      (.min, .vMin n f o .pass), (.max, .vMax n f o .pass), (.fma, .vFma n f o .pass), (.abs, .vAbs n f o .pass),
      (.neg, .vNeg n f o .pass), (.cvt, .vCvt n f o .pass), (.cmpLt, .vCmpLt n f o .pass), (.cmpLe, .vCmpLe n f o .pass),
      (.cmpEq, .vCmpEq n f o .pass), (.sel, .vSel n f o .pass), (.exp2, .vExp2 n f o .pass), (.log2, .vLog2 n f o .pass),
      (.rcp, .vRcp n f o .pass), (.sqrt, .vSqrt n f o .pass), (.rsqrt, .vRsqrt n f o .pass), (.tanh, .vTanh n f o .pass)],
    PlainVector x i.1 f o e →
    ∃ y z g, exec i.2 s = .next (setRafter s p y) ∧ PassedOn x y z 3 (q ++ [g]) ∧ IsDone f g ∧
      (∀ k, k < e → memWord y.scratch ((agAddr x o.dst).toNat + 4 * k) 4 = (fp32Store (laneResult x i.1 o e k)).toNat) ∧
      (∀ a, a < (agAddr x o.dst).toNat ∨ (agAddr x o.dst).toNat + 4 * e ≤ a → memByte y.scratch a = memByte x.scratch a) ∧
      y.pass = x.pass ∧ y.valley = x.valley ∧ y.soffit = x.soffit ∧ y.acc = x.acc ∧ y.veCount = x.veCount) ∧
  (∀ (s : State) (n : RafterId) (p : Nat) (x : Rafter) (q : List InFlight) (f : Frame) (o : VectorOps),
    Ready s n p x → Room x 3 q →
    (let e := vecCount x o
     let entry := fun (k : Await) (d : Bool) => { flight f k d with place := x.seq.idx }
     (x.chain = [] → e ≤ o.count.toNat) → ∀ i ∈ [(VecOp.add, Instr.vAdd n f o .pass), (.sub, .vSub n f o .pass),
      (.mul, .vMul n f o .pass), (.min, .vMin n f o .pass), (.max, .vMax n f o .pass), (.fma, .vFma n f o .pass),
      (.abs, .vAbs n f o .pass), (.neg, .vNeg n f o .pass), (.cvt, .vCvt n f o .pass), (.cmpLt, .vCmpLt n f o .pass),
      (.cmpLe, .vCmpLe n f o .pass), (.cmpEq, .vCmpEq n f o .pass), (.sel, .vSel n f o .pass), (.exp2, .vExp2 n f o .pass),
      (.log2, .vLog2 n f o .pass), (.rcp, .vRcp n f o .pass), (.sqrt, .vSqrt n f o .pass), (.rsqrt, .vRsqrt n f o .pass),
      (.tanh, .vTanh n f o .pass), (.qmx, .vQmx n f o .pass), (.redSum, .vRedSum n f o .pass),
      (.redMax, .vRedMax n f o .pass), (.foldSum, .vFoldSum n f o .pass), (.foldMax, .vFoldMax n f o .pass)],
     (e = 0 ∨ vecBoundsOk x i.1 o e = true) →
     (let v := vecStep x i.1 o e
      (f.chain = true → exec i.2 s =
        .next (setRafter s p (placed { advanced x with chain := x.chain ++ [v] } 3 (entry .chain false)))) ∧
      (f.chain = false → e = 0 → exec i.2 s =
        .next (setRafter s p (placed (finishKind { advanced x with chain := [] } 3 .chain) 3 (entry .none true)))) ∧
      (f.chain = false → 0 < e → exec i.2 s = .next (spoilPass (setRafter s p
        (placed (finishKind { chainStore s n (advanced x) x.chain v e with chain := [] } 3 .chain) 3 (entry .none true)))
        p x.chain)))))

/-- V.RED.SUM and V.RED.MAX of at most 256 elements outside a chain leave one partial per lane, from +0 or −∞;
V.FOLD.SUM and V.FOLD.MAX leave one word, the fold of 256 lane values; V.QMX of one whole block leaves its scale byte
through DST + 1. -/
def Obligations.VectorReductionsAndQuantisation : Prop :=
  ∀ (s : State) (n : RafterId) (p : Nat) (x : Rafter) (q : List InFlight) (f : Frame) (o : VectorOps) (e : Nat),
    Ready s n p x → Room x 3 q → (∀ g ∈ q, g.kind ≠ .chain) → o.bf = false →
    (PlainVector x .redSum f o e → e ≤ 256 →
      ∃ y z g, exec (.vRedSum n f o .pass) s = .next (setRafter s p y) ∧ PassedOn x y z 3 (q ++ [g]) ∧ IsDone f g ∧
        (∀ l, l < 256 → memWord y.scratch ((agAddr x o.dst).toNat + 4 * l) 4 =
          if l < e then (addR 0 (laneA x .redSum o e l)).1.toNat else 0)) ∧
    (PlainVector x .redMax f o e → e ≤ 256 →
      ∃ y z g, exec (.vRedMax n f o .pass) s = .next (setRafter s p y) ∧ PassedOn x y z 3 (q ++ [g]) ∧ IsDone f g ∧
        (∀ l, l < 256 → memWord y.scratch ((agAddr x o.dst).toNat + 4 * l) 4 =
          if l < e then (pickV false 0xFF800000 (laneA x .redMax o e l)).toNat else 0xFF800000)) ∧
    (PlainVector x .foldSum f o e →
      ∃ y z g, exec (.vFoldSum n f o .pass) s = .next (setRafter s p y) ∧ PassedOn x y z 3 (q ++ [g]) ∧ IsDone f g ∧
        memWord y.scratch (agAddr x o.dst).toNat 4 =
          ((foldLanes false 8 128 ((List.range 256).map (laneA x .foldSum o e))).1.getD 0 0).toNat) ∧
    (PlainVector x .foldMax f o e →
      ∃ y z g, exec (.vFoldMax n f o .pass) s = .next (setRafter s p y) ∧ PassedOn x y z 3 (q ++ [g]) ∧ IsDone f g ∧
        memWord y.scratch (agAddr x o.dst).toNat 4 =
          ((foldLanes true 8 128 ((List.range 256).map (laneA x .foldMax o e))).1.getD 0 0).toNat) ∧
    (f.chain = false → x.chain = [] → o.dk = .stream → isMx o.dtype = true →
      shapeValue x o.shp o.count.toNat = 32 → 32 ≤ o.count.toNat → vecBoundsOk x .qmx o 32 = true →
      ∃ y z g, exec (.vQmx n f o .pass) s = .next (setRafter s p y) ∧ PassedOn x y z 3 (q ++ [g]) ∧ IsDone f g ∧
        memByte y.scratch (agAddr x (o.dst + 1)).toNat =
          (quantBlock o.dtype ((List.range 32).map (laneA x .qmx o 32))).1)

/-- The special values of the vector operations (R170): sign changes and selections keep the bits they pass; minimum and
maximum give the canonical NaN where an operand is a NaN; a comparison with a NaN is false; and the functions take the
values that R170 lists, with DIVZ and DOM. -/
def Obligations.VectorSpecialValues : Prop :=
  (∀ (bf : Bool) (a b c : W32),
    (laneOp .abs bf a b c).1 = a &&& 0x7FFFFFFF ∧ (laneOp .neg bf a b c).1 = a ^^^ 0x80000000 ∧
    (laneOp .sel bf a b c).1 = (if c = 0 ∨ c = 0x80000000 then b else a) ∧
    ((isNan (fv a) = true ∨ isNan (fv b) = true) →
      (laneOp .min bf a b c).1 = 0x7FC00000 ∧ (laneOp .max bf a b c).1 = 0x7FC00000 ∧
      (laneOp .cmpLt bf a b c).1 = 0 ∧ (laneOp .cmpLe bf a b c).1 = 0 ∧ (laneOp .cmpEq bf a b c).1 = 0)) ∧
  (laneOp .exp2 false 0xFF800000 0 0).1 = 0 ∧ (laneOp .exp2 false 0x7F800000 0 0).1 = 0x7F800000 ∧
  (∀ a : W32, a = 0 ∨ a = 0x80000000 →
    (laneOp .log2 false a 0 0) = (0xFF800000, vfDivz) ∧
    (laneOp .rcp false a 0 0) = (if a = 0 then 0x7F800000 else 0xFF800000, vfDivz) ∧
    (laneOp .rsqrt false a 0 0) = (if a = 0 then 0x7F800000 else 0xFF800000, vfDivz) ∧
    (laneOp .sqrt false a 0 0) = (a, 0)) ∧
  (∀ a : W32, isNeg (fv a) = true → isZero (fv a) = false → isInf (fv a) = false →
    (laneOp .log2 false a 0 0) = (0x7FC00000, vfDom) ∧ (laneOp .sqrt false a 0 0) = (0x7FC00000, vfDom) ∧
    (laneOp .rsqrt false a 0 0) = (0x7FC00000, vfDom)) ∧
  (laneOp .log2 false 0x7F800000 0 0).1 = 0x7F800000 ∧
  (laneOp .tanh false 0x7F800000 0 0).1 = 0x3F800000 ∧ (laneOp .tanh false 0xFF800000 0 0).1 = 0xBF800000

/-- A row instruction on one row: word `k` of its destination is element `k` of the operation's result (Tables 5.3 and
5.4), and every other byte of the scratchpad stays. A forward one leaves its record at BASE in the soffit; a backward one
reads the record there and changes none. Any row instruction whose shape lies within its planned one, and whose streams lie
within their generators, processes its rows in ascending order; one over no rows or no elements writes nothing. -/
def Obligations.RowInstructionsOnOneRow : Prop :=
  (∀ (s : State) (n : RafterId) (p : Nat) (x : Rafter) (q : List InFlight) (f : Frame) (o : RowOps) (len : Nat),
    Ready s n p x → Room x 4 q →
    (let plan := shRowLen (dTshape (descOf x o.td))
     let X := rowX x o len
     let D := rowDy x o len
     let G := rowGamma x o len
     let old := unpackRec (soffitAt x o.base.toNat)
     let Gives := fun (i : Instr) (out : List W32) (rec : Option RowRec) =>
       ∃ y z g, exec i s = .next (setRafter s p y) ∧ PassedOn x y z 4 (q ++ [g]) ∧ IsDone f g ∧
         (∀ k, k < len → memWord y.scratch ((agAddr x o.oag).toNat + 4 * k) 4 = (out.getD k 0).toNat) ∧
         (∀ a, a < (agAddr x o.oag).toNat ∨ (agAddr x o.oag).toNat + 4 * len ≤ a →
           memByte y.scratch a = memByte x.scratch a) ∧
         (∀ b, soffitAt y b = match rec with
           | some r => if b = o.base.toNat then packRec r else soffitAt x b
           | none => soffitAt x b)
     (OneRow x .ln o len → Gives (.rnLn n f o .pass) (rowLn len X G (rowBeta x o plan len) o.imm).1
       (some (rowLn len X G (rowBeta x o plan len) o.imm).2.1)) ∧
     (OneRow x .rms o len → Gives (.rnRms n f o .pass) (rowRms len X G o.imm).1 (some (rowRms len X G o.imm).2.1)) ∧
     (OneRow x .smx o len → Gives (.rnSmx n f o .pass) (rowSmx len X o.imm).1 (some (rowSmx len X o.imm).2.1)) ∧
     (OneRow x .lnB o len → Gives (.rnLnB n f o .pass) (rowNormB true len X D G old).1 none) ∧
     (OneRow x .rmsB o len → Gives (.rnRmsB n f o .pass) (rowNormB false len X D G old).1 none) ∧
     (OneRow x .smxB o len → Gives (.rnSmxB n f o .pass) (rowSmxB len X D o.imm old).1 none))) ∧
  (∀ (s : State) (n : RafterId) (p : Nat) (x : Rafter) (q : List InFlight) (f : Frame) (o : RowOps),
    Ready s n p x → Room x 4 q →
    (let planned := dTshape (descOf x o.td)
     let sw := shapeWord x o.shp planned
     shR sw ≤ shR planned → shRowLen sw ≤ shRowLen planned →
     ∀ i ∈ [(RowKind.ln, Instr.rnLn n f o .pass), (.rms, .rnRms n f o .pass), (.smx, .rnSmx n f o .pass),
       (.lnB, .rnLnB n f o .pass), (.rmsB, .rnRmsB n f o .pass), (.smxB, .rnSmxB n f o .pass)],
     (shR sw = 0 ∨ shRowLen sw = 0 → exec i.2 s = .next (setRafter s p (placedDone x 4 f))) ∧
     (0 < shR sw → 0 < shRowLen sw → rowBoundsOk x o i.1 (shRowLen planned) (shR sw) (shRowLen sw) = true →
       exec i.2 s = .next (setRafter s p (placedDone
         (rowLoop s n o i.1 (shRowLen planned) (shRowLen sw) (shR sw) 0 x) 4 f)))))

/-- A softmax row whose elements times the scale are all −∞ gives +0 everywhere, a record with MAX −∞ and SUM +0, and
EMPTY_ROW; the backward row that reads such a record gives +0 everywhere (R190). -/
def Obligations.EmptySoftmaxRows : Prop :=
  (∀ (len : Nat) (x : Nat → W32) (alpha : W32), (∀ k, k < len → (mulR (x k) alpha).1 = 0xFF800000) →
    (rowSmx len x alpha).1 = List.replicate len 0 ∧
    (rowSmx len x alpha).2.1 = { mean := 0, rstd := 0, max := 0xFF800000, sum := 0 } ∧
    (rowSmx len x alpha).2.2 &&& vfEmptyRow = vfEmptyRow) ∧
  (∀ (len : Nat) (x dy : Nat → W32) (alpha : W32) (r : RowRec), r.max = 0xFF800000 →
    (rowSmxB len x dy alpha r).1 = List.replicate len 0)

/-- RN.SPILL writes its run-time count of records from the soffit to the scratchpad, 16 bytes each, and RN.FILL reads them
back; what lies outside stays. -/
def Obligations.SpillAndFillMoveRecords : Prop :=
  ∀ (s : State) (n : RafterId) (p : Nat) (x : Rafter) (q : List InFlight) (f : Frame) (o : RowOps) (c : Nat),
    Ready s n p x → Room x 4 q → shapeValue x o.shp (field o.imm.toNat 0 15) = c → 0 < c → c ≤ field o.imm.toNat 0 15 →
    agAddr x o.xag % 16 = 0 → agSpanOk x o.xag (agAddr x o.xag) (agAddr x o.xag + (16 * c : Nat)) = true →
    (∃ y z g, exec (.rnSpill n f o .pass) s = .next (setRafter s p y) ∧ PassedOn x y z 4 (q ++ [g]) ∧ IsDone f g ∧
      y.soffit = x.soffit ∧
      (∀ k, k < c → memWord y.scratch ((agAddr x o.xag).toNat + 16 * k) 16 = (soffitAt x (o.base.toNat + k)).toNat) ∧
      (∀ a, a < (agAddr x o.xag).toNat ∨ (agAddr x o.xag).toNat + 16 * c ≤ a → memByte y.scratch a = memByte x.scratch a)) ∧
    (∃ y z g, exec (.rnFill n f o .pass) s = .next (setRafter s p y) ∧ PassedOn x y z 4 (q ++ [g]) ∧ IsDone f g ∧
      y.scratch = x.scratch ∧
      (∀ k, k < c → soffitAt y (o.base.toNat + k) = BitVec.ofNat 128 (memWord x.scratch ((agAddr x o.xag).toNat + 16 * k) 16)) ∧
      (∀ b, b < o.base.toNat ∨ o.base.toNat + c ≤ b → soffitAt y b = soffitAt x b))

/-! ### Tokens, queues and ports (R97 to R121, R35 to R39, R166) -/

/-- A token that passes every admission check joins the end of its input queue: a data or control token advances SEQ and
uses a credit; a hip token closes the route's epoch, restarts SEQ, reclaims the credits and moves the admission slot; of a
kind that the consumer at its head does not take, it is a fault (QKIND). A token that fails a check for the first time is
refused: the queue's tokens stay, and the fault is recorded. Producers and hip tokens: an acknowledgement frees the oldest
sent token of a queue that the own stream engine does not empty; a credit granted by the consumer counts for its route, and lets one more token go; a hip token at the head
whose COUNT agrees with the firing counter, with no reservation unmet, has passed its check; one that differs is a
hip-count fault, and one that stands before an unmet reservation a hip underrun. -/
def Obligations.TokensAndCredits : Prop :=
  (∀ (s : State) (n : RafterId) (p : Nat) (x : Rafter) (qi : BitVec 3) (v : Queue) (t : Token) (credit : Bool),
      physOf s n = some p → s.rft[p]? = some x → working s = true → x.iq[qi.toNat]? = some v → v.refused = none →
      x.seq.drain = none → (∀ g ∈ unitQ x 0, g.job = none) →
      (admissionFaults n x qi.toNat t credit = [] →
        ∃ y w, KindsChecked s n p y (exec (.tokenAdmission n qi t credit) s) ∧
        y = { x with iq := x.iq.set qi.toNat w, progress := 0, units := y.units, ctr := y.ctr } ∧
        (tokSe t.hdr = false → y.units = x.units) ∧ w.tokens = v.tokens ++ [t] ∧ w.fired = v.fired ∧
        (isHip t = false → w.seq = v.seq + 1 ∧ w.epochs = v.epochs ∧ w.credits = v.credits - 1 ∧ w.admSlot = v.admSlot) ∧
        (isHip t = true → w.seq = 0 ∧ w.credits = 0 ∧
          tableGet 0 w.epochs (routeKey (inRoute x qi.toNat)) = inEpoch x qi.toNat + 1 ∧
          w.admSlot = firstActive x qi.toNat 8 (descNext (slotDescOf x v.admSlot)))) ∧
      (∀ c cs, admissionFaults n x qi.toNat t credit = c :: cs → exhausted s (rafterUnit n) = false →
        ∃ y w, exec (.tokenAdmission n qi t credit) s = .next (setRafter s p y) ∧ y.iq = x.iq.set qi.toNat w ∧
          w.tokens = v.tokens ∧ w.seq = v.seq ∧ w.refused.isSome = true ∧
          y.faultInfo = faultInfoWord (tokSeq t.hdr) c false false qi.toNat ∧ y.seq = x.seq)) ∧
  (∀ (s : State) (n : RafterId) (p : Nat) (x : Rafter) (qi : BitVec 3), physOf s n = some p → s.rft[p]? = some x →
      working s = true → x.seq.hips = none → (∀ g ∈ unitQ x 0, g.job = none ∧ g.kind ≠ .hips) →
      (∀ o t ts seq, x.oq[qi.toNat]? = some o → (oqToSe x qi.toNat = false ∨ staleHead o = true) → o.tokens = t :: ts →
        tokSeq t.hdr = seq → o.sent ≠ 0 →
        exec (.tokenAcknowledgement n qi seq false) s = .next (setRafter s p
          { x with oq := x.oq.set qi.toNat { o with tokens := ts, sent := o.sent - 1 } })) ∧
      (∀ c cq k pc y v o, creditFrom s n x qi.toNat = some (c, cq, k) → physOf s c = some pc → pc ≠ p →
        s.rft[pc]? = some y → y.iq[cq]? = some v → x.oq[qi.toNat]? = some o → tableGet 0 o.epochs k = inEpoch y cq →
        ∃ t z w, exec (.credit n qi) s = .next t ∧
          t.rft[pc]? = some { y with iq := y.iq.set cq { v with credits := v.credits + 1 } } ∧
          t.rft[p]? = some z ∧ z.oq[qi.toNat]? = some w ∧
          (o.tokens.length = o.sent → w = { o with held := tablePut 0 o.held k (tableGet 0 o.held k + 1) }) ∧
          (∀ d, k = routeKey (outRoute x qi.toNat) → o.tokens.drop o.sent = [d] → isData d = true →
            w.tokens = o.tokens ∧ w.sent = o.sent + 1 ∧ w.fired = o.fired + 1 ∧
            tableGet 0 w.held k = tableGet 0 o.held k)) ∧
      (∀ v t ts, x.iq[qi.toNat]? = some v → v.tokens = t :: ts → isHip t = true →
        (let f := fun (code place : Nat) => dataflowFault s n code place
           (faultInfoWord (BitVec.ofNat 16 (hipCount t).toNat) code false false qi.toNat) (BitVec.ofNat 16 v.fired.toNat)
         (reservedOn x qi.toNat = none → hipCount t = v.fired → exec (.hipTokenAtHead n qi) s = .next (setRafter s p
           { x with iq := x.iq.set qi.toNat { v with hipOk := true } })) ∧
         (reservedOn x qi.toNat = none → hipCount t ≠ v.fired →
           exec (.hipTokenAtHead n qi) s = .next (f 0x36 (1024 + qi.toNat))) ∧
         (∀ i, reservedOn x qi.toNat = some i → hipCount t = v.fired →
           exec (.hipTokenAtHead n qi) s = .next (f 0x37 i)))))

/-- The scratchpad's ports grant lone requests, a read of the cycle of a write before it (R35), and a loft bank a lone request of an enabled port: a write
puts its 512 bytes in place and leaves the rest of the memory, a read returns the 512 bytes as they stand; the bank's
pointer moves past the granted port. -/
def Obligations.PortsServeRequests : Prop :=
  (∀ (s : State) (n : RafterId) (p : Nat) (x : Rafter) (r : SpReq), physOf s n = some p → s.rft[p]? = some x →
    working s = true → x.spReads = [] → x.spWrites = [] →
    exec (.scratchpadPortGrant n [] [r]) s = .next (setRafter s p
      { x with scratch := memWrite x.scratch r.addr.toNat (r.data.take 512), progress := 0 }) ∧
    exec (.scratchpadPortGrant n [r] []) s = .next (setRafter s p
      { x with spOut := tablePut [] x.spOut r.unit.toNat (memRead x.scratch r.addr.toNat 512), progress := 0 }) ∧
    (∀ w : SpReq, exec (.scratchpadPortGrant n [r] [w]) s = .next (setRafter s p { x with
      spOut := tablePut [] x.spOut r.unit.toNat (memRead x.scratch r.addr.toNat 512)
      scratch := memWrite x.scratch w.addr.toNat (w.data.take 512), progress := 0 }))) ∧
  (∀ (s : State) (t bank : BitVec 4) (x : Truss) (r : LoftReq), s.trs[t.toNat]? = some x → working s = true →
    tableGet [] x.bankWait bank.toNat = [] → bankOf r.addr = bank.toNat → portRequests s t.toNat r.port.toNat = true →
    r.addr.toNat < 0x1800000 → r.write = (r.port.toNat % 2 == 1) → bank.toNat < x.bankPtr.length →
    ∃ y, exec (.loftBankGrant t bank [r]) s = .next { s with trs := s.trs.set t.toNat y } ∧
      y.bankPtr = x.bankPtr.set bank.toNat (BitVec.ofNat 4 ((r.port.toNat + 1) % 14)) ∧
      (r.write = true → y.loft = memWrite x.loft (r.addr.toNat / 512 * 512) (r.data.take 512) ∧ y.loftOut = x.loftOut) ∧
      (r.write = false → y.loft = x.loft ∧
        tableGet [] y.loftOut r.port.toNat = memRead x.loft (r.addr.toNat / 512 * 512) 512))

/-! ### Spar tables (R223 to R231, R315 to R321) -/

/-- A spar table applies the head operation of the next input in round-robin order. Without waits on the table:
SIGNAL.ADD adds V to COUNT, or leaves COUNT and returns an overflow reply where the sum would exceed 32 bits; SIGNAL.SET
makes COUNT equal to V; ARRIVE adds 1, and the arrival that reaches T returns COUNT to rest and toggles PHASE; a read and
a wait whose condition holds are answered at once, WAIT.DEC after its subtraction; a wait whose condition does not hold
stays registered. -/
def Obligations.SparTablesApplyOperations : Prop :=
  ∀ (s : State) (t : BitVec 4) (x : Truss) (i : Nat) (m : SparMsg) (rest : List SparMsg),
    s.trs[t.toNat]? = some x → nextInput x = some i → x.inputs[i]? = some (m :: rest) → unitKind m.src = 0 →
    physOf s (unitInst m.src) = none ∨ (rafterOf s (unitInst m.src)).seq.resent = [] → x.waits = [] →
    (let e := sparEntry x m.index
     let Leaves := fun (e' : SparEntry) (reps : List SparRep) =>
       ∃ u y, exec (.sparOperation t .clean) s = .next u ∧ u.trs[t.toNat]? = some y ∧ sparEntry y m.index = e' ∧
         (∀ k : BitVec 12, k ≠ m.index → sparEntry y k = sparEntry x k) ∧ y.replies = x.replies ++ reps ∧ y.waits = [] ∧
         y.inputs = x.inputs.set i rest ∧ y.served = i ∧ u.rft = s.rft
     let reply := fun (e' : SparEntry) (ovf : Bool) => repOf t.toNat m.src m.tag m.index m.op m.v e' ovf
     (m.op = .signalAdd → e.count.toNat + m.v.toNat < 2 ^ 32 → Leaves { e with count := e.count + m.v } []) ∧
     (m.op = .signalAdd → 2 ^ 32 ≤ e.count.toNat + m.v.toNat → Leaves e [reply e true]) ∧
     (m.op = .signalSet → Leaves { e with count := m.v } []) ∧
     (m.op = .arrive → e.count + 1 ≠ m.t.zeroExtend 32 → Leaves { e with count := e.count + 1 } []) ∧
     (m.op = .arrive → e.count + 1 = m.t.zeroExtend 32 → Leaves { e with count := e.rest, phase := !e.phase } []) ∧
     (m.op = .read → Leaves e [reply e false]) ∧
     (m.op = .waitGe → m.v ≤ e.count → Leaves e [reply e false]) ∧
     (m.op = .waitEq → e.count = m.v → Leaves e [reply e false]) ∧
     (m.op = .waitDec → m.v ≤ e.count →
       Leaves { e with count := e.count - m.v } [reply { e with count := e.count - m.v } false]) ∧
     (m.op = .waitGe → e.count < m.v → ∃ u y w, exec (.sparOperation t .clean) s = .next u ∧ u.trs[t.toNat]? = some y ∧
       y.waits = [w] ∧ w.unit = m.src ∧ w.index = m.index ∧ w.v = m.v ∧ w.op = .waitGe ∧ y.replies = x.replies))

/-- The oldest reply of a spar table reaches its rafter: a WAIT's reply lets issue go on; a POLL's reply sets the poll
flag by its comparison and writes COUNT to the scratchpad word where there is one. -/
def Obligations.SparRepliesReachTheRafter : Prop :=
  ∀ (s : State) (t : BitVec 4) (ts : Truss) (r : SparRep) (rest : List SparRep) (n : RafterId) (p : Nat) (x : Rafter)
    (e : InFlight) (a : SparPurpose) (as : List SparPurpose),
    s.trs[t.toNat]? = some ts → ts.replies = r :: rest → r.ovf = false → r.dest = rafterUnit n → n < 96 →
    physOf s n = some p → s.rft[p]? = some x → x.seq.asks = a :: as → x.units[0]? = some [e] → e.kind = .reply →
    e.job = none → e.acks = 0 →
    ∃ y, exec (.sparReply t) s = .next (signalDone (setRafter (setTruss s t.toNat { ts with replies := rest }) p y)
        (rafterUnit n) (placeTag x e.place) e.cspar) ∧ y.units = x.units.set 0 [] ∧ y.seq.asks = as ∧ y.progress = 0 ∧
      (a = .wait → y.seq.waiting = false ∧ y.seq.stall = 0 ∧ y.seq.poll = x.seq.poll ∧ y.scratch = x.scratch) ∧
      (∀ v wr, a = .pollGe v wr → y.seq.poll = decide (v ≤ r.count) ∧ y.seq.waiting = x.seq.waiting ∧
        y.scratch = match wr with
          | some b => memPutWord x.scratch b 4 r.count.toNat
          | none => x.scratch) ∧
      (∀ v wr, a = .pollEq v wr → y.seq.poll = decide (v = r.count) ∧ y.seq.waiting = x.seq.waiting)

/-! ### The mesh (R325 to R342) -/

/-- A flit that a unit of the truss may inject enters, with good parity, the buffer of its output, routed X first and then
Y, and no other buffer. The head of a neighbour's buffer moves over the link into the buffer of its next output. The head
of an exit's buffer leaves the mesh; a control message is then at the unit there. A flit with bad parity waits in its
sender's replay buffer; the replay that passes counts as transient, and one that fails is lasting. -/
def Obligations.FlitsMoveAndAreReplayed : Prop :=
  (∀ (s : State) (rt : BitVec 4) (plane : BitVec 3) (fl : Flit) (err : BitVec 20) (x : Truss), s.trs[rt.toNat]? = some x →
    injectable s rt.toNat 0 plane.toNat fl = true → tableGet [] x.inject (bufKey 0 plane.toNat) = [] →
    (∀ k, k < 8 → tableGet [] x.outbound (8 * k + plane.toNat) = []) →
    tableGet Replay.reset x.replay (40 + bufKey 0 plane.toNat) = Replay.reset →
    (let k := bufKey (routeFlit rt.toNat fl) plane.toNat
     (flitOk fl err = true → misrouted rt.toNat fl = false → (bufOf x k).length < 48 →
       ∃ y, exec (.meshFlitArrival rt { port := 0, out := false } plane fl err) s = .next { s with trs := s.trs.set rt.toNat y } ∧
         bufOf y k = bufOf x k ++ [fl] ∧ (∀ j, j ≠ k → bufOf y j = bufOf x j) ∧ y.spars = x.spars ∧ y.loft = x.loft) ∧
     (flitOk fl err = false →
       ∃ y, exec (.meshFlitArrival rt { port := 0, out := false } plane fl err) s = .next { s with trs := s.trs.set rt.toNat y } ∧
         tableGet Replay.reset y.replay (40 + bufKey 0 plane.toNat) = { refused := true, flits := [fl] } ∧
         y.bufs = x.bufs))) ∧
  (∀ (s : State) (rt : BitVec 4) (port plane : BitVec 3) (nb : Nat) (fl : Flit) (fs : List Flit) (err : BitVec 20)
      (x z : Truss), s.trs[rt.toNat]? = some x → attached rt.toNat port.toNat = false →
    neighbour rt.toNat port.toNat = some nb → s.trs[nb]? = some z →
    (let j := bufKey (opposite port.toNat) plane.toNat
     let k := bufKey (routeFlit rt.toNat fl) plane.toNat
     tableGet Replay.reset z.replay j = Replay.reset → bufOf z j = fl :: fs → flitOk fl err = true →
     misrouted rt.toNat fl = false → (bufOf x k).length < 48 →
     ∃ t y w, exec (.meshFlitArrival rt { port := port, out := false } plane fl err) s = .next t ∧ OnlyTrusses s t ∧
       t.trs[rt.toNat]? = some y ∧ t.trs[nb]? = some w ∧ bufOf w j = fs ∧ bufOf y k = bufOf x k ++ [fl])) ∧
  (∀ (s : State) (rt : BitVec 4) (port plane : BitVec 3) (fl : Flit) (fs : List Flit) (err : BitVec 20) (x : Truss),
    s.trs[rt.toNat]? = some x → (port = 0 ∨ attached rt.toNat port.toNat = true) →
    (let k := bufKey port.toNat plane.toNat
     tableGet Replay.reset x.replay k = Replay.reset → bufOf x k = fl :: fs → flitOk fl err = true →
     ∃ y, exec (.meshFlitArrival rt { port := port, out := true } plane fl err) s = .next { s with trs := s.trs.set rt.toNat y } ∧
       bufOf y k = fs ∧ (controlFlit fl = true → y.got = (port.toNat, [fl]) :: x.got ∧
         (port = 0 → flitType fl = 7 → y.inputs = x.inputs.modify 6 (· ++ [sparOfFlit fl]))))) ∧
  (∀ (s : State) (rt : BitVec 4) (port plane : BitVec 3) (out : Bool) (w : Sender) (x z : Truss) (fl : Flit),
    s.trs[rt.toNat]? = some x → senderOf rt.toNat port.toNat plane.toNat out = some w → s.trs[w.router]? = some z →
    (replayOf s w).refused = true →
    (let k := bufKey (routeFlit rt.toNat fl) plane.toNat
     (out = false → (replayOf s w).flits = [fl] → misrouted rt.toNat fl = false → (bufOf x k).length < 48 →
       exhausted s (routerUnit rt.toNat) = false →
       ∃ u y, exec (.meshFlitReplay rt { port := port, out := out } plane true) s = .next u ∧ u.trs[rt.toNat]? = some y ∧
         bufOf y k = bufOf x k ++ [fl] ∧ y.meshReplay = satInc16 x.meshReplay ∧ replayOf u w = Replay.reset) ∧
     exec (.meshFlitReplay rt { port := port, out := out } plane false) s = .next (meshLasting s rt.toNat 0x70
       (meshInfoWord 0x70 port.toNat (!out) plane.toNat))))

/-- Messages on lofts: a read request of a loft is served and its response is on its way under the current reset
generation; a response is placed by its address; a write is applied and its acknowledgement is on its way; an
acknowledgement of an older reset generation is discarded, and a current one counts against its rafter's transfer. The
ridge's register accesses: a read of a compute-die register answers its value, and a write of a spar's rest value
takes effect; the response carries the reset generation, and one of an older generation is dropped. -/
def Obligations.MeshMessagesAndRidgeAccesses : Prop :=
  (∀ (s : State) (src : UnitId) (tag : W16) (addr : W64) (len : W16), s.saf.resetReq = none →
    addr.toNat < 0x20000000 → addr.toNat % 2 ^ 25 < 0x1800000 → (∀ r ∈ s.reads, r.src ≠ src ∨ r.tag ≠ tag) →
    exec (.readRequest src tag .loft addr len .pass) s = .next { s with reads := s.reads ++
      [{ src := src, tag := tag, rgen := s.crs.resetGen, addr := addr.toNat, left := len.toNat, got := [] }] }) ∧
  (∀ (s : State) (dst : UnitId) (tag : W16) (rgen : Byte) (addr : W64) (data : List Byte) (r : ReadPend),
    s.reads = [r] → r.src = dst → r.tag = tag → r.rgen = rgen → r.addr ≤ addr.toNat → data.length ≤ r.left →
    replyCurrent s dst tag rgen = true →
    exec (.readResponse dst tag rgen addr data) s = .next { s with reads :=
      [{ r with got := memWrite r.got addr.toNat data, left := r.left - data.length }] }) ∧
  (∀ (s : State) (src : UnitId) (tag : W16) (addr : W64) (data : List Byte) (x : Truss), s.saf.resetReq = none →
    addr.toNat < 0x20000000 → addr.toNat % 2 ^ 25 + data.length ≤ 0x1800000 → addr.toNat % 2 ^ 25 < 0x1800000 →
    s.trs[addr.toNat / 2 ^ 25]? = some x →
    exec (.write src tag .loft addr data) s = .next { s with
      trs := s.trs.set (addr.toNat / 2 ^ 25) { x with loft := memWrite x.loft (addr.toNat % 2 ^ 25) data }
      acks := s.acks ++ [{ dst := src, tag := tag, rgen := s.crs.resetGen }] }) ∧
  (∀ (s : State) (dst : UnitId) (tag : W16) (rgen : Byte), rgen ≠ s.crs.resetGen →
    exec (.writeAcknowledgement dst tag rgen) s = .next s ∧
    ∀ addr data, exec (.readResponse dst tag rgen addr data) s = .next s) ∧
  (∀ (s : State) (n : RafterId) (p : Nat) (x : Rafter) (tag : W16) (e : InFlight) (a : AckPend), n < 96 →
    physOf s n = some p → s.rft[p]? = some x → s.acks = [a] → a.dst = rafterUnit n → a.tag = tag →
    a.rgen = s.crs.resetGen → tag.toNat / 256 = x.wgen.toNat → x.units[1]? = some [e] → e.done = true → e.tag = tag →
    e.acks = 1 →
    exec (.writeAcknowledgement (rafterUnit n) tag a.rgen) s = .next { s with
      acks := []
      rft := s.rft.set p { x with progress := 0, units := x.units.set 1 [{ e with acks := 0 }] } }) ∧
  (∀ (s : State) (off : BitVec 26) (v : W32), off.toNat % 4 = 0 → wakesDie (regAt s off.toNat) = true →
    ∃ t, exec (.ridgeRegisterAccess off false v) s = .next t ∧
      t.ridgeAsked = s.ridgeAsked ++ [(off, regGet s off.toNat, s.crs.resetGen)] ∧ t.saf = s.saf ∧ t.hst = s.hst) ∧
  (∀ (s : State) (k : Nat) (i : BitVec 12) (v : W32) (x : Truss), s.trs[k]? = some x → k < 16 → s.pwr.stage ≠ 0 →
    (let off := BitVec.ofNat 26 (0x2004000 + 0x10000 * k + 4 * i.toNat)
     exec (.ridgeRegisterAccess off true v) s = .next { s with
       trs := s.trs.set k (setSpar x i { sparEntry x i with rest := v })
       ridgeAsked := s.ridgeAsked ++ [(off, v, s.crs.resetGen)] })) ∧
  (∀ (s : State) (a : BitVec 26) (v : W32) (g : Byte) (rest : List (BitVec 26 × W32 × Byte)),
    s.ridgeAsked = (a, v, g) :: rest →
    exec .ridgeRegisterResponse s = .next (if g = s.crs.resetGen then
      { s with ridgeAsked := rest, ridgeGot := (a, v) :: s.ridgeGot } else { s with ridgeAsked := rest }))

/-- The progress check: a rafter that works and whose progress counter has reached RFT_PROG_LIMIT raises a progress
fault, and its counter stays; below the limit, and while it holds or idles, nothing happens (R128). -/
def Obligations.ProgressLimit : Prop :=
  ∀ (s : State) (n : RafterId) (p : Nat) (x : Rafter), physOf s n = some p → s.rft[p]? = some x →
    ((x.hold = true ∨ x.idle = true ∨ x.progress.toNat < x.progLimit.toNat ∨ working s = false) →
      exec (.progressLimit n) s = .next s) ∧
    (working s = true → x.hold = false → x.idle = false → x.progLimit ≠ 0 → x.progLimit.toNat ≤ x.progress.toNat →
      x.recur = [] → resetIsLasting s = false →
      ∃ t y, exec (.progressLimit n) s = .next t ∧ t.rft[p]? = some y ∧ y.fault = x.fault ||| 0x800 ∧ y.progress = x.progress ∧
        y.scratch = x.scratch ∧ t.saf.resetReq.isSome = true ∧
        ∃ g ∈ t.saf.queue, g.code = 0x3B ∧ g.unit = rafterUnit n ∧ g.cls = .reset)

/-! ### Host commands (R79, R483 to R491, R497, R501, R506, R583) -/

/-- Host commands while no program runs. NOP changes nothing. LEARN.STOP drops what the receiving units hold and stops
learning; LEARN.START lets it go on. SESSION.OPEN opens a session where R497 admits it, and SESSION.CLOSE closes one
that is open. WIN.BIND binds a window of the image, or unbinds it with ADDR 0. PUBLISH.PERMIT records the permission
of a set of the image, and completes at once only where its step is past; PUBLISH.REVOKE removes it. CTR.GRANT adds
groups that the image declares, CTR.REVOKE takes groups away, PWR.TOL sets the tolerance. A command that the state
does not allow is answered with STATUS 1 and changes nothing. What the ridge does with a command otherwise. One that
is malformed is answered with STATUS 2 and takes no effect; while a program runs, or while commands stand before it,
it waits; before stage Reduced, while the hardware alone holds the device safe, and while no ring is in use, nothing happens. -/
def Obligations.HostCommands : Prop :=
  (∀ (s : State) (tag : W16), Attends s →
      (let Does := fun (i : Instr) (opc : Byte) (status : Nat) (also : State → Prop) =>
         ∃ t, exec i s = .next t ∧ Answered s t opc tag status [] ∧ Untouched s t ∧ also t
       let Refused := fun (i : Instr) (opc : Byte) =>
         Does i opc 1 (fun t => t.upd = s.upd ∧ t.cnt = s.cnt ∧ t.saf = s.saf ∧ t.hst.sessions = s.hst.sessions ∧
           t.hst.binds = s.hst.binds ∧ t.hst.pubs = s.hst.pubs)
       Does (.cmdNop tag) 0x00 0 (fun t => t.rft = s.rft ∧ t.trs = s.trs ∧ t.upd = s.upd ∧ t.saf = s.saf ∧
         t.cnt = s.cnt ∧ t.hst.sessions = s.hst.sessions ∧ t.hst.binds = s.hst.binds ∧ t.hst.pubs = s.hst.pubs) ∧
       (∃ t, exec (.learnStop tag) s = .next t ∧ Answered s t 0x04 tag 0 [] ∧ t.upd.lstop = true ∧
         (∀ k, k < 16 → (uuAt t k).queue = [] ∧ (uuAt t k).jobs = []) ∧
         (∀ p ∈ positions s, (rafterAt t p).prefetch = []) ∧ (∀ e ∈ t.upd.groups, e.2.st ≠ 1) ∧
         t.crs = s.crs ∧ t.prog = s.prog ∧ t.tier = s.tier) ∧
       Does (.learnStart tag) 0x05 0 (fun t => t.upd = { s.upd with lstop := false }) ∧
       (∀ n iw ow, openOk s n iw ow = true → Does (.sessionOpen tag n iw ow) 0x06 0 (fun t => t.hst.sessions =
         s.hst.sessions ++ [{ num := n, iw := BitVec.ofNat 6 iw.toNat, ow := BitVec.ofNat 6 ow.toNat
                              course := s.crs.course }])) ∧
       (∀ n iw ow, openOk s n iw ow = false → Refused (.sessionOpen tag n iw ow) 0x06) ∧
       (∀ n, s.pwr.stage = 2 → (∃ x ∈ s.hst.sessions, x.num = n) → Does (.sessionClose tag n) 0x07 0 (fun t =>
         t.hst.sessions = s.hst.sessions.filter (fun x => x.num != n))) ∧
       (∀ n, s.pwr.stage ≠ 2 ∨ (∀ x ∈ s.hst.sessions, x.num ≠ n) → Refused (.sessionClose tag n) 0x07) ∧
       (∀ (w : Byte) v (a : W64) d, malformed (.winBind tag w v a d) = false → (outWin s w.toNat).isSome = true →
         Does (.winBind tag w v a d) 0x08 0 (fun t => t.hst.binds = s.hst.binds.filter (fun b => b.win.toNat != w.toNat) ++
           (if a = 0 then [] else [{ win := BitVec.ofNat 6 w.toNat, vec := v, addr := a, stride := d }]))) ∧
       (∀ (w : Byte) v (a : W64) d, malformed (.winBind tag w v a d) = false → outWin s w.toNat = none →
         Refused (.winBind tag w v a d) 0x08) ∧
       (∀ (p : Byte) (st : Bool) (k : W64) (v : PubSet), (pubImg s p.toNat).isSome = true → s.hst.pubs[p.toNat]? = some v →
         v.perm = none →
         (st = true ∨ (v.stageStep.toNat ≤ k.toNat ∧ (v.staging = true → v.toStep.toNat ≤ k.toNat)) →
           ∃ t, exec (.publishPermit tag p st k) s = .next t ∧ Untouched s t ∧ t.hst.mem = s.hst.mem ∧
             t.hst.pubs = s.hst.pubs.set p.toNat { v with perm := some (tag, st, k) }) ∧
         (st = false → k.toNat < v.stageStep.toNat → Does (.publishPermit tag p st k) 0x09 7 (fun t =>
           t.hst.pubs = s.hst.pubs))) ∧
       (∀ (p : Byte) st k, pubImg s p.toNat = none →
         Refused (.publishPermit tag p st k) 0x09 ∧ Refused (.publishRevoke tag p) 0x0A) ∧
       (∀ (p : Byte) v, (pubImg s p.toNat).isSome = true → s.hst.pubs[p.toNat]? = some v →
         (v.perm = none → Does (.publishRevoke tag p) 0x0A 0 (fun t => t.hst.pubs = s.hst.pubs)) ∧
         ∃ t, exec (.publishRevoke tag p) s = .next t ∧ Untouched s t ∧
           t.hst.pubs = s.hst.pubs.set p.toNat { v with perm := none }) ∧
       (∀ m, Does (.ctrGrant tag m) 0x1C 0 (fun t => t.cnt = { s.cnt with grant := s.cnt.grant ||| (m &&& imgMask s) }) ∧
         Does (.ctrRevoke tag m) 0x1D 0 (fun t => t.cnt = { s.cnt with grant := s.cnt.grant &&& ~~~m })) ∧
       (∀ v : W32, v.toNat < 2 ^ 24 → Does (.pwrTol tag v) 0x1E 0 (fun t => t.pwr.tol.toNat = v.toNat)))) ∧
  (∀ (s : State) (i : Instr), encodeCmd i ≠ none →
      (Attends s → malformed i = true → ∃ t, exec i s = .next t ∧ Answered s t (cmdOpc i) (cmdTag i) 2 [] ∧
        Untouched s t ∧ t.upd = s.upd ∧ t.cnt = s.cnt ∧ t.hst.binds = s.hst.binds) ∧
      (s.pwr.stage ≠ 0 → s.saf.hwSafe = false → ringInUse s = true → (s.crs.running = true ∨ s.hst.queued ≠ []) →
        exec i s = .next { s with hst := { s.hst with queued := s.hst.queued ++ [i] } }) ∧
      ((s.pwr.stage = 0 ∨ s.saf.hwSafe = true ∨ ringInUse s = false) → exec i s = .next s))

/-- PORT.SERVICE, FENCE and PROG.STOP while no program runs. A port named is in service afterwards, or out of it. A fence
adds its masks, disabled positions aside, and unloads a program that uses a position newly fenced. PROG.STOP unloads
the program and closes its sessions; with none loaded it is answered with STATUS 1. -/
def Obligations.PortsFencesAndStops : Prop :=
  ∀ (s : State) (tag : W16), Attends s →
    (∀ (p : Byte), p.toNat < 2 → p.toNat < s.cxl.length → s.tier.running = [] → s.tier.seals = [] →
      (∃ t, exec (.portService tag true p true) s = .next t ∧ Answered s t 0x1A tag 0 [] ∧
        (cxlAt t p.toNat).serve = true ∧ (cxlAt t p.toNat).perst = true ∧ t.tier = s.tier) ∧
      (∃ t, exec (.portService tag true p false) s = .next t ∧ Answered s t 0x1A tag 0 [] ∧
        (cxlAt t p.toNat).serve = false ∧ t.tier = s.tier ∧ ∀ c, (cxlUnit p.toNat, c) ∉ t.saf.inForce)) ∧
    (∀ (p : Byte), p.toNat < 8 → p.toNat < s.lnk.ports.length → s.lnk.insts = [] →
      (∃ t, exec (.portService tag false p true) s = .next t ∧ Answered s t 0x1A tag 0 [] ∧
        (portAt t p.toNat).serve = true) ∧
      (∃ t, exec (.portService tag false p false) s = .next t ∧ Answered s t 0x1A tag 0 [] ∧
        (portAt t p.toNat).serve = false ∧ ∀ c, (linkUnit p.toNat, c) ∉ t.saf.inForce)) ∧
    ((∀ v ∈ s.hst.pubs, v.perm = none) →
      (∀ r n b, ∃ t, exec (.fence tag r n b) s = .next t ∧ Answered s t 0x0B tag 0 [] ∧
        t.fenced = s.fenced ||| (r &&& s.enabled) ∧ t.upd.nmuFence = s.upd.nmuFence ||| n ∧
        t.hst.bridgeFence = s.hst.bridgeFence ||| b ∧
        t.prog = (if r &&& s.enabled &&& ~~~s.fenced = 0 then s.prog else if s.prog.loaded then Prog.reset else s.prog)) ∧
      (s.prog.loaded = true → s.progNext = none → ∃ t, exec (.progStop tag) s = .next t ∧ Answered s t 0x03 tag 0 [] ∧
        t.prog = Prog.reset ∧ t.crs.starting = false ∧ t.hst.sessions = [] ∧ t.hst.binds = [] ∧
        ∀ x ∈ t.trs, x.spars = [] ∧ x.waits = [])) ∧
    (s.prog.loaded = false → ∃ t, exec (.progStop tag) s = .next t ∧ Answered s t 0x03 tag 1 [] ∧ Untouched s t)

/-- Loading and starting a program. PROG.LOAD begins the load where it is admitted. When the checks have ended, the load
is over, its command is answered with the verdict and the number of findings, and an image that passed is the loaded
program; a fault that keeps programs out and came up during the load refuses it. PROG.START starts an accepted program at the first boundary instant, 20 µs on with the internal timer. A fetch takes the
ring's entries in order, from the one at the head. -/
def Obligations.ProgramsLoadAndStart : Prop :=
  (∀ (s : State) (tag : W16) (a : W64) (n : W32) (r : Bool), Attends s → malformed (.progLoad tag a n r) = false →
    (loadAdmitted s r = true → ∃ t, exec (.progLoad tag a n r) s = .next t ∧ t.hst.mem = s.hst.mem ∧ Untouched s t ∧
      t.hst.loading = some { tag := tag, addr := a.toNat, len := n.toNat, reduced := r }) ∧
    (loadAdmitted s r = false → ∃ t, exec (.progLoad tag a n r) s = .next t ∧ Answered s t 0x01 tag 1 [] ∧
      Untouched s t ∧ t.hst.loading = s.hst.loading)) ∧
  (∀ (s : State) (img : Image) (time : W32), s.hst.loading = none → exec (.loadChecksComplete img time) s = .next s) ∧
  (∀ (s : State) (img : Image) (time : W32) (j : LoadJob), s.hst.loading = some j → s.crs.running = false →
    s.saf.hwSafe = false → s.prog.loaded = false →
    (s.saf.inForce.all fenceable = false → ∃ t, exec (.loadChecksComplete img time) s = .next t ∧ t.hst.loading = none ∧
      Answered s t 0x01 j.tag 1 [] ∧ Untouched s t) ∧
    (s.saf.inForce.all fenceable = true →
     let h := headerOf (memRead s.hst.mem j.addr 0x2000)
     let pre := preReject s j h (memRead s.hst.mem (j.addr + 0x2000) (j.len - 0x2000))
     let r := readsFor s h pre img
     let v := verdictOf r.1 h pre img r.2
     ∃ t, exec (.loadChecksComplete img time) s = .next t ∧ t.hst.loading = none ∧ t.prog = v.prog.getD s.prog ∧
       Answered s t 0x01 j.tag (if v.status = 0 then 0 else 4)
         (bytesOf 2 v.status ++ bytesOf 2 (min v.finds.length 0xFFFF)))) ∧
  (∀ (s : State) (tag : W16) (c : W64), Attends s →
    (s.progNext = none → s.prog.loaded = true → s.prog.started = false → settingsOk s s.crs.minPeriod = true →
      (∃ t, exec (.progStart tag c) s = .next t ∧ Answered s t 0x02 tag 0 [] ∧ t.crs.starting = true ∧
        t.crs.course = (firstBoundary s c).2 ∧ t.crs.next = (firstBoundary s c).1) ∧
      (s.crs.source ≠ 2 → ∃ t, exec (.progStart tag c) s = .next t ∧ Answered s t 0x02 tag 0 [] ∧ t.prog = { s.prog with started := true } ∧
        t.crs.starting = true ∧ t.crs.running = false ∧ t.crs.course = c ∧ t.crs.next = s.now + 2000)) ∧
    (s.progNext ≠ none ∨ s.prog.loaded = false ∨ s.prog.started = true ∨ settingsOk s s.crs.minPeriod = false →
      ∃ t, exec (.progStart tag c) s = .next t ∧ Answered s t 0x02 tag 1 [] ∧ Untouched s t)) ∧
  (∀ (s : State) (w : Nat), Attends s → validEntries s (min 64 (cqFree s)) s.hst.crHead.toNat s.hst.crPhase = [w] →
    (∀ tag, parseEntry w = some (.cmdNop tag) → ∃ t, exec .commandRingFetch s = .next t ∧ Answered s t 0x00 tag 0 [] ∧
      Untouched s t ∧ t.hst.crHead.toNat = (if ringSize s ≤ s.hst.crHead.toNat + 1 then s.hst.crHead.toNat + 1 - ringSize s
        else s.hst.crHead.toNat + 1) ∧ t.hst.crPhase = (s.hst.crPhase != decide (ringSize s ≤ s.hst.crHead.toNat + 1))) ∧
    (parseEntry w = none → ∃ t, exec .commandRingFetch s = .next t ∧ Untouched s t ∧
      Answered s t (BitVec.ofNat 8 w) (BitVec.ofNat 16 (w / 2 ^ 16)) 2 [])) ∧
  (∀ (s : State), (s.crs.running = true → exec .commandRingFetch s = .next s) ∧
    (s.crs.running = false → s.pwr.stage ≠ 0 → s.saf.hwSafe = false → exec .commandRingFetch s =
      .next ((fetchAll s).foldl takeIdle (markFetched (advanceHead s (ringCount (fetchAll s))) (fetchAll s)))))

/-! ### Memory tiers (R403 to R436) -/

/-- Tier commands while no program runs, in stage Full. An allocation of an extent that is taken is refused whole, with the
first such extent; one whose extents are free takes a frame for each, with a home where it is read-only, and waits for
them to be zeroed, or is refused whole where they run out. TIER.SEAL makes OPEN extents
SEALING and counts the others. TIER.PIN sets PIN of the mapped extents and counts the others. TIER.FREE zeroes the entries
of the mapped extents, whose queued requests go, and counts the others. -/
def Obligations.TierCommandsTakeEffect : Prop :=
  ∀ (s : State), Attends s → s.pwr.stage = 2 → s.eav.length = 8 →
    (∀ (o : TierAllocOps) x, malformed (.tierAlloc o) = false →
      (extentsOf o.first.toNat o.count.toNat).find? (extentTaken s) = some x →
      ∃ t, exec (.tierAlloc o) s = .next t ∧ Answered s t 0x10 o.tag 1 (detailOf o.count.toNat x.toNat) ∧
        t.tier = s.tier ∧ t.eav = s.eav ∧ t.cxl = s.cxl) ∧
    (∀ (o : TierAllocOps), malformed (.tierAlloc o) = false → o.count ≠ 0 →
      (let xs := extentsOf o.first.toNat o.count.toNat
       let w := wake (hitHost (reserveMany s 1) 0x3C2 1)
       let s0 := { w with tier := { w.tier with allocs := w.tier.allocs ++ [{ tag := o.tag, left := [], entries := [] }] } }
       xs.find? (extentTaken w) = none →
       (∀ s1, allocAll o xs s0 = .inl s1 → exec (.tierAlloc o) s = .next s1) ∧
       (∀ x, allocAll o xs s0 = .inr x → ∃ t, exec (.tierAlloc o) s = .next t ∧ t.tier = s.tier ∧ t.eav = s.eav ∧
         t.cxl = s.cxl ∧ Answered s t 0x10 o.tag 3 (detailOf o.count.toNat x.toNat)))) ∧
    (∀ (o : TierAllocOps) (x : BitVec 19) f, malformed (.tierAlloc o) = false → o.count = 1 → x.toNat = o.first.toNat →
      o.ro = false → extentTaken s x = false → freeFrame s o.stack.toNat = some f →
      framesUsed s o.owner.toNat < (s.tier.hLimit.getD o.owner.toNat 0).toNat →
      ∃ t, exec (.tierAlloc o) s = .next t ∧ t.hst.mem = s.hst.mem ∧ t.eav = s.eav ∧ t.tier = { s.tier with
        allocs := s.tier.allocs ++ [{ tag := o.tag, left := [x], entries := [(x, BitVec.ofNat 128 (allocEntry o f 0))] }]
        frames := s.tier.frames.modify o.stack.toNat (fun u => tablePut .free u f (.used x)) }) ∧
    (∀ (o : TierOps), malformed (.tierSeal o) = false → s.tier.seals = [] →
      (let xs := extentsOf o.first.toNat o.count.toNat
       let go := xs.filter (fun x => entState (tierEntry s x) = stOpen)
       let no := xs.filter (fun x => entState (tierEntry s x) ≠ stOpen)
       ∃ t, exec (.tierSeal o) s = .next t ∧
         (∀ x ∈ xs, tierEntry t x = (if entState (tierEntry s x) = stOpen then setField (tierEntry s x) 0 3 stSealing
           else tierEntry s x)) ∧
         (go ≠ [] → t.hst.mem = s.hst.mem ∧ t.tier.seals = [{ tag := o.tag, left := go, ignored := no.length
                                                              firstIgnored := BitVec.ofNat 32 (firstOf no) }]) ∧
         (go = [] → t.tier.seals = [] ∧ Answered s t 0x11 o.tag 0 (detailOf no.length (firstOf no))))) ∧
    (∀ (o : TierOps) (pin : Bool), malformed (.tierPin o pin) = false →
      (let xs := extentsOf o.first.toNat o.count.toNat
       let no := xs.filter (fun x => !isMapped s x)
       ∃ t, exec (.tierPin o pin) s = .next t ∧ t.tier = s.tier ∧
         Answered s t 0x12 o.tag 0 (detailOf no.length (firstOf no)) ∧
         ∀ x ∈ xs, tierEntry t x = (if isMapped s x then setField (tierEntry s x) 4 1 (b2n pin) else tierEntry s x))) ∧
    (∀ (o : TierOps), malformed (.tierFree o) = false → s.tier.seals = [] →
      (let xs := extentsOf o.first.toNat o.count.toNat
       let no := xs.filter (fun x => !isMapped s x)
       ∃ t, exec (.tierFree o) s = .next t ∧ Answered s t 0x13 o.tag 0 (detailOf no.length (firstOf no)) ∧
         (∀ x ∈ xs, isMapped s x = true → tierEntry t x = 0) ∧
         (∀ r ∈ t.tier.queue, isMapped s r.extent = true → r.extent ∉ xs)))

/-- An allocation and a seal end. The frame of an allocation reads zero, the entry is in force and the generation has
risen; a sealed extent is BOTH. The last one answers its command. Requests for extents. A lookup raises LASTUSE and
leaves the extent in the tier-map cache; the rereading of an entry with an error counts, and a second error is
lasting. A prefetch request and a due schedule record queue the promotion of a HOMED extent. A promotion starts with a
free frame of the extent's stack, takes the blocks that arrive, and leaves the extent BOTH after the last one. An
extent is evicted where R429 allows it, and the refusal counts where not. A CXL link that fails is a lasting fault. -/
def Obligations.ExtentsInTheTiers : Prop :=
  (∀ (s : State) (x : BitVec 19), s.crs.running = false → s.saf.hwSafe = false → s.eav.length = 8 →
      (∀ (j : AllocJob) (e : W128), s.tier.allocs = [j] → j.left = [x] → j.entries = [(x, e)] → entFrame e.toNat < 2240 →
        ∃ t, exec (.tierAllocFrameZeroed x) s = .next t ∧ tierEntry t x = e.toNat ∧ t.tier.gen = s.tier.gen + 1 ∧
          t.tier.allocs = [] ∧ Answered s t 0x10 j.tag 0 (detailOf 0 0xFFFFFFFF) ∧
          ∀ k, k < 2 ^ 24 → memByte (eaveAt t (entStack e.toNat)).hbm (frameBase e.toNat + k) = 0) ∧
      (∀ j e, s.tier.allocs.find? (fun j => j.left.contains x) = some j → j.entries.find? (fun e => e.1 = x) = some (x, e) →
        entFrame e.toNat < 2240 → ∃ t, exec (.tierAllocFrameZeroed x) s = .next t ∧ tierEntry t x = e.toNat ∧
          t.tier.gen = s.tier.gen + 1 ∧ (∀ j ∈ t.tier.allocs, x ∉ j.left) ∧
          ∀ k, k < 2 ^ 24 → memByte (eaveAt t (entStack e.toNat)).hbm (frameBase e.toNat + k) = 0) ∧
      (entState (tierEntry s x) = stSealing → (cxlAt s (entPort (tierEntry s x))).serve = true →
        (cxlAt s (entPort (tierEntry s x))).up = true → s.cxl.length = 2 →
        (let e := tierEntry s x
         let p := cxlAt s (entPort e)
         let b := thatchBlocks (entWidth e) 0 (blocksOf 4096 (frameRead s e 0 (2 ^ 24)))
         ∃ t, exec (.tierSealComplete x) s = .next t ∧ tierEntry t x = setField e 0 3 stBoth ∧
           t.tier.gen = s.tier.gen + 1 ∧ (∀ j ∈ t.tier.seals, x ∉ j.left) ∧ (cxlAt t (entPort e)).dev =
             memWrite (memWrite p.dev (homeDir (entHome e)) (b.1.flatMap (bytesOf 8))) (homeData p.units.toNat (entHome e)) b.2)) ∧
      ((∀ j ∈ s.tier.allocs, x ∉ j.left) → exec (.tierAllocFrameZeroed x) s = .next s) ∧
      (∀ (j : SealJob), s.tier.seals = [j] → j.left = [x] → entState (tierEntry s x) = stSealing →
        (cxlAt s (entPort (tierEntry s x))).serve = true → (cxlAt s (entPort (tierEntry s x))).up = true →
        ∃ t, exec (.tierSealComplete x) s = .next t ∧ tierEntry t x = setField (tierEntry s x) 0 3 stBoth ∧
          t.tier.gen = s.tier.gen + 1 ∧ t.tier.seals = [] ∧
          Answered s t 0x11 j.tag 0 (detailOf j.ignored j.firstIgnored.toNat))) ∧
  (∀ (s : State) (x : BitVec 19), s.eav.length = 8 →
      (let e := tierEntry s x
       (∃ t, exec (.tierLookup x none) s = .next t ∧ t = { s with eav := t.eav } ∧
         tmcHit (eaveAt t (x.toNat % 8)) x = true ∧ tierEntry t x = (if entState e = stUnmapped then e
           else setField e 64 48 (max (entLast e) (s.crs.course.toNat % 2 ^ 48)))) ∧
       (∀ info, exhausted s (eaveUnit (x.toNat % 8)) = false → ∃ t, exec (.tierLookup x (some (.once 0xA4 info))) s = .next t ∧
         (eaveAt t (x.toNat % 8)).tmcFix = satInc16 (eaveAt s (x.toNat % 8)).tmcFix) ∧
       (∀ info, ∃ t, exec (.tierLookup x (some (.twice 0xA4 info))) s = .next t ∧
         (eaveUnit (x.toNat % 8), 0xA4) ∈ t.saf.inForce) ∧
       (∀ (n : RafterId) p y k rest, physOf s n = some p → s.rft[p]? = some y → y.prefetch = (x, 0, k) :: rest → y.jobs = [] →
         s.saf.resetReq = none → entState e = stHomed → s.tier.queue.length < 1024 →
         (∀ r ∈ s.tier.queue, r.extent ≠ x) → ∃ t, exec (.prefetchForward n) s = .next t ∧ t.tier.queue = s.tier.queue ++ [{ extent := x, sched := false }] ∧
           t.rft = s.rft.set p (streamState { y with prefetch := rest }) ∧
           tierEntry t x = setField e 64 48 (max (entLast e) ((s.crs.course.toNat + 1) % 2 ^ 48))) ∧
       (∀ (k : BitVec 17) (r : SchedRec), s.tier.schedRecs[k.toNat]? = some r → r.count = 0 → r.extent = x →
         working s = true → s.tier.schedEn = true → s.tier.schedCycle ≠ 0 →
         s.crs.course.toNat % s.tier.schedCycle.toNat = r.phase.toNat → s.crs.t0 + 100 * r.delay.toNat ≤ s.now →
         k.toNat ∉ s.tier.issued → entState e = stHomed → s.tier.queue.length < 1024 →
         (∀ r ∈ s.tier.queue, r.extent ≠ x) → ∃ t, exec (.scheduleRecordIssue k) s = .next t ∧ t.tier = { s.tier with
           issued := s.tier.issued ++ [k.toNat], queue := s.tier.queue ++ [{ extent := x, sched := true }] } ∧
           exec (.scheduleRecordIssue k) t = .next t) ∧
       (∀ (k : BitVec 17) (r : SchedRec), s.tier.schedRecs[k.toNat]? = some r → working s = true → s.tier.schedEn = true →
         s.tier.schedCycle ≠ 0 → s.crs.course.toNat % s.tier.schedCycle.toNat = r.phase.toNat →
         s.crs.t0 + 100 * r.delay.toNat ≤ s.now → k.toNat ∉ s.tier.issued →
         exec (.scheduleRecordIssue k) s = .next (requestPromotions true r.hold.toNat (r.count.toNat + 1) r.extent.toNat
           { s with tier := { s.tier with issued := s.tier.issued ++ [k.toNat] } })) ∧
       (∀ r f s2, s.saf.resetReq = none → s.tier.queue.find? (startable s) = some r → r.extent = x → entState e = stHomed →
         takeFrame { s with tier := { s.tier with queue := s.tier.queue.erase r } } (entStack e) r.sched (entOwner e) =
           some (f, s2) → f < 2240 →
         ∃ t, exec .promotionStart s = .next t ∧ tierEntry t x =
             setField (setField (setField e 0 3 stPromoting) 12 12 f) 41 1 (b2n r.sched) ∧
           t.tier.running = s2.tier.running ++ [{ extent := x, port := entPort e = 1, done := 0 }]) ∧
       (∀ f, s.saf.resetReq = none → s.tier.queue = [{ extent := x, sched := false }] → entState e = stHomed →
         (cxlAt s (entPort e)).serve = true → (cxlAt s (entPort e)).up = true → runningOn s (entPort e) < 2 →
         freeFrame s (entStack e) = some f → framesUsed s (entOwner e) < (s.tier.hLimit.getD (entOwner e) 0).toNat →
         ∃ t, exec .promotionStart s = .next t ∧ t.tier.queue = [] ∧
           t.tier.frames = s.tier.frames.modify (entStack e) (fun u => tablePut .free u f (.used x)) ∧
           t.tier.running = s.tier.running ++ [{ extent := x, port := entPort e = 1, done := 0 }] ∧
           tierEntry t x = setField (setField (setField e 0 3 stPromoting) 12 12 f) 41 1 0) ∧
       (∀ (port : Bool) (b : BitVec 12) (pr : Promo) bs,
         s.tier.running.find? (fun r => r.extent = x ∧ r.port = port) = some pr →
         readBlock (cxlAt s (b2n port)) (entWidth e) (entHome e) b.toNat = .inr bs →
         ∃ t, exec (.cxlReadResponse port x b .pass) s = .next t ∧
           t.tier.running = s.tier.running.map (fun r => if r.extent = x ∧ r.port = port then
             { r with done := r.done ||| (1#4096 <<< b.toNat) } else r) ∧
           memRead (eaveAt t (entStack e)).hbm (frameBase e + 4096 * b.toNat) bs.length = bs) ∧
       (∀ (pr : Promo), s.tier.running.find? (fun r => r.extent = x) = some pr →
         (pr.done = BitVec.allOnes 4096 → ∃ t, exec (.promotionComplete x) s = .next t ∧
           t.tier.running = s.tier.running.erase pr ∧
           tierEntry t x = setField e 0 3 stBoth) ∧
         (pr.done ≠ BitVec.allOnes 4096 → exec (.promotionComplete x) s = .next s)) ∧
       (evictable s e = true → ∃ t, exec (.evictionRequest x) s = .next t ∧
         tierEntry t x = setField (setField (setField e 0 3 stHomed) 12 12 0) 41 1 0 ∧
         t.tier.evictions = satInc16 s.tier.evictions ∧
         t.tier.frames = s.tier.frames.modify (entStack e) (fun u => tablePut .free u (entFrame e)
           (releasedUse s e))) ∧
       (evictable s e = false → ∃ t, exec (.evictionRequest x) s = .next t ∧ t = { s with eav := t.eav } ∧
         tierEntry t x = e ∧ (eaveAt t (x.toNat % 8)).tmcRefused = satInc16 (eaveAt s (x.toNat % 8)).tmcRefused)) ∧
      (∀ (port : Bool) c, s.cxl[b2n port]? = some c →
        (c.up = false → exec (.cxlLinkDown port) s = .next s) ∧
        (c.up = true → ∃ t, exec (.cxlLinkDown port) s = .next t ∧ (cxlAt t (b2n port)).up = false ∧
          (cxlUnit (b2n port), 0xA2) ∈ t.saf.inForce ∧ t.tier.fault = s.tier.fault ||| 4)) ∧
      (∀ (k : BitVec 3) (temp : Byte), s.pwr.pwrgood = true → ∃ t, exec (.stackTemperatureReport k temp) s = .next t ∧
        t.pwr.stackTemps = s.pwr.stackTemps.set k.toNat temp ∧
        (eaveAt t k.toNat).fastRefresh = decide (85 < temp.toInt)))

/-- A block of 4,096 bytes that has been thatched reads back as it was, whatever its element width. -/
def Obligations.ThatchedBlocksReadBack : Prop :=
  ∀ (width sect : Nat) (bs : List Byte), bs.length = 4096 → sect < 2 ^ 18 →
    (let r := encodeBlock width bs
     decodeBlock width (dirEntry r.1 r.2.1 sect (crc32c bs)) r.2.2 = .inr bs)

/-- Export and import of shards. LINK.EXPORT begins where a program with an export map is loaded, LINK.IMPORT where
learning is stopped as well; otherwise the command is answered with STATUS 1. When the records have passed, the job is
over and the command is answered with their number; an exported stream lies at its address, an accepted record is written
over its shard's live state, and one that fails its checks is not written. An import is refused where learning has been
started again. -/
def Obligations.ExportsAndImports : Prop :=
  (∀ (s : State) (o : LinkXferOps), Attends s → s.pwr.stage = 2 → shardRangeBad o = false →
    (expMap s = none → ∃ t u, exec (.linkExport o) s = .next t ∧ Answered s t 0x18 o.tag 1 (detailOf 0 0xFFFFFFFF) ∧
      Untouched s t ∧ exec (.linkImport o) s = .next u ∧ Answered s u 0x19 o.tag 1 (detailOf 0 0xFFFFFFFF) ∧ Untouched s u) ∧
    (s.upd.lstop = false → ∃ u, exec (.linkImport o) s = .next u ∧ Untouched s u ∧
      Answered s u 0x19 o.tag 1 (detailOf 0 0xFFFFFFFF)) ∧
    (expMap s ≠ none → ∃ t, exec (.linkExport o) s = .next t ∧ Untouched s t ∧ t.hst.mem = s.hst.mem ∧
      t.hst.xfers = s.hst.xfers ++ [{ o := o, imp := false, failed := false }]) ∧
    (expMap s ≠ none → s.upd.lstop = true → ∃ t, exec (.linkImport o) s = .next t ∧ t.hst.mem = s.hst.mem ∧
      t.hst.xfers = s.hst.xfers ++ [{ o := o, imp := true, failed := false }] ∧ (o.byRank = false → Untouched s t))) ∧
  (∀ (s : State) (tag : W16), (∀ j ∈ s.hst.xfers, j.imp = true ∨ j.o.tag ≠ tag) →
    exec (.linkExportComplete tag) s = .next s) ∧
  (∀ (s : State) (recs : List ExportRec), (∀ j ∈ s.hst.xfers, j.imp = false) →
    exec (.linkImportComplete recs) s = .next s) ∧
  (∀ (s : State) (j : XferJob), s.hst.xfers = [j] → s.crs.running = false → s.saf.hwSafe = false →
    (j.imp = false → ∃ t n q, ∃ ok : Bool, exec (.linkExportComplete j.o.tag) s = .next t ∧ t.hst.xfers = [] ∧
      Answered s t 0x18 j.o.tag (if ok then 0 else 6) (detailOf n q) ∧
      (j.o.count = 0 ∨ j.o.content = 0 → j.o.byRank = false → ok = true ∧ n = 0 ∧ q = 0xFFFFFFFF)) ∧
    (j.imp = false → j.o.byRank = false → ∀ s1 n bs s2,
      exportAll (itemsOf j.o.first.toNat j.o.count.toNat j.o.content) { s with hst := { s.hst with xfers := [] } } =
        (s1, n, bs, none) → bs ≠ [] →
      unitWrite s1 (engineOf s1 (BitVec.ofNat 20 j.o.first.toNat)) j.o.addr.toNat bs = (s2, true) →
      ∃ t, exec (.linkExportComplete j.o.tag) s = .next t ∧ t.eav = s2.eav ∧
        Answered s t 0x18 j.o.tag 0 (detailOf n 0xFFFFFFFF)) ∧
    (j.imp = true → s.upd.lstop = false → ∀ recs, ∃ t, exec (.linkImportComplete recs) s = .next t ∧ t.hst.xfers = [] ∧
      Answered s t 0x19 j.o.tag 1 (detailOf 0 0xFFFFFFFF) ∧ Untouched s t) ∧
    (j.imp = true → s.upd.lstop = true → ∀ recs, ∃ t n q, ∃ ok : Bool, exec (.linkImportComplete recs) s = .next t ∧ t.hst.xfers = [] ∧
      Answered s t 0x19 j.o.tag (if ok then 0 else 6) (detailOf n q)) ∧
    (j.imp = true → s.upd.lstop = true → j.failed = true → ∀ recs, ∃ t, exec (.linkImportComplete recs) s = .next t ∧
      Untouched s t ∧ Answered s t 0x19 j.o.tag 6 (detailOf 0 (j.o.first.toNat % 2 ^ 20))) ∧
    (j.imp = true → s.upd.lstop = true → j.failed = false → j.o.byRank = true → ∀ r : ExportRec,
      (let e := mapEntry { s with hst := { s.hst with xfers := [] } } r.shard
       (recordOk e.1 j.o e.2 r = false →
         ∃ t, exec (.linkImportComplete [r]) s = .next t ∧ t.eav = e.1.eav ∧ t.cxl = e.1.cxl ∧ t.upd = e.1.upd ∧
           Answered s t 0x19 j.o.tag 6 (detailOf 0 r.shard.toNat)) ∧
       (∀ s1, recordOk e.1 j.o e.2 r = true → r.data ≠ [] →
         unitWrite e.1 (engineOf e.1 r.shard) (contentOf e.1 r.shard r.content.toNat).2.1 r.data = (s1, true) →
         (itemsOf j.o.first.toNat j.o.count.toNat j.o.content).length = 1 →
         ∃ t, exec (.linkImportComplete [r]) s = .next t ∧ t.eav = s1.eav ∧ r.shard ∉ t.upd.suspects ∧
           Answered s t 0x19 j.o.tag 0 (detailOf 1 0xFFFFFFFF)))))

/-! ### The course (R49 to R79, R525, R526) -/

/-- The checks of the course timer. After the tick T0 + D a decision that has not ended starts a warm reset, or is lasting where the
decision has been re-run or the course started late. At the close point the course closes: without a fault where every
rafter has finished and every spar is at rest, with DEADLINE where a rafter has not finished, with REST where a spar
is away from rest; a course fault in the course before makes it lasting (of either kind: log 113). Hold-only releases at T0 + D + 50 µs mark the
course as held. A check before its instant does nothing. An external source and COURSE_OUT. An edge of COURSE_IN, after 100 ns
low and with 100 ns high, sets the first boundary instant of a program that awaits it, is taken as the coming instant within 2 µs of the prediction,
and otherwise sends the device to holdover, with event SRC and its fault bit; so does an instant that does not come.
In holdover an instant a period ± 2 µs after the one before is counted, and any other counts as the first.
COURSE_OUT falls 1 µs after it rose. -/
def Obligations.CourseEvents : Prop :=
  (∀ (s : State), exhausted s ridgeUnit = false →
      (let due := s.crs.running = true ∧ s.crs.phase = 1 ∧ s.saf.resetReq = none ∧ s.crs.rerun = false ∧
         s.crs.t0 + s.crs.decBound.toNat < s.now
       let closing := s.crs.running = true ∧ s.crs.closed = false ∧ s.crs.next ≤ s.now + 4000
       let Raises := fun (i : Instr) (code : Byte) (bit : W32) =>
         ∃ t, exec i s = .next t ∧ t.crs.fault = s.crs.fault ||| bit ∧ t.saf.resetReq.isSome = true ∧
           ∃ g ∈ t.saf.queue, g.code = code ∧ g.unit = ridgeUnit ∧ g.cls = .reset
       (¬ due → exec .decisionDeadlineCheck s = .next s) ∧
       (due → s.crs.reranFlag = false → s.crs.delayed = false → Raises .decisionDeadlineCheck 0xD0 1) ∧
       (due → s.crs.reranFlag = true ∨ s.crs.delayed = true → ∃ t, exec .decisionDeadlineCheck s = .next t ∧
         (ridgeUnit, 0xD0) ∈ t.saf.inForce) ∧
       (¬ closing → exec .closePointCheck s = .next s) ∧
       (closing → s.saf.resetReq = none → s.crs.abandoned = false → s.saf.hwSafe = false →
         (∃ t, exec .closePointCheck s = .next t ∧ t.crs.closed = true ∧ t.crs.phase = 3) ∧
         (firstUnfinished s = none → firstAway s = none → ∃ t, exec .closePointCheck s = .next t ∧
           t.crs.fault = s.crs.fault ∧ t.crs.heldFlag = (s.crs.heldFlag || holding t)) ∧
         (firstUnfinished s ≠ none → s.crs.lastCourseFault = none → Raises .closePointCheck 0xD1 2) ∧
         (firstUnfinished s = none → firstAway s ≠ none → s.crs.lastCourseFault = none → Raises .closePointCheck 0xD2 4) ∧
         (∀ c, firstUnfinished s ≠ none → s.crs.lastCourseFault = some c → c + 1 = s.crs.course →
           ∃ t, exec .closePointCheck s = .next t ∧ (ridgeUnit, 0xD1) ∈ t.saf.inForce)) ∧
       (s.crs.running = true → s.crs.phase = 1 → s.crs.t0 + s.crs.decBound.toNat + 5000 ≤ s.now →
         (s.crs.rerun = true ∨ s.saf.resetReq ≠ none ∨ s.saf.inForce ≠ []) →
         ∃ t, exec .holdOnlyReleaseDeadline s = .next t ∧ t.crs.heldFlag = true ∧ t.crs.decEnded = true) ∧
       (s.crs.running = false ∨ s.now < s.crs.t0 + s.crs.decBound.toNat + 5000 →
         exec .holdOnlyReleaseDeadline s = .next s))) ∧
  (∀ (s : State), (s.pkg.courseLow < 100 ∨ s.pkg.courseHigh < 100 → exec .courseInEdge s = .next s) ∧
    (100 ≤ s.pkg.courseLow → 100 ≤ s.pkg.courseHigh →
      (let edge := Instr.courseInEdge
       let Holdover := fun (i : Instr) => ∃ t, exec i s = .next t ∧ t.crs.holdover = true ∧ t.crs.locked = false ∧
         t.crs.rejoin = false ∧ t.crs.fault = s.crs.fault ||| 8 ∧ t.crs.next = s.crs.next
       (s.crs.source ≠ 1 → exec edge s = .next s) ∧
       (s.crs.source = 1 → s.crs.starting = true → s.crs.extNext = none → s.crs.next ≤ s.now →
         exec edge s = .next { s with crs := { s.crs with extNext := some s.now, next := s.now, locked := true } }) ∧
       (s.crs.source = 1 → s.crs.starting = false → s.crs.running = true → s.crs.holdover = false → s.crs.rejoin = false →
         (s.now ≤ s.crs.next + 200 → s.crs.next ≤ s.now + 200 → s.crs.extNext = none → exec edge s =
           .next { s with crs := { s.crs with extNext := some s.now, locked := true } }) ∧
         (s.crs.next + 200 < s.now ∨ s.now + 200 < s.crs.next → Holdover edge)) ∧
       (s.crs.source = 1 → s.crs.starting = false → s.crs.running = true → s.crs.holdover = true → s.crs.rejoin = false →
         ∃ t, exec edge s = .next t ∧ t.crs.lastExt = some s.now ∧ t.crs.next = s.crs.next ∧ t.crs.holdover = true ∧
           ∀ t0, s.crs.lastExt = some t0 → t.crs.good =
             (if s.now ≤ t0 + s.crs.period.toNat + 200 ∧ t0 + s.crs.period.toNat ≤ s.now + 200 then s.crs.good + 1 else 1)) ∧
       (s.crs.running = true → s.crs.source ≠ 0 → extInstant s = none → s.crs.next + 200 < s.now → s.crs.holdover = false →
         Holdover .sourceLost) ∧
       (s.crs.running = false ∨ s.crs.source = 0 ∨ s.now ≤ s.crs.next + 200 → exec .sourceLost s = .next s) ∧
       (∀ t0, s.pkg.courseOut = some t0 →
         (t0 + 100 ≤ s.now → exec .courseOutPulseEnd s = .next { s with pkg := { s.pkg with courseOut := none } }) ∧
         (s.now < t0 + 100 → exec .courseOutPulseEnd s = .next s)))))

/-- The boundary sequence and the start of a course on the internal timer. Steps 1 to 5 take the ticks named, count a
snapshot, end the step where every group has an outcome, and write the course record, which begins with the course and
the step; they are done once. Step 6 at the instant raises the course by one, sends vector 0, starts every rafter at its
entry slot, and opens the decision phase, in which rafters not marked hold; with a decision bound of 0 there is none.
Where the external source gives the instant, or faults are in force, the course starts too. -/
def Obligations.BoundariesAndCourses : Prop :=
  (∀ (s : State) (snap ticks : W16), working s = true → s.crs.slotDone = false → s.crs.next ≤ s.now + 1000 →
    s.crs.defer = [] → s.pwr.fullDue = none → s.crs.haltStop = false → s.hst.takeover = none → s.crs.stepped = none →
    s.prog.started = true →
    ∃ t, exec (.boundarySequence snap ticks) s = .next t ∧ t.crs.slotDone = true ∧ t.now = s.now + ticks.toNat ∧
      t.crs.slotEnd = t.now ∧ t.crs.course = s.crs.course ∧ t.cnt.snaps = satInc16 s.cnt.snaps ∧
      t.crs.step = (if stepReady (snapshotStep s snap) then s.crs.step + 1 else s.crs.step) ∧
      exec (.boundarySequence snap ticks) t = .next t ∧
      (s.prog.img = none → s.pwr.stage = 2 → s.eav.length = 8 →
        memRead (eaveAt t 0).hbm (resvBase + 0x100000 + 512 * (s.crs.course.toNat % 1024)) 16 =
          bytesOf 8 s.crs.course.toNat ++ bytesOf 8 t.crs.step.toNat)) ∧
  (∀ (s : State) (snap ticks : W16), working s = true → s.crs.slotDone = false → s.crs.next ≤ s.now + 1000 →
    (let again := s.crs.stepped.isSome
     let a := disableStep (digestStep (recordStep (snapshotStep s snap)) again) again
     let b := elapse (fetchStep (publishAll a again)) ticks.toNat
     exec (.boundarySequence snap ticks) s = .next (if a.crs.running then
       slotCheck { b with crs := { b.crs with slotDone := true, slotEnd := b.now } } else elapse a ticks.toNat))) ∧
  (∀ (s : State) (snap ticks : W16), (working s = false ∨ s.crs.slotDone = true ∨ s.now + 1000 < s.crs.next) →
    exec (.boundarySequence snap ticks) s = .next s) ∧
  (∀ (s : State), (s.now < s.crs.next ∧ s.crs.source = 0) ∨ s.saf.resetReq ≠ none ∨ s.saf.hwSafe = true →
    exec .courseStart s = .next s) ∧
  (∀ (s : State), s.saf.resetReq = none → s.saf.hwSafe = false → s.saf.inForce = [] → s.crs.source = 0 →
    s.crs.lastExt = none → s.crs.next ≤ s.now → s.rft.length = 96 → (∀ p ∈ positions s, (rafterAt s p).routine = 0) →
    (let Started := fun (c : W64) =>
       ∃ t, exec .courseStart s = .next t ∧ t.crs.running = true ∧ t.crs.starting = false ∧ t.crs.course = c ∧
         t.crs.t0 = s.now ∧ t.crs.next = s.crs.next + s.crs.period.toNat ∧ t.crs.slotDone = false ∧ t.crs.closed = false ∧
         (s.crs.decBound = 0 → t.crs.phase = 2) ∧
         (s.crs.decBound ≠ 0 → (∃ p ∈ positions s, (rafterAt s p).decision = true) → t.crs.phase = 1 ∧
           ∀ p ∈ positions s, (rafterAt t p).hold = !(rafterAt s p).decision) ∧
         ∀ p ∈ positions s, (rafterAt t p).seq.slot = (rafterAt s p).entry ∧
           (rafterAt t p).seq.idx = descEntry (slotDescOf (rafterAt s p) (rafterAt s p).entry) ∧
           (rafterAt t p).idle = false ∧ (rafterAt t p).acc = List.replicate 2 Acc.reset ∧
           (rafterAt t p).scratch = (rafterAt s p).scratch
     (s.crs.starting = true → Started s.crs.course) ∧
     (s.crs.starting = false → s.crs.running = true → s.crs.slotDone = true → s.hst.fetched = [] → s.crs.heldSets = [] →
       s.crs.slotEnd ≤ s.crs.next → Started (s.crs.course + 1) ∧
         (s.hst.msixMask.getLsbD 0 = false → ∃ t, exec .courseStart s = .next t ∧ 0 ∈ t.hst.msixSent)))) ∧
  (∀ (s : State) (at_ : Nat), s.saf.resetReq = none → s.saf.hwSafe = false → instantOf s = some at_ → at_ ≤ s.now →
    (s.crs.starting = true → exec .courseStart s = .next (firstCourse s at_)) ∧
    (s.crs.starting = false → s.crs.running = true → s.crs.slotDone = true → exec .courseStart s =
      .next (sendCpl (sendMsix (newCourse (takeFetched s) at_ (decide (at_ < s.crs.slotEnd))) 0)))) ∧
  (∀ (s : State) (at_ : Nat) (late : Bool), s.crs.decBound ≠ 0 → (∃ p ∈ positions s, (rafterAt s p).decision = true) →
    s.rft.length = 96 → (∀ p ∈ positions s, (rafterAt s p).routine = 0) →
    (let t := newCourse s at_ late
     t.crs.running = true ∧ t.crs.starting = false ∧ t.crs.t0 = s.now ∧ t.crs.delayed = late ∧ t.crs.slotDone = false ∧
     t.crs.closed = false ∧ t.crs.phase = 1 ∧ t.crs.course = (if s.crs.starting then s.crs.course else s.crs.course + 1) ∧
     t.tier.issued = [] ∧ t.saf.hold = !s.saf.inForce.isEmpty))

/-! ### Parameter update (R362 to R392, R499 to R501) -/

/-- The stages of a receiving unit. Of its oldest request, one of an older work generation is dropped with its group
skipped, and a duplicate is discarded; a delivered ring entry goes to stage 5; a request whose entries fail the checks
skips its group; and one that passes, with its gradients delivered whole or read in place, has them guarded and stands at
stage 2. At stage 3 to 5, with the control word where the group has one, the update
program runs, or the group is skipped. At stage 6 to 8 the ring entry and the commit
record are written and the shard is prepared, or it leaves with its group skipped; before its guard it waits. -/
def Obligations.UpdateStages : Prop :=
  ∀ (s : State) (u : UnitId) (k : Nat) (v : UpdUnit), Receives s u k v →
    (v.queue = [] → exec (.updateRequest u .pass) s = .next s) ∧
    (∀ j rest, v.jobs = j :: rest → j.stage = 5 → guardDone (takeUnitReplies s k) k j.req = false →
      exec (.guardWaitSatisfied u .pass) s = .next (takeUnitReplies s k)) ∧
    (Unguarded s v →
    (∀ r rest, v.queue = r :: rest → v.jobs = [] →
      (let s0 := setUu s k { v with queue := rest }
       let s1 := startGroup { s0 with upd := { s0.upd with taken := s0.upd.taken ++ [r.shard] } } r.group
       (r.wgen ≠ unitWgen s u → ∃ t, exec (.updateRequest u .pass) s = .next t ∧
         uuAt t k = { v with queue := rest } ∧ (groupAt t r.group).st = 3) ∧
       (r.wgen = unitWgen s u → r.shard ∈ s.upd.taken → r.inst = none → ∃ t, exec (.updateRequest u .pass) s = .next t ∧
         uuAt t k = { v with queue := rest } ∧ t.upd.groups = s.upd.groups) ∧
       (r.wgen = unitWgen s u → r.shard ∉ s.upd.taken → r.entry ≠ none →
         ∃ t, exec (.updateRequest u .pass) s = .next t ∧ uuAt t k = { v with queue := rest, jobs := [newJob r 5] } ∧
           ((groupAt s r.group).st = 0 → (groupAt t r.group).st = 1)) ∧
       (∀ t1, r.wgen = unitWgen s u → r.shard ∉ s.upd.taken → r.entry = none → readTables s1 k r = (t1, true) →
         (entriesOk t1 k r = false →
           ∃ t, exec (.updateRequest u .pass) s = .next t ∧ (groupAt t r.group).st = 3 ∧
             (uuAt t k).jobs = [{ newJob r 2 with groupSkip := true }] ∧ (uuAt t k).skipGroup = satInc16 v.skipGroup ∧
             t.upd.taken = s.upd.taken ++ [r.shard]) ∧
         (∀ t2 s2 bs, entriesOk t1 k r = true → gPart (groupEntry t2 r.group) = false →
           (r.src = .hbm ∧ t2 = t1 ∨ r.src ≠ .hbm ∧ r.vals.length = shElems (shardEntry t1 r.shard) ∧
             unitWrite t1 k (shGrad (shardEntry t1 r.shard)) (bytesOfWords (gradVals (shardEntry t1 r.shard) r)) = (t2, true)) →
           unitRead t2 k (shGrad (shardEntry t2 r.shard)) (4 * shElems (shardEntry t2 r.shard)) = (s2, some bs) →
           gCtl (groupEntry s2 r.group) = false →
           (let l := wordsOf (shElems (shardEntry t2 r.shard)) bs
            exec (.updateRequest u .pass) s = .next (updUu s2 k (fun w => { w with jobs :=
              [{ newJob r 2 with nf := l.any (fun x => !isFin (fv x)), sq := guardSum l, maxa := maxMagnitude l }] }))))))) ∧
    (∀ j t1 t2 bs, v.jobs = [j] → j.stage = 2 → j.req.inst = none → readTables s k j.req = (t1, true) →
      (let ge := groupEntry s j.req.group
       gCtl ge = false ∧ t2 = t1 ∧ bs = bytesOf 8 0x3F800000 ∨
         gCtl ge = true ∧ waitDone s k (gCtlSpar ge) = true ∧ unitRead t1 k (gCtlAddr ge) 8 = (t2, some bs)) →
      (let w := controlWord bs
       let d := decideShard t2 k j w.2
       (j.groupSkip = true ∨ (groupAt s j.req.group).st = 3 ∨ w.2 = true ∧ gAgree (groupEntry t2 j.req.group) = false →
         d.2.groupSkip = true) ∧
       (d.2.groupSkip = true → ∃ t, exec (.controlWaitSatisfied u .pass) s = .next t ∧ t.eav = t2.eav ∧
         (uuAt t k).jobs = [{ d.2 with stage := 5, accepted := true }] ∧ (w.2 = true → j.groupSkip = false → (groupAt t j.req.group).st = 3)) ∧
       (∀ s2, d.2.groupSkip = false → runStage5 d.1 k d.2 w.1 = (s2, true) →
         ∃ t, exec (.controlWaitSatisfied u .pass) s = .next t ∧
           (uuAt t k).jobs = [{ d.2 with stage := 5, accepted := true }] ∧ t.eav = s2.eav))) ∧
    (∀ j, v.jobs = [j] → j.stage = 5 → j.accepted = true →
      (j.groupSkip = true → ∃ t, exec (.guardWaitSatisfied u .pass) s = .next t ∧ (uuAt t k).jobs = []) ∧
      (∀ s1 s2 bs, j.groupSkip = false → (groupAt s j.req.group).st ≠ 3 → s.eav.length = 8 →
        (j.req.entry ≠ none ∧ j.req.shard ∉ s.upd.taken ∨ j.req.entry = none ∧ repDesc s = none ∧
          (gAgree (groupEntry s j.req.group) = true → (groupAt s j.req.group).result ≠ none)) →
        s.lnk.digest.running = false → ringBytes s k j = (s1, some bs) →
        unitWrite s1 k (entryAddr s1 j.req.group (shardEntry s j.req.shard) (nextHead (groupAt s1 j.req.group))) bs = (s2, true) →
        ∃ t, exec (.guardWaitSatisfied u .pass) s = .next t ∧ (uuAt t k).jobs = [] ∧
          j.req.shard ∈ (groupAt t j.req.group).prep ∧
          memRead (eaveAt t (shEave (shardEntry s j.req.shard))).hbm (commitAddr j.req.shard) 64 = commitRecord s2 j)))

/-- Global agreement and publication. With every owned shard's flag, the flag-reduce of a group starts. Its result is
counted, and a result of 1 skips the group; with none after AGTO µs it counts as 1. A publish set whose shards'
new entries have all been copied is staged for its step. -/
def Obligations.AgreementAndStaging : Prop :=
  ∀ (s : State) (g : BitVec 8),
    (working s = true → gAgree (groupEntry s g) = true → (groupAt s g).reduceAt = none → (groupAt s g).result = none →
      flagsComplete s g = true → ∃ t, exec (.flagReduceStart g) s = .next t ∧ (groupAt t g).reduceAt = some s.now) ∧
    (working s = false ∨ gAgree (groupEntry s g) = false ∨ flagsComplete s g = false →
      exec (.flagReduceStart g) s = .next s) ∧
    ((∀ i ∈ s.lnk.insts, i.agree ≠ some g ∨ i.done = false) → exec (.agreementResult g) s = .next s) ∧
    (∀ i, s.lnk.insts.find? (fun i => i.agree == some g && i.done) = some i → (groupAt s g).timedOut = false →
      (groupAt s g).result = none → ∃ t, exec (.agreementResult g) s = .next t ∧ t.lnk.insts = (dropInst s i).lnk.insts ∧
        (groupAt t g).result = some i.flag ∧ (groupAt t g).timedOut = false ∧
        (groupAt t g).st = (if i.flag then 3 else (groupAt s g).st)) ∧
    (∀ t0, (groupAt s g).reduceAt = some t0 →
      ((groupAt s g).result = none → t0 + 100 * gAgTo (groupEntry s g) ≤ s.now →
        ∃ t, exec (.agreementTimeout g) s = .next t ∧ (groupAt t g).result = some true ∧ (groupAt t g).timedOut = true ∧
          (groupAt t g).st = 3) ∧
      ((groupAt s g).result ≠ none ∨ s.now < t0 + 100 * gAgTo (groupEntry s g) → exec (.agreementTimeout g) s = .next s)) ∧
    (∀ (set : BitVec 4) v, s.hst.pubs[set.toNat]? = some v →
      (pubImg s set.toNat = none ∨ v.staging = false → exec (.publishStagingComplete set) s = .next s) ∧
      (∀ i s1, pubImg s set.toNat = some i → v.staging = true → v.left.foldl (copyShard i v) (s, true) = (s1, true) →
        exec (.publishStagingComplete set) s = .next (staleCheck (setPub s1 set.toNat { v with
          staging := false, staged := true, stageStep := v.toStep, left := [] }) set.toNat)) ∧
      (∀ i s1, pubImg s set.toNat = some i → v.staging = true → v.perm = none →
        v.left.foldl (copyShard i v) (s, true) = (s1, true) →
        ∃ t, exec (.publishStagingComplete set) s = .next t ∧ t.hst.pubs = s.hst.pubs.set set.toNat { v with
          staging := false, staged := true, stageStep := v.toStep, left := [] }))

/-! ### Ixerta links (R437 to R477) -/

/-- Messages in order. DATA and FLAG of an instance that has not started are staged where they fit, and refused without
taking their PSN where they do not; a roof digest is recorded; ABORT records the sender's course; REQ is taken. Each
raises the PSN that the connection expects. -/
def Obligations.MessagesInOrder : Prop :=
  ∀ (s : State) (port : BitVec 3) (p : LnkPort) (c : Conn) (m : IxMsg), InOrder s port.toNat p c m →
    (let l := port.toNat
     let a := inOrderTaken s l c m
     (isStale s m = true → exec (.ixertaData port m .pass) s = .next (staleDrop a l) ∧
       exec (.ixertaFlag port m) s = .next (staleDrop a l)) ∧
     (isStale s m = false → started s m = true →
       exec (.ixertaData port m .pass) s = .next (takeMsg a m.src (toMsg s 0 m)) ∧
       exec (.ixertaFlag port m) s = .next (takeMsg a m.src (toMsg s 5 m))) ∧
     (isStale s m = false → started s m = false →
       (isRing s m = true → exec (.ixertaData port m .pass) s = .next (takeRing a m.offset.toNat m.payload)) ∧
       (isRing s m = false → importing s m = true →
         exec (.ixertaData port m .pass) s = .next (if answerCurrent s l m then a else staleDrop a l)) ∧
       (s.saf.hold = true → (mustStage s m = true → stagedBytes p + m.payload.length ≤ 2 ^ 23) →
         exec (.ixertaFlag port m) s = .next (holdFlag a m))) ∧
     exec (.ixertaDigest port m) s = .next (takeDigest a m.src (toMsg s 6 m)) ∧
     (let u := failWhere a (fun i => i.course == m.course && i.group.contains m.src) 4
      ∃ t, exec (.ixertaAbort port m) s = .next t ∧ t.lnk.insts = u.lnk.insts ∧
        t.lnk.aborted = u.lnk.aborted ++ [(m.course, m.src)]) ∧
     (expMap s ≠ none →
       (let r := exportAll (itemsOf (natOfBytes (m.payload.take 4)) (natOfBytes ((m.payload.drop 4).take 4))
          (BitVec.ofNat 4 (natOfBytes ((m.payload.drop 8).take 1)))) a
        exec (.ixertaReq port m) s = .next (sendRecords r.1 m.src (some (m.rgen, m.wgen)) r.2.2.1))) ∧
     (mustStage s m = true →
       (stagedBytes p + m.payload.length ≤ 2 ^ 23 →
         (∃ t, exec (.ixertaData port m .pass) s = .next t ∧ connOn t l m.src = afterMessage s c ∧
           (portAt t l).staged = p.staged ++ [(m.src, toMsg s 0 m)] ∧ t.lnk.insts = s.lnk.insts ∧ t.lnk.out = s.lnk.out) ∧
         (s.saf.hold = false → ∃ t, exec (.ixertaFlag port m) s = .next t ∧ connOn t l m.src = afterMessage s c ∧
           (portAt t l).staged = p.staged ++ [(m.src, toMsg s 5 m)] ∧ t.lnk.insts = s.lnk.insts)) ∧
       (2 ^ 23 < stagedBytes p + m.payload.length →
         exec (.ixertaData port m .pass) s = .next (updPort s l (fun p => { p with stale := satInc16 p.stale })) ∧
         exec (.ixertaFlag port m) s = .next (updPort s l (fun p => { p with stale := satInc16 p.stale })))) ∧
     (m.xfer.getLsbD 1 = false → s.lnk.digest.kinds = [] → ∃ t, exec (.ixertaDigest port m) s = .next t ∧
       connOn t l m.src = afterMessage s c ∧
       (m.src, m.xfer.getLsbD 0, BitVec.ofNat 512 (natOfBytes m.payload)) ∈ t.lnk.digest.roofs) ∧
     (s.lnk.insts = [] → ∃ t, exec (.ixertaAbort port m) s = .next t ∧ connOn t l m.src = afterMessage s c ∧
       t.lnk.aborted = s.lnk.aborted ++ [(m.course, m.src)]) ∧
     (expMap s = none → ∃ t, exec (.ixertaReq port m) s = .next t ∧ connOn t l m.src = afterMessage s c ∧
       t.lnk.out = s.lnk.out ∧ t.eav = s.eav))

/-- Acknowledgement, resending and opening. ACK frees what its APSN acknowledges; NAK has the rest sent again, marked;
a message past a gap is answered with one NAK and not taken. OPEN opens the connection and is answered with OPEN_ACK under
the request's generations; OPEN_ACK opens it where its generations are current, and is otherwise stale. The
acknowledgement timer sends an ACK 2 µs after the message it acknowledges; the resend timer sends the oldest
message again after RTO µs, and after the last retry the connection closes. A message that fails its CRC, one of an unknown
sender, and one on a port that is not ready are not taken. -/
def Obligations.ConnectionsAcknowledgeAndOpen : Prop :=
  ∀ (s : State) (port : BitVec 3) (p : LnkPort) (c : Conn), s.lnk.ports[port.toNat]? = some p →
    (let l := port.toNat
     (∀ m, portReady s l = true → peerValid p m.src = true → m.crcOk = true → m.addrOk = true → connAt p m.src = c →
       (c.waiting = [] →
         (let kept := c.kept.dropWhile (fun k => decide (0 < (m.apsn - k.psn).toNat ∧ (m.apsn - k.psn).toNat < 2 ^ 31))
          let named := fun (k : LinkMsg) => decide ((k.psn - m.apsn).toNat < 2 ^ 31)
          let again := (kept.filter named).map (fun k => { k with retx := true, apsn := c.rx, sentAt := s.now })
          (∃ t, exec (.ixertaAck port m) s = .next t ∧ t.lnk.out = s.lnk.out ∧ (connOn t l m.src).kept = kept ∧
            (connOn t l m.src).isOpen = c.isOpen) ∧
          ∃ t, exec (.ixertaNak port m) s = .next t ∧
            t.lnk.out = again.reverse.map (fun k => (BitVec.ofNat 3 l, k)) ++ s.lnk.out ∧
            (connOn t l m.src).kept = kept.filter (fun k => !named k) ++ again)) ∧
       (∃ t, exec (.ixertaOpen port m) s = .next t ∧ (connOn t l m.src).isOpen = true ∧ (connOn t l m.src).rx = 0) ∧
       (c.isOpen = true → answerCurrent s l m = true → exec (.ixertaOpenAck port m) s = .next s) ∧
       (∀ k, c.isOpen = true → c.kept = [k] → c.waiting = [] →
         (m.apsn = k.psn + 1 → ∃ t, exec (.ixertaAck port m) s = .next t ∧ t.lnk.out = s.lnk.out ∧
           connOn t l m.src = { c with kept := [], timeouts := 0 }) ∧
         (m.apsn = k.psn → ∃ t, exec (.ixertaNak port m) s = .next t ∧
           (let again := { k with retx := true, apsn := c.rx, sentAt := s.now }
            t.lnk.out = (BitVec.ofNat 3 l, again) :: s.lnk.out ∧ connOn t l m.src = { c with kept := [again] }))) ∧
       (c.isOpen = true → c.kept = [] → m.psn ≠ c.rx → (m.psn - c.rx).toNat < 2 ^ 31 → c.nak = false →
         mustStage s m = false ∨ stagedBytes p + m.payload.length ≤ 2 ^ 23 →
         ∃ t, exec (.ixertaData port m .pass) s = .next t ∧ (connOn t l m.src).rx = c.rx ∧ (connOn t l m.src).nak = true ∧
           ∃ a, t.lnk.out = (BitVec.ofNat 3 l, a) :: s.lnk.out ∧ a.typ = 2 ∧ a.dst = m.src ∧ a.apsn = c.rx) ∧
       (c.kept = [] → c.waiting = [] → ∃ t, exec (.ixertaOpen port m) s = .next t ∧
         connOn t l m.src = { Conn.reset with isOpen := true } ∧
         t.lnk.out = (BitVec.ofNat 3 l, { typ := 4, dst := m.src, last := false, retx := false, psn := 0, apsn := 0
                                          xfer := 0, rgen := m.rgen, wgen := m.wgen, course := 0, offset := 0
                                          payload := [], sentAt := s.now }) :: s.lnk.out) ∧
       (c.isOpen = false → c.kept = [] → c.waiting = [] →
         (answerCurrent s l m = true → ∃ t, exec (.ixertaOpenAck port m) s = .next t ∧
           connOn t l m.src = { Conn.reset with isOpen := true }) ∧
         (answerCurrent s l m = false → exec (.ixertaOpenAck port m) s =
           .next (updPort s l (fun p => { p with stale := satInc16 p.stale }))))) ∧
     (∀ m, (portReady s l = false → exec (.ixertaAck port m) s = .next s) ∧
       (portReady s l = true → m.crcOk = false → c = connAt p m.src → c.badPsn ≠ some m.psn →
         ∃ t, exec (.ixertaAck port m) s = .next t ∧ (portAt t l).badCrc = satInc16 p.badCrc ∧
           connOn t l m.src = { c with badPsn := some m.psn }) ∧
       (portReady s l = true → m.crcOk = false → c = connAt p m.src → c.badPsn = some m.psn →
         ∃ t, exec (.ixertaAck port m) s = .next t ∧ (linkUnit l, 0xB0) ∈ t.saf.inForce) ∧
       (portReady s l = true → m.crcOk = true → (m.addrOk = false ∨ peerValid p m.src = false) →
         exec (.ixertaAck port m) s = .next (updPort s l (fun p => { p with foreign := satInc16 p.foreign })))) ∧
     (∀ r, connAt p r = c →
       (∀ t0, c.ackFrom = some t0 → t0 + 200 ≤ s.now → ∃ t, exec (.ackTimer port r) s = .next t ∧
         connOn t l r = { c with sinceAck := 0, ackFrom := none } ∧
         ∃ a, t.lnk.out = (BitVec.ofNat 3 l, a) :: s.lnk.out ∧ a.typ = 1 ∧ a.dst = r ∧ a.apsn = c.rx) ∧
       (c.ackFrom = none → exec (.ackTimer port r) s = .next s) ∧
       (c.isOpen = false → exec (.resendTimeout port r) s = .next (sendOpen s l r)) ∧
       (∀ k rest, c.isOpen = true → c.kept = k :: rest → k.sentAt + 100 * p.rto.toNat ≤ s.now →
         exec (.resendTimeout port r) s = .next (if p.retry.toNat ≤ c.timeouts + 1 then failConn s l r else
           resendFrom (updConn s l r (fun c => { c with timeouts := c.timeouts + 1 })) l r k.psn)) ∧
       (∀ k, c.isOpen = true → c.kept = [k] →
         (s.now < k.sentAt + 100 * p.rto.toNat → exec (.resendTimeout port r) s = .next s) ∧
         (k.sentAt + 100 * p.rto.toNat ≤ s.now → c.timeouts + 1 < p.retry.toNat →
           ∃ t, exec (.resendTimeout port r) s = .next t ∧
             (let again := { k with retx := true, apsn := c.rx, sentAt := s.now }
              t.lnk.out = (BitVec.ofNat 3 l, again) :: s.lnk.out ∧
              connOn t l r = { c with kept := [again], timeouts := c.timeouts + 1 })) ∧
         (k.sentAt + 100 * p.rto.toNat ≤ s.now → p.retry.toNat ≤ c.timeouts + 1 → s.lnk.insts = [] →
           ∃ t, exec (.resendTimeout port r) s = .next t ∧ (connOn t l r).isOpen = false))))

/-- Ports, peers and the events of links. A link comes up or goes down, and with it its connections; a foreign frame is
counted; a peer-table entry takes effect at once while no program runs and is held while one runs; a Sync of the selected
port, domain and transport gives the offset and the lock; a collective that has run out of time ends; a digest pass that ends has its digests,
or none where a read had an access fault. -/
def Obligations.LinkEvents : Prop :=
  (∀ (s : State) (port : BitVec 3) (p : LnkPort), s.lnk.ports[port.toNat]? = some p →
    (let l := port.toNat
     (∃ t, exec (.linkUp port) s = .next t ∧ (portAt t l).up = true ∧ (portAt t l).peers = p.peers) ∧
     (p.up = false → exec (.linkDown port) s = .next s) ∧
     (p.up = true → exec (.linkDown port) s =
       .next (closePort (updPort (failWhere s (usesPort s l) 2) l (fun p => { p with up := false })) l)) ∧
     (p.up = true → s.lnk.insts = [] → ∃ t, exec (.linkDown port) s = .next t ∧ (portAt t l).up = false ∧
       ∀ (r : BitVec 10) c, p.conns = [(r.toNat, c)] → (connOn t l r).isOpen = false ∧ (connOn t l r).kept = []) ∧
     (∀ k, exec (.foreignFrame port k) s = .next (setPort s l { p with foreign := satInc16 p.foreign })) ∧
     (∀ r e, s.crs.running = true →
       exec (.peerTableWrite port r e) s = .next (setPort s l { p with peerHold := p.peerHold ++ [(r, e)] })) ∧
     (∀ r e, s.crs.running = false → p.peerHold = [] → p.conns = [] → s.lnk.insts = [] →
       ∃ t, exec (.peerTableWrite port r e) s = .next t ∧ (portAt t l).peers = tablePut 0 p.peers r.toNat e ∧
         (portAt t l).peerHold = []))) ∧
  (∀ (s : State) (port : BitVec 3) (m : PtpSync),
    (ptpMine s port m = false → exec (.ptpMessage port m) s = .next s) ∧
    (ptpMine s port m = true →
      (let a := m.offset.toInt.natAbs
       ∃ t, exec (.ptpMessage port m) s = .next t ∧ t.lnk.ptpOffset = m.offset ∧
         (a ≤ 250 → t.lnk.ptpGood = s.lnk.ptpGood + 1 ∧ (16 ≤ s.lnk.ptpGood + 1 → t.lnk.ptpLocked = true)) ∧
         (250 < a → t.lnk.ptpGood = 0) ∧ (1000 < a → t.lnk.ptpLocked = false) ∧
         (a ≤ 1000 → s.lnk.ptpLocked = true → t.lnk.ptpLocked = true)))) ∧
  (∀ (s : State) (x : W16) (c : W32), exec (.collectiveTimeout x c) s = .next (failWhere s (fun i =>
    i.xfer == x && i.course == c && !i.done && decide (i.start + 100 * s.lnk.collTo.toNat ≤ s.now)) 5)) ∧
  (∀ (s : State) (i : Inst), s.lnk.insts = [i] → i.done = false →
    (i.start + 100 * s.lnk.collTo.toNat ≤ s.now → ∃ t, exec (.collectiveTimeout i.xfer i.course) s = .next t ∧
      t.lnk.insts = [] ∧ (i.xfer, i.course) ∈ t.lnk.ended) ∧
    (s.now < i.start + 100 * s.lnk.collTo.toNat → exec (.collectiveTimeout i.xfer i.course) s = .next s)) ∧
  (∀ (s : State), (s.lnk.digest.running = false → exec (.digestPassComplete .pass) s = .next s) ∧
    (∀ s1 own, s.lnk.digest.running = true → passDigests s = (s1, own) →
      ∃ t, exec (.digestPassComplete .pass) s = .next t ∧ t.lnk.digest.running = false ∧ t.lnk.digest.own = own.getD []))

/-! ### Diagnostics and recovery (R502, R516 to R518, R523, R527 to R544, R602) -/

/-- The gutter, the scrubbers and the self-tests. The record at the head of the gutter's queue takes the next SEQ and goes
to the ridge's tail and, in stage Full, to the event ring, with vector 2 at most once in 10 µs; once places are free again,
the records lost are reported. A scrubbed word that is sound changes nothing, a single-bit error counts in the memory's
correction register, a double-bit error is a lasting fault with the memory's code (for a ridge memory and HBM3E the code
is a free value of the model, log 50). A self-test that passes counts towards the sweep; one that fails is a lasting fault,
one that was not run is an event. -/
def Obligations.GutterScrubsAndSelfTests : Prop :=
  (∀ (s : State), s.saf.queue = [] → exec .gutterRecordWrite s = .next s) ∧
  (∀ (s : State) (g : GutterRec) (rest : List GutterRec), s.saf.queue = g :: rest →
    ∃ t, exec .gutterRecordWrite s = .next t ∧ t.saf.seq = s.saf.seq + 1 ∧
      tableGet 0 t.saf.gtail (s.saf.seq.toNat % 1024) = BitVec.ofNat 256 (natOfBytes (gutterBytes g s.saf.seq)) ∧
      (∀ k, k ≠ s.saf.seq.toNat % 1024 → tableGet 0 t.saf.gtail k = tableGet 0 s.saf.gtail k) ∧
      (s.saf.dropped = 0 → t.saf.queue = rest) ∧
      (0 < s.saf.dropped → rest.length < 224 → ∃ r, t.saf.queue = rest ++ [r] ∧ r.code = 0xD9 ∧
        r.w1 = BitVec.ofNat 32 s.saf.dropped ∧ t.saf.dropped = 0) ∧
      (s.pwr.stage = 2 → s.saf.hwSafe = false → s.eav.length = 8 →
        memRead (eaveAt t 0).hbm (resvBase + 0x200000 + 32 * (s.saf.seq.toNat % 65536)) 32 = gutterBytes g s.saf.seq) ∧
      (s.saf.hwSafe = false → s.hst.msixMask.getLsbD 2 = false →
        ((∀ t0, s.saf.lastVec2 = some t0 → t0 + 1000 ≤ s.now) →
          t.hst.msixSent = 2 :: s.hst.msixSent ∧ t.saf.lastVec2 = some s.now) ∧
        (∀ t0, s.saf.lastVec2 = some t0 → s.now < t0 + 1000 → t.hst.msixSent = s.hst.msixSent))) ∧
  (∀ (s : State) (u : UnitId), s.saf.hwSafe = false → s.pwr.stage ≠ 0 → s.saf.resetReq = none →
    (testDue s u = true → (∃ v ∈ testUnits s, v ≠ u ∧ v ∉ s.saf.swept) → exec (.selfTestBurst u .pass) s =
      .next { s with saf := { s.saf with swept := if u ∈ s.saf.swept then s.saf.swept else s.saf.swept ++ [u] } }) ∧
    (testDue s u = true → (∀ v ∈ testUnits s, v = u ∨ v ∈ s.saf.swept) → exec (.selfTestBurst u .pass) s =
      .next { s with saf := { s.saf with swept := [], sweeps := satInc16 s.saf.sweeps } }) ∧
    (testDue s u = true → ∀ r ∈ [SelfTest.tensor, .vector, .row, .other], ∃ t, exec (.selfTestBurst u r) s = .next t ∧
      (u, testCode u r) ∈ t.saf.inForce) ∧
    (testDue s u = false → ∀ r, r ≠ .overdue → exec (.selfTestBurst u r) s = .next s) ∧
    (u ∈ testUnits s → ∃ t, exec (.selfTestBurst u .overdue) s = .next t ∧ t.saf.overdue = satInc16 s.saf.overdue ∧
      t.saf.inForce = s.saf.inForce ∧ t.rft = s.rft)) ∧
  (∀ (s : State) (m : ScrubMem) (u : UnitId) (addr : BitVec 36), s.saf.hwSafe = false → s.pwr.stage ≠ 0 →
    s.saf.resetReq = none → scrubOwner m u = true →
    exec (.scrub m u addr .clean) s = .next s ∧
    (∀ p x, physOf s (unitInst u) = some p → s.rft[p]? = some x →
      (m = .scratch ∨ m = .instr →
        exec (.scrub m u addr .single) s = .next (setRafter s p { x with eccFix := satInc16 x.eccFix })) ∧
      (m = .valley →
        exec (.scrub m u addr .single) s = .next (setRafter s p { x with valleyFix := satInc16 x.valleyFix })) ∧
      (m = .soffit → exec (.scrub m u addr .single) s = .next (setRafter s p { x with sofFix := satInc16 x.sofFix }))) ∧
    (∀ x, s.trs[unitInst u]? = some x →
      (m = .spar → exec (.scrub m u addr .single) s =
        .next (setTruss s (unitInst u) { x with sparFix := satInc16 x.sparFix })) ∧
      (m = .loft → exec (.scrub m u addr .single) s =
        .next (setTruss s (unitInst u) { x with loftFix := satInc16 x.loftFix }))) ∧
    (∃ t, exec (.scrub m u addr .double) s = .next t ∧ t.eav = s.eav ∧ t.prog = s.prog ∧
      match m with
      | .scratch => (u, 0xE0) ∈ t.saf.inForce
      | .valley => (u, 0xE1) ∈ t.saf.inForce
      | .instr => (u, 0xE2) ∈ t.saf.inForce
      | .soffit => (u, 0x54) ∈ t.saf.inForce
      | .spar => (u, 0x74) ∈ t.saf.inForce
      | .loft => (u, 0xE3) ∈ t.saf.inForce
      | .tierCache => (u, 0xA4) ∈ t.saf.inForce
      | .ridge | .hbm => ∃ c, (u, c) ∈ t.saf.inForce) ∧
    (m = .spar → ∀ e, ∃ t, exec (.scrub m u addr (.waitParity e)) s = .next t ∧ (u, 0x75) ∈ t.saf.inForce))

/-- Faults that take control from the ridge: the watchdog and a lockstep comparison (RLOCK), a clock (CLKMON) and a rail
(SUPMON). The safety-pin controller holds FSAFE_N low, the fault is in force, no warm reset is pending, SMB_ALERT_N is low,
COURSE_OUT is low, and vector 1 is sent; no memory has changed. After SUPMON the compute die and the ridge are held in
reset. -/
def Obligations.RidgeLosesControl : Prop :=
  ∀ (s : State) (clock : BitVec 3) (rail : BitVec 4),
    ∀ i ∈ [(Instr.watchdogExpiry, (0xE8 : Byte), (1 : W32), false), (.lockstepMismatch, 0xE8, 1, false),
      (.clockMonitorFault clock, 0xE9, 2, false), (.supplyMonitorFault rail, 0xEA, 4, true)],
    (s.pwr.pwrgood = false → exec i.1 s = .next s) ∧
    (s.pwr.pwrgood = true → ∃ t, exec i.1 s = .next t ∧ t.saf.hwSafe = true ∧ fsafeLow t = true ∧
      (ridgeUnit, i.2.1) ∈ t.saf.inForce ∧ t.saf.fault = s.saf.fault ||| i.2.2.1 ∧ t.saf.resetReq = none ∧
      t.pkg.alertLow = true ∧ t.pkg.courseOut = none ∧
      t.pwr = { s.pwr with dead := s.pwr.dead || i.2.2.2 } ∧
      (s.pkg.perst = true → s.hst.msixMask.getLsbD 1 = false → t.hst.msixSent = 1 :: s.hst.msixSent) ∧
      (∃ g ∈ t.saf.queue, g.code = i.2.1 ∧ g.unit = ridgeUnit ∧ g.cls = .lasting) ∧
      t.rft = s.rft ∧ t.trs = s.trs ∧ t.eav = s.eav ∧ t.cxl = s.cxl ∧ t.hst.mem = s.hst.mem ∧ t.prog = s.prog ∧
      ∀ tag, exec (.cmdNop tag) t = .next t)

/-- The warm reset. Without one pending, with no program running or with the ridge out of control nothing happens. One that
fell in the body of the course: the reset generation rises by one, the ticks named pass, the step is skipped, the course is
abandoned and goes on, every rafter stands at its entry slot and waits for the next course, scratchpads keep their
contents, and every spar is at rest. One that fell in the decision phase without a lasting fault: the decision is run
again. One after the close point: rafters wait for the next course and the boundary sequence is due again. Then the host accesses
that waited take effect, in their order. -/
def Obligations.WarmResets : Prop :=
  (∀ (s : State) (ticks : W16) (cut : Option W32),
    s.saf.resetReq = none ∨ s.crs.running = false ∨ s.saf.hwSafe = true → exec (.warmReset ticks cut) s = .next s) ∧
  (∀ (s : State) (r : ResetReq) (ticks : W16) (cut : Option W32), s.saf.resetReq = some r → s.crs.running = true →
    s.saf.hwSafe = false → s.rft.length = 96 →
    (let Common := fun (t : State) =>
       exec (.warmReset ticks cut) s = .next (releaseWaiting t) ∧ t.hst.waiting = s.hst.waiting ∧
       (s.hst.waiting = [] → exec (.warmReset ticks cut) s = .next t) ∧ t.crs.resetGen = s.crs.resetGen + 1 ∧ t.cnt.hadReset = true ∧
       t.now = s.now + ticks.toNat ∧ t.crs.course = s.crs.course ∧ t.crs.running = true ∧
       ∀ p ∈ positions s, (rafterAt t p).scratch = (rafterAt s p).scratch
     let Waits := fun (t : State) => t.saf.resetReq = none ∧ t.crs.waitNext = true ∧
       ∀ p ∈ positions s, (rafterAt t p).hold = true ∧ (rafterAt t p).seq.slot = (rafterAt t p).entry ∧
         (rafterAt t p).seq.loops = [] ∧ ∀ q ∈ (rafterAt t p).iq, q.tokens = []
     (r.phase = 2 → ∃ t, Common t ∧ Waits t ∧ t.crs.stepSkip = true ∧ t.crs.abandoned = true ∧
       t.crs.phase = (if s.crs.closed then 3 else 2) ∧
       ∀ x ∈ t.trs, ∀ e ∈ x.spars, e.2.count = e.2.rest ∧ e.2.phase = false) ∧
     (r.phase = 1 → r.lasting = false → (∃ img, s.prog.img = some img ∧
         (∀ r ∈ img.rafters, ∀ c ∈ r.slots, c.routine = none) ∧ ∃ p ∈ positions s, ∃ q, img.rafters.find? (fun r => r.rafter = logicalOf s p) = some q ∧ q.decision = true) →
       ∃ t, Common t ∧ t.saf.resetReq = none ∧ t.crs.phase = 1 ∧ t.crs.rerun = true ∧ t.crs.reranFlag = true ∧
         t.crs.stepSkip = s.crs.stepSkip ∧ ∀ p ∈ positions s, (rafterAt t p).hold = !(rafterAt t p).decision) ∧
     (r.phase = 3 → ∃ t, Common t ∧ Waits t ∧ t.crs.phase = 3 ∧ t.crs.slotDone = false)))

/-! ### Power and bring-up (R435, R543 to R549, R556 to R563, R591) -/

/-- Power-up, power loss and PERST_N. When PWRGOOD falls nothing of the device's memory survives: every register is as at
power-up, the fuses and host memory stay, and a burn cut short leaves its counter between the old value and the new one (a
free value of the model). A falling PERST_N resets the device likewise, and bring-up is due from step 1; while the supply
monitors hold the device it stays held. When PERST_N rises the host link trains. Bring-up boots the firmware slot of the
higher SVN (of slot A where both have the same, the model's choice), else the other; with one that is accepted it ends in
stage Reduced with the memories clear, with none, or with a directory that does not read (log 116), in stage ROM with the
flash released. Stage Full follows a memory
self-test that passes, at once or at the next boundary; a stack that fails is a lasting fault. -/
def Obligations.BringUpAndPowerLoss : Prop :=
  (∀ (s : State), s.pwr.pwrgood = false → exec .powerLoss s = .next s) ∧
  (∀ (s : State), s.pwr.pwrgood = true → ∃ t, exec .powerLoss s = .next t ∧ t.rft = State.reset.rft ∧
    t.trs = State.reset.trs ∧ t.eav = State.reset.eav ∧ t.crs = Crs.reset ∧ t.saf = Safety.reset ∧ t.pwr = Power.reset ∧
    t.prog = Prog.reset ∧ t.enabled = s.enabled ∧ t.grade = s.grade ∧ t.fenced = 0 ∧ t.hst.mem = s.hst.mem ∧
    t.hst.up = false ∧ fsafeLow t = true ∧ t.now = s.now ∧
    (s.sec.burn = none → t.sec.fuses = s.sec.fuses) ∧
    (∀ k v, s.sec.burn = some (k, v) → k < s.sec.fuses.ctrs.length → ctrValue s k ≤ v →
      ctrValue s k ≤ ctrValue t k ∧ ctrValue t k ≤ v)) ∧
  (∀ (s : State), s.pkg.perst = false → exec .perstNAssert s = .next s) ∧
  (∀ (s : State), s.pkg.perst = true → ∃ t, exec .perstNAssert s = .next t ∧ t.pkg.perst = false ∧
    (s.pwr.pwrgood = true → s.pwr.dead = false → t.pwr = { Power.reset with pwrgood := true, boot := true } ∧
      t.rft = State.reset.rft ∧ t.trs = State.reset.trs ∧ t.eav = State.reset.eav ∧ t.crs = Crs.reset ∧
      t.prog = Prog.reset ∧ t.hst.mem = s.hst.mem ∧ t.hst.up = false) ∧
    (s.pwr.pwrgood = false ∨ s.pwr.dead = true → t.pwr = s.pwr ∧ t.rft = s.rft ∧ t.saf = s.saf)) ∧
  (∀ (s : State) (rate width : BitVec 2), exec (.perstNDeassert rate width) s = .next { s with
    pkg := { s.pkg with perst := true, hostRate := rate, hostWidth := width }
    hst := if s.pwr.pwrgood = true ∧ s.pkg.perst = false then { s.hst with up := true, rate := rate, width := width }
      else s.hst }) ∧
  (∀ (s : State) (ok tested : Bool) (d : FlashDir) (a b : Flash) (ms : W16),
    (s.pwr.pwrgood = true → s.pwr.boot = false → ∀ f, exec (.pwrgoodRise ok tested { dir := d, slotA := a, slotB := b } f ms) s = .next s) ∧
    (s.pwr.pwrgood = false ∨ s.pwr.boot = true →
      (∀ f, ∃ t, exec (.pwrgoodRise false tested { dir := d, slotA := a, slotB := b } f ms) s = .next t ∧ t.pwr.dead = true ∧ t.saf.hwSafe = true ∧
        t.pwr.stage = s.pwr.stage) ∧
      ∃ t, exec (.pwrgoodRise true tested { dir := d, slotA := a, slotB := b } none ms) s = .next t ∧ t.pwr.pwrgood = true ∧ t.pwr.boot = false ∧
        (let bFirst := decide ((headerOf a.header).svn < (headerOf b.header).svn)
         let one := if bFirst then b else a
         let two := if bFirst then a else b
         let runs := dirValid d && (fwAccepted s one || fwAccepted s two)
         let slot := if fwAccepted s one then bFirst else !bFirst
         let h := headerOf (if fwAccepted s one then one else two).header
         t.pwr.stage = (if runs then 1 else s.pwr.stage) ∧ t.now = (if runs then s.now + ms.toNat * 100000 else s.now) ∧
         t.sec.flashRel = (if runs then s.sec.flashRel else true) ∧
         t.sec.fwSlot = (if runs then slot else s.sec.fwSlot) ∧
         t.sec.fwSvn = (if runs then BitVec.ofNat 8 h.svn else s.sec.fwSvn) ∧
         t.sec.fwDig = (if runs then h.bodyDig else s.sec.fwDig) ∧
         (∀ x ∈ t.rft, runs = true → x.scratch = [] ∧ x.imem = []) ∧
         (∀ x ∈ t.trs, runs = true → x.loft = [] ∧ x.spars = []) ∧
         (runs = true → t.saf.untested = !tested) ∧
         (fwAccepted s one = true ∨ dirValid d = false → t.saf.queue = s.saf.queue) ∧
         (s.pkg.perst = true → t.hst.up = true)))) ∧
  (∀ (s : State) (pass : Byte) (c0 c1 : Option CxlFound) (ms : W16),
    (s.pwr.stage ≠ 1 ∨ s.saf.hwSafe = true ∨ s.pwr.fullDue ≠ none ∨ s.pwr.mtFail ≠ 0 →
      exec (.stageFullEntry pass c0 c1 ms) s = .next s) ∧
    (s.pwr.stage = 1 → s.saf.hwSafe = false → s.pwr.fullDue = none → s.pwr.mtFail = 0 → s.eav.length = 8 →
      (s.crs.running = false → ∃ t, exec (.stageFullEntry 0xFF c0 c1 ms) s = .next t ∧ t.pwr.stage = 2 ∧
        t.pwr.bootFull = ms ∧ t.pwr.mtPass = 0xFF ∧ t.pwr.mtFail = 0 ∧ (∀ x, tierEntry t x = 0) ∧ t.rft = s.rft ∧
        (∀ f p, c0 = some f → 1 ≤ f.units → s.cxl[0]? = some p → (cxlAt t 0).isPresent = true ∧ (cxlAt t 0).up = true ∧
          (cxlAt t 0).rate = f.rate ∧ (cxlAt t 0).width = f.width ∧ (cxlAt t 0).units.toNat = 16 * min f.units 8192)) ∧
      (s.crs.running = true → ∃ t, exec (.stageFullEntry 0xFF c0 c1 ms) s = .next t ∧ t.pwr.stage = 1 ∧
        t.pwr.fullDue = some ms ∧ t.crs = s.crs) ∧
      (∀ k, k < 8 → pass.getLsbD k = false → ∃ t, exec (.stageFullEntry pass c0 c1 ms) s = .next t ∧ t.pwr.stage = 1 ∧
        t.pwr.mtFail = ~~~pass ∧ (ridgeUnit, 0xF2) ∈ t.saf.inForce)))

/-- Power states, configuration requests and the governor. A state is entered 1 ms after the last use while no program
runs, the deepest that the tolerance allows; the device wakes to state 0, from Dormant with its on-die memories clear.
Configuration requests are answered with Request Retry Status until stage Reduced, and one to D0 ends D3hot. A sample of
the governor is taken over: a reading of 100 °C drives THERM_N low, one of 105 °C is a lasting fault; more power than a
limit raises the skipped pulses within their bound (how far is a free value of the model, log 53), and 30 W of room lowers
them by one in 100 µs. -/
def Obligations.PowerStatesAndGovernor : Prop :=
  (∀ (s : State),
    (let rests := s.pwr.stage ≠ 0 ∧ s.saf.hwSafe = false ∧ s.crs.running = false ∧ s.crs.starting = false ∧ s.pwr.st = 0 ∧
       s.pwr.lastUse + 100000 ≤ s.now
     (rests → exec .powerStateEntry s = .next { s with pwr := { s.pwr with st :=
       if s.hst.d3hot = true ∨ 40000 ≤ s.pwr.tol.toNat then 4 else if 400 ≤ s.pwr.tol.toNat then 3
       else if 20 ≤ s.pwr.tol.toNat then 2 else if 1 ≤ s.pwr.tol.toNat then 1 else 0 } }) ∧
     (¬ rests → exec .powerStateEntry s = .next s)) ∧
    (s.pwr.st = 0 → exec .powerStateWake s = .next s) ∧
    (s.pwr.st ≠ 0 → s.pwr.st ≠ 4 → exec .powerStateWake s = .next { s with pwr := { s.pwr with st := 0, lastUse := s.now } }) ∧
    (s.pwr.st = 4 → ∃ t, exec .powerStateWake s = .next t ∧ t.pwr = { s.pwr with st := 0, lastUse := s.now } ∧
      t.eav = s.eav ∧ (∀ x ∈ t.rft, x.scratch = [] ∧ x.soffit = []) ∧ ∀ x ∈ t.trs, x.loft = []) ∧
    (hostUp s = true → exec .d3hotEntry s = .next { s with hst := { s.hst with d3hot := true } }) ∧
    (hostUp s = false → exec .d3hotEntry s = .next s ∧ ∀ d0, exec (.configurationRequest d0) s = .next s) ∧
    (hostUp s = true → ∀ d0, exec (.configurationRequest d0) s = .next { s with hst := { s.hst with
      cfgReplies := decide (s.pwr.stage ≠ 0) :: s.hst.cfgReplies
      d3hot := s.hst.d3hot && !(decide (s.pwr.stage ≠ 0) && d0) } })) ∧
  (∀ (s : State) (g : GovSample),
    (s.pwr.pwrgood = false → exec (.governorSample g) s = .next s) ∧
    (s.pwr.pwrgood = true →
      (let h := (hottest { s with pwr := { s.pwr with temps := g.temps, tempValid := g.valid } }).2.toInt
       let k := s.pwr.skip.toNat
       let beyond := s.pwr.limit.toNat < g.proj10.toNat ∨ 780 < g.proj1.toNat
       let bound := if g.failsAtFloor then 15 else maxSkip s
       ∃ t, exec (.governorSample g) s = .next t ∧ t.pwr.temps = g.temps ∧ t.pwr.tempValid = g.valid ∧ t.pwr.avg = g.avg ∧
         t.pwr.peak.toNat = max s.pwr.peak.toNat g.ms1.toNat ∧
         t.pwr.thermLow = (decide (100 ≤ h) || (s.pwr.thermLow && decide (95 ≤ h))) ∧
         (105 ≤ h → (ridgeUnit, 0xEB) ∈ t.saf.inForce) ∧ (h < 105 → t.saf.inForce = s.saf.inForce) ∧
         (beyond → h < 105 → k < bound → k < t.pwr.skip.toNat ∧ t.pwr.skip.toNat ≤ bound) ∧
         (beyond → h < 105 → bound ≤ k → t.pwr.skip = s.pwr.skip) ∧
         (¬ beyond → 105 ≤ h → t.pwr.skip.toNat = maxSkip s) ∧
         (¬ beyond → h < 105 → g.proj10.toNat + 30 ≤ s.pwr.limit.toNat → 0 < k → s.pwr.skipAt + 10000 ≤ s.now →
           t.pwr.skip.toNat = k - 1) ∧
         (¬ beyond → h < 105 → (s.pwr.limit.toNat < g.proj10.toNat + 30 ∨ k = 0 ∨ s.now < s.pwr.skipAt + 10000) →
           t.pwr.skip = s.pwr.skip) ∧
         t.rft.length = s.rft.length ∧ t.eav = s.eav ∧ t.prog = s.prog)))

/-! ### Host accesses and registers (R18 to R23, R50 to R52, R479 to R485, R502 to R507, R527, R556, R563 to R576) -/

/-- Host accesses. While the host port is down nothing happens, and during a warm reset an access to BAR0 or BAR2 waits.
A read of a word of BAR0 returns the register; a read of a link port's discard counters returns them to zero, a write of
ones clears the bits of its fault register, and a write to a read-only register or of a wrong alignment changes nothing. BAR2:
a program of reduced service offers the buffer, writable below its records; in stage Full, over a bridge node in use, a read of a resident extent
returns its frame's bytes, a write puts them there, and the reserved aperture is readable only. With the ridge out of control BAR2
answers reads with an abort. A vector unmasked with its bit pending is sent. A completion timeout counts as
transient where the retry passes and is lasting where it does not. -/
def Obligations.HostAccesses : Prop :=
  (∀ (s : State) off len data hw size v ecc vec again,
    (let accesses := [Instr.hostBar2Read off len hw, .hostBar2Write off data hw, .registerWrite (off.truncate 26) size v,
       .registerReadClear (off.truncate 26) { size := size, ecc := ecc }]
     (hostUp s = false → (∀ i ∈ accesses ++ [.msixVectorUnmask vec, .pcieCompletionTimeout again], exec i s = .next s)) ∧
     (hostUp s = true → s.saf.resetReq ≠ none → ∀ i ∈ accesses,
       exec i s = .next { s with hst := { s.hst with waiting := s.hst.waiting ++ [i] } }))) ∧
  (∀ (s : State), Reached s →
    (∀ (off : BitVec 26), off.toNat % 4 = 0 → wakesDie (regAt s off.toNat) = false →
      ∃ t, exec (.registerReadClear off { size := 4, ecc := .clean }) s = .next t ∧
        t.hst.reads = .data (bytesOf 4 (regGet s off.toNat).toNat) :: s.hst.reads) ∧
    (∀ (l : Nat) p, l < 8 → s.pwr.stage ≠ 0 → s.lnk.ports[l]? = some p →
      (exec (.registerReadClear (BitVec.ofNat 26 (0x300004C + 0x80000 * l)) { size := 4, ecc := .clean }) s = .next { s with
        lnk := { s.lnk with ports := s.lnk.ports.set l { p with foreign := 0, stale := 0 } }
        hst := { s.hst with reads := .data (bytesOf 4 (p.foreign.toNat * 2 ^ 16 + p.stale.toNat)) :: s.hst.reads } }) ∧
      ∀ v : W32, exec (.registerWrite (BitVec.ofNat 26 (0x3000040 + 0x80000 * l)) 4 (v.zeroExtend 64)) s = .next { s with
        lnk := { s.lnk with ports := s.lnk.ports.set l { p with fault := p.fault &&& ~~~(v &&& 0xF) } } }) ∧
    (∀ v, exec (.registerWrite 0x100010 4 v) s = .next s) ∧
    (∀ (off : BitVec 26) (size : BitVec 4) v, off.toNat % size.toNat ≠ 0 → exec (.registerWrite off size v) s = .next s)) ∧
  (∀ (s : State), Awake s → s.prog.loaded = true → s.prog.reduced = true → ∀ (off : BitVec 40), off.toNat < 0x400000 →
    (∀ len, ∃ t, exec (.hostBar2Read off len .pass) s = .next t ∧
      t.hst.reads = .data (memRead s.hst.rsBuf off.toNat len.toNat) :: s.hst.reads) ∧
    (∀ data, ∃ t, exec (.hostBar2Write off data .pass) s = .next t ∧ t.hst.rsBuf =
      if off.toNat + data.length ≤ 0x3FC000 then memWrite s.hst.rsBuf off.toNat data else s.hst.rsBuf)) ∧
  (∀ (s : State), Awake s → s.prog.reduced = false → s.pwr.stage = 2 → s.eav.length = 8 → s.hst.bridgeFence ≠ 3 →
    (∀ (off : BitVec 40) (x : BitVec 19) (len : W16) data, off.toNat < s.hst.barSize * 2 ^ 30 - 2 ^ 33 →
      (let a := s.hst.winBase.toNat + off.toNat
       let e := tierEntry s x
       let at0 := frameBase e + a % 2 ^ 24
       a / 2 ^ 24 = x.toNat → entFrame e < 2240 →
       (0 < len.toNat → a % 2 ^ 24 + len.toNat ≤ 2 ^ 24 → (entState e = stResident ∨ entState e = stOpen ∨ entState e = stBoth) →
         ∃ t, exec (.hostBar2Read off len .pass) s = .next t ∧
           t.hst.reads = .data (memRead (eaveAt s (entStack e)).hbm at0 len.toNat) :: s.hst.reads) ∧
       (data ≠ [] → a % 2 ^ 24 + data.length ≤ 2 ^ 24 → (entState e = stResident ∨ entState e = stOpen) →
         ∃ t, exec (.hostBar2Write off data .pass) s = .next t ∧ t.hst.reads = s.hst.reads ∧
           memRead (eaveAt t (entStack e)).hbm at0 data.length = data ∧
           ∀ k b, b < 2240 * 2 ^ 24 → (k ≠ entStack e ∨ b < at0 ∨ at0 + data.length ≤ b) →
             memByte (eaveAt t k).hbm b = memByte (eaveAt s k).hbm b))) ∧
    (∀ (off : BitVec 40) st o, 8 ≤ s.hst.barSize → st < 8 → o < 0x100000 →
      off.toNat = s.hst.barSize * 2 ^ 30 - 2 ^ 33 + 2 ^ 30 * st + o →
      (∀ len : W16, o + len.toNat ≤ 0x100000 → ∃ t, exec (.hostBar2Read off len .pass) s = .next t ∧
        t.hst.reads = .data (memRead (eaveAt s st).hbm (resvBase + o) len.toNat) :: s.hst.reads) ∧
      (∀ data, ∃ t, exec (.hostBar2Write off data .pass) s = .next t ∧ t.eav = s.eav ∧ t.hst.mem = s.hst.mem))) ∧
  (∀ (s : State), Reached s → s.saf.hwSafe = true → ∀ off len data hw,
    exec (.hostBar2Read off len hw) s = .next { s with hst := { s.hst with reads := .abort :: s.hst.reads } } ∧
    exec (.hostBar2Write off data hw) s = .next s) ∧
  (∀ (s : State) off len data info, Awake s → ∃ t u, exec (.hostBar2Read off len (.twice 0xC1 info)) s = .next t ∧
    (hostUnit, 0xC1) ∈ t.saf.inForce ∧ t.hst.ide = false ∧ exec (.hostBar2Write off data (.once 0xC1 info)) s = .next u ∧
    (hostUnit, 0xC1) ∈ u.saf.inForce ∧ u.hst.ide = false) ∧
  (∀ (s : State) (v : BitVec 6), hostUp s = true → s.saf.hwSafe = false →
    ∃ t, exec (.msixVectorUnmask v) s = .next t ∧
      t.hst.msixMask = s.hst.msixMask &&& ~~~(1#64 <<< v.toNat) ∧ t.hst.msixPend = s.hst.msixPend &&& ~~~(1#64 <<< v.toNat) ∧
      t.hst.msixSent = (if s.hst.msixPend.getLsbD v.toNat then v :: s.hst.msixSent else s.hst.msixSent)) ∧
  (∀ (s : State), hostUp s = true →
    (exhausted s hostUnit = false → ∃ t, exec (.pcieCompletionTimeout false) s = .next t ∧
      t.hst.fault = s.hst.fault ||| 4 ∧ t.saf.inForce = s.saf.inForce ∧
      t.saf.transients.getLast? = some (hostUnit, s.now)) ∧
    (∃ t, exec (.pcieCompletionTimeout true) s = .next t ∧ t.hst.fault = s.hst.fault ||| 4 ∧
      (hostUnit, 0xC2) ∈ t.saf.inForce))

/-- Registers of the course timer and the host port. A read of CRS_COURSE_LO latches the upper half. A PERIOD outside 100 µs
to 100 ms, or below MIN_P, and a PTP offset that is not below the period, are rejected; a setting of the course waits for
the boundary while a program runs and takes effect at once otherwise. HST_CR_CTRL and the fences are rejected while a
program is loaded; EN from 0 to 1 starts both rings afresh; HST_CQ_HEAD frees the completions read. A fence register sets
its part of the mask, disabled positions aside. -/
def Obligations.CourseAndHostRegisters : Prop :=
  ∀ (s : State), Reached s → s.pwr.stage ≠ 0 →
    (exec .crsCourseLoRead s = .next { s with
      crs := { s.crs with courseHi := BitVec.ofNat 32 (s.crs.course.toNat / 2 ^ 32) }
      hst := { s.hst with reads := .data (bytesOf 4 (s.crs.course.toNat % 2 ^ 32)) :: s.hst.reads } }) ∧
    (∀ v : W32, (v.toNat < 10000 ∨ 10000000 < v.toNat ∨ v.toNat < s.crs.minPeriod.toNat →
        exec (.crsPeriodWrite v) s = .next { s with crs := { s.crs with cfgRej := true } }) ∧
      (10000 ≤ v.toNat → v.toNat ≤ 10000000 → s.crs.minPeriod.toNat ≤ v.toNat →
        (s.crs.running = false → s.crs.starting = false → s.crs.heldSets = [] →
          exec (.crsPeriodWrite v) s = .next { s with crs := { s.crs with period := v } }) ∧
        (s.crs.running = true → ∃ h, exec (.crsPeriodWrite v) s = .next { s with crs := { s.crs with
          heldSets := s.crs.heldSets ++ [h] } } ∧ h.period = some v ∧ h.source = none ∧ h.offset = none ∧
          h.inSlot = decide (s.crs.next ≤ s.now + 1000)))) ∧
    (∀ v : W32, (s.crs.period.toNat ≤ v.toNat →
        exec (.crsPtpOffsetWrite v) s = .next { s with crs := { s.crs with cfgRej := true } }) ∧
      (v.toNat < s.crs.period.toNat → s.crs.running = false → s.crs.starting = false → s.crs.heldSets = [] →
        exec (.crsPtpOffsetWrite v) s = .next { s with crs := { s.crs with ptpOffset := v } })) ∧
    (∀ v : W32, s.crs.running = false → s.crs.starting = false → s.crs.heldSets = [] →
      exec (.crsCtrlWrite v) s = .next { s with
        crs := { s.crs with courseOutEn := v.getLsbD 2
                            source := if v.toNat % 4 = 3 then s.crs.source else BitVec.ofNat 2 (v.toNat % 4) }
        pkg := { s.pkg with courseOut := if v.getLsbD 2 then s.pkg.courseOut else none } }) ∧
    (s.prog.loaded = true → ∀ v, ∀ i ∈ [Instr.hstCrCtrlWrite v, .fenceRegisterWrite 0 v, .fenceRegisterWrite 3 v,
      .fenceRegisterWrite 4 v], exec i s = .next { s with hst := { s.hst with cfgRej := true } }) ∧
    (s.prog.loaded = false →
      (∀ v : W32, 6 ≤ v.toNat % 32 → v.toNat % 32 ≤ 16 → exec (.hstCrCtrlWrite v) s = .next { s with hst :=
        (let h := { s.hst with crEn := v.getLsbD 31, crLog2 := BitVec.ofNat 5 v.toNat }
         if v.getLsbD 31 && !s.hst.crEn then { h with crHead := 0, cqTail := 0, crPhase := true, cqPhase := true } else h) }) ∧
      (∀ (w : BitVec 3) (v : W32), w.toNat < 3 → (∀ p ∈ positions s, (rafterAt s p).prefetch = []) →
        ∃ t, exec (.fenceRegisterWrite w v) s = .next t ∧ t.upd = s.upd ∧ t.rft = s.rft ∧
          ∀ p, p < 96 → t.fenced.getLsbD p = (s.enabled.getLsbD p &&
            (if 32 * w.toNat ≤ p ∧ p < 32 * w.toNat + 32 then v.getLsbD (p - 32 * w.toNat) else s.fenced.getLsbD p))) ∧
      (∀ v : W32, ∃ t u, exec (.fenceRegisterWrite 3 v) s = .next t ∧ t.upd.nmuFence = BitVec.ofNat 8 v.toNat ∧
        exec (.fenceRegisterWrite 4 v) s = .next u ∧ u.hst.bridgeFence = BitVec.ofNat 2 v.toNat)) ∧
    (∀ v : W32, s.hst.crLog2.toNat ≤ 16 → s.hst.cqTail.toNat < ringSize s → v.toNat < ringSize s → ∃ t, exec (.hstCqHeadWrite v) s = .next t ∧
      t.hst.cqHead.toNat = v.toNat ∧ (t.hst.cqHead.toNat + t.hst.cqOut) % ringSize s = s.hst.cqTail.toNat ∧
      t.hst.cqOut < ringSize s)

/-- Registers of the counters, power, safety and security. A counter's configuration waits for the boundary while a program
runs; a counter's value may be written only while it does not count, and a 1 clears OVF; a read of the lower half latches
the upper one. PWR_TOL sets the tolerance; SAF_FORCE is ignored while a program is loaded; SEC_CTRL sets FLASHREL. SEC_RB_ADV
starts a burn that R564 allows and is otherwise reported; an owner slot that is unprogrammed takes the digest in
SEC_OWNER_HASH, an owner command while a program is loaded, and one for a programmed slot, is reported. A nonce write clears
DONE, and GO asks for a report. -/
def Obligations.CounterAndSecurityRegisters : Prop :=
  ∀ (s : State), Reached s →
    (s.pwr.stage ≠ 0 → s.rft.length = 96 → s.trs.length = 16 → s.eav.length = 8 → s.lnk.ports.length = 8 → s.cxl.length = 2 →
      ∀ (i : BitVec 11) c, ctrAt s i.toNat = some c →
      (∀ v : W32, eventListed i.toNat (field v.toNat 16 10) = true →
        (s.crs.running = false → ∃ t d, exec (.ctrCfgWrite i v) s = .next t ∧ ctrAt t i.toNat = some d ∧
          d.val = c.val ∧ d.ovf = c.ovf ∧ d.held = none ∧ d.cfg.getLsbD 0 = v.getLsbD 0 ∧
          field d.cfg.toNat 16 10 = field v.toNat 16 10 ∧ d.cfg.getLsbD 1 = (v.getLsbD 1 && i.toNat % 2 == 0)) ∧
        (s.crs.running = true → ∃ t x, exec (.ctrCfgWrite i v) s = .next t ∧ ctrAt t i.toNat = some { c with held := some x } ∧
          x.getLsbD 0 = v.getLsbD 0 ∧ field x.toNat 16 10 = field v.toNat 16 10)) ∧
      (∀ v : W64, ctrEnabled s i.toNat c = false → ∃ t, exec (.ctrValWrite i v) s = .next t ∧
        ctrAt t i.toNat = some { c with val := BitVec.ofNat 48 v.toNat, full := false, ovf := c.ovf && !v.getLsbD 48 }) ∧
      (∀ v : W64, ctrEnabled s i.toNat c = true → ∃ t, exec (.ctrValWrite i v) s = .next t ∧
        ctrAt t i.toNat = some { c with ovf := c.ovf && !v.getLsbD 48 }) ∧
      (∃ t, exec (.ctrValLoRead i) s = .next t ∧
        t.hst.reads = .data (bytesOf 4 (c.val.toNat % 2 ^ 32)) :: s.hst.reads ∧
        ctrAt t i.toNat = some { c with latch := some (BitVec.ofNat 32 (ctrHigh c)) })) ∧
    (∀ v : W32, exec (.pwrTolWrite v) s = .next { s with pwr := { s.pwr with tol := BitVec.ofNat 24 v.toNat } }) ∧
    (∀ v : W32, s.pwr.stage ≠ 0 → exec (.safForceWrite v) s = .next (if s.prog.loaded then s else
      { s with saf := { s.saf with force := v.getLsbD 0 } })) ∧
    (∀ v : W32, exec (.secCtrlFlashrelWrite v) s = .next { s with sec := { s.sec with flashRel := v.getLsbD 0 } }) ∧
    (∀ v : W32, v.getLsbD 31 = false → exec (.antiRollbackAdvance v) s = .next s) ∧
    (∀ v : W32, v.getLsbD 31 = true →
      (let k := field v.toNat 0 6
       let x := field v.toNat 8 7
       let allowed := s.sec.burn = none ∧ ctrValue s k < x ∧ x ≤ 64 ∧ ∃ n, guardedSvn s k = some n ∧ x ≤ n
       (allowed → exec (.antiRollbackAdvance v) s = .next { s with sec := { s.sec with burn := some (k, x) } }) ∧
       (¬ allowed → exec (.antiRollbackAdvance v) s = .next { s with sec := { s.sec with rbRej := true } }))) ∧
    (∀ (k : Nat), k < 4 →
      (let free := s.prog.loaded = false ∧ s.sec.fuses.owned.getLsbD k = false
       (free → exec (.ownerProgram (BitVec.ofNat 32 (0x84 + k))) s = .next { s with sec := { s.sec with fuses := { s.sec.fuses with
         owned := s.sec.fuses.owned ||| (1#4 <<< k), hashes := s.sec.fuses.hashes.set k (ownerDigest s) } } }) ∧
       (¬ free → exec (.ownerProgram (BitVec.ofNat 32 (0x84 + k))) s = .next { s with sec := { s.sec with ownRej := true } })) ∧
      exec (.ownerRevoke (BitVec.ofNat 32 (0x88 + k))) s = .next { s with sec := if s.prog.loaded then
        { s.sec with ownRej := true } else
        { s.sec with fuses := { s.sec.fuses with revoked := s.sec.fuses.revoked ||| (1#4 <<< k) } } }) ∧
    (∀ (k : BitVec 3) (v : W32), exec (.secAttNonceWrite k v) s = .next { s with sec := { s.sec with
      nonce := s.sec.nonce.set k.toNat v, attDone := false } }) ∧
    exec .attestationRequest s = .next { s with sec := { s.sec with attGo := true } }

/-! ### Security, board management and JTAG (R504, R564, R568 to R570, R593 to R595) -/

/-- A burn that ends leaves the counter at its value. A report asked for has the magic number, the device's identity and the
nonce at its start and is done. A debug response is judged, another challenge is drawn, and debug opens only where the
response was accepted. The SPDM responder answers with its measurements, which begin with the firmware's digest, or its
certificate, and a key exchange makes the stream secure. SMBus reads return the registers of Table 18.5 while the target
answers. An Alert Response Address read returns the address and releases SMB_ALERT_N once no cause is left. Boundary
scan works while no program runs. -/
def Obligations.SecurityAndBoardManagement : Prop :=
  ∀ (s : State),
    (s.sec.burn = none → exec .fuseBurnComplete s = .next s) ∧
    (∀ k v, s.sec.burn = some (k, v) → s.saf.hwSafe = false → k < s.sec.fuses.ctrs.length →
      ∃ t, exec .fuseBurnComplete s = .next t ∧ ctrValue t k = v ∧ t.sec.burn = none ∧
        (∀ j, j ≠ k → ctrValue t j = ctrValue s j) ∧ t.sec.fuses.owned = s.sec.fuses.owned ∧ t.rft = s.rft) ∧
    (s.sec.attGo = false → exec .attestationReportDone s = .next s) ∧
    (s.sec.attGo = true → s.saf.hwSafe = false → s.sec.nonce.length = 8 →
      s.sec.fuses.ctrs.length = 64 → ∃ t, exec .attestationReportDone s = .next t ∧
      t.sec.attGo = false ∧ t.sec.attDone = true ∧ t.sec.report.take 12 = bytesOf 4 0x534B4154 ++ bytesOf 2 1 ++ zeros 2 ++
        bytesOf 4 (deviceId s) ∧ t.sec.report.length = 5139 ∧
      (t.sec.report.drop 16).take 32 = s.sec.nonce.flatMap (fun w => bytesOf 4 w.toNat)) ∧
    (s.sec.dbgGo = false → exec .debugResponseCheck s = .next s) ∧
    (s.sec.dbgGo = true → s.saf.hwSafe = false → ∃ t, exec .debugResponseCheck s = .next t ∧ t.sec.dbgGo = false ∧
      t.sec.draws = s.sec.draws + 1 ∧ t.sec.debug = (s.sec.debug || debugAccepted s) ∧ t.sec.dbgFail = !debugAccepted s) ∧
    (∀ q, hostUp s = false ∨ s.pwr.stage = 0 ∨ s.saf.hwSafe = true → exec (.spdmMessage q) s = .next s) ∧
    (hostUp s = true → s.pwr.stage ≠ 0 → s.saf.hwSafe = false →
      (∃ bs, exec (.spdmMessage .getMeasurements) s = .next { s with sec := { s.sec with spdm := bs :: s.sec.spdm } } ∧
        bs.take 64 = bytesOf 64 s.sec.fwDig.toNat ∧ (bs.drop 64).take 64 = bytesOf 64 s.prog.dig.toNat) ∧
      exec (.spdmMessage .getCertificate) s = .next { s with sec := { s.sec with spdm := Config.certificate :: s.sec.spdm } } ∧
      exec (.spdmMessage (.ideKeyProg true)) s = .next { s with hst := { s.hst with ide := true } }) ∧
    (∀ i ∈ [(Instr.smbDeviceId, bytesOf 4 (regGet s 0).toNat), (.smbPwrStatus, bytesOf 4 (regGet s 0x400000).toNat),
      (.smbSafStatus, bytesOf 4 (BitVec.ofNat 32 (regSaf s 0)).toNat), (.smbPwrTemp, bytesOf 4 (regGet s 0x400010).toNat),
      (.smbPwrPower, bytesOf 4 (regGet s 0x40000C).toNat), (.smbStackTemperatures, s.pwr.stackTemps)],
      exec i.1 s = .next (if smbUp s then { s with pkg := { s.pkg with smb := i.2 :: s.pkg.smb } } else s)) ∧
    (s.pkg.alertLow = false → exec .smbAlertResponse s = .next s) ∧
    (s.pkg.alertLow = true → smbUp s = true → exec .smbAlertResponse s = .next { s with pkg := { s.pkg with
      smb := [BitVec.ofNat 8 (0x58 + s.pkg.smbAddr.toNat)] :: s.pkg.smb
      alertLow := decide (s.pwr.thermLow = true ∨ s.saf.inForce ≠ []) } }) ∧
    (s.crs.running = true → ∀ op, exec (.jtagBoundaryScan op) s = .next s) ∧
    (s.crs.running = false →
      exec (.jtagBoundaryScan .bypass) s = .next { s with pkg := { s.pkg with tdo := [false], extest := false } } ∧
      (∀ bits, exec (.jtagBoundaryScan (.preload bits)) s = .next { s with pkg := { s.pkg with scan := bits, extest := false } }) ∧
      ∃ bits : List Bool, bits.length = 286 ∧
        (exec (.jtagBoundaryScan .sample) s = .next { s with
          free := s.free + 286, pkg := { s.pkg with tdo := bits, extest := false } }) ∧
        (exec (.jtagBoundaryScan .extest) s = .next { s with
          free := s.free + 286, pkg := { s.pkg with tdo := bits, extest := true } }))

/-! ### The whole machine -/

/-- Instruction words: the word of an instruction, with every operand at every value, fits in 128 bits and decodes to the
instruction again. -/
def Obligations.InstructionWordsRoundTrip : Prop :=
  ∀ (r : RafterId) (f : Frame),
    (let Trip := fun (i : Instr) => ∃ w, encodeOcnen i = some w ∧ w < 2 ^ 128 ∧ decodeOcnen r w = some i
     (∀ i ∈ [Instr.nop r f, .slot r f, .crsEnd r f, .crsEndD r f, .vChk r f .pass, .rnChk r f .pass], Trip i) ∧
     (∀ o, Trip (.loop r f o)) ∧ (∀ c t, Trip (.br r f c t)) ∧ (∀ m, Trip (.hip r f m)) ∧ (∀ c, Trip (.halt r f c)) ∧
     (∀ o, Trip (.agSet r f o)) ∧ (∀ o, Trip (.agStr r f o)) ∧ (∀ o, Trip (.setSh r f o .pass)) ∧
     (∀ c v, ∀ i ∈ [Instr.waitGe r f c v, .waitEq r f c v, .waitDec r f c v, .signalAdd r f c v, .signalSet r f c v], Trip i) ∧
     (∀ c t, Trip (.arrive r f c t) ∧ Trip (.arriveW r f c t)) ∧ (∀ o, Trip (.pollGe r f o) ∧ Trip (.pollEq r f o)) ∧
     (∀ o : SteerOps, o.n ≠ 0 → ∀ i ∈ [Instr.steerSelect r f o, .steerRoute r f o, .join r f o, .fork r f o], Trip i) ∧
     (∀ o, Trip (.drain r f o)) ∧
     (∀ o, ∀ i ∈ [Instr.load r f o .pass, .store r f o .pass, .xload r f o .pass, .gather r f o .pass, .scatter r f o .pass,
       .scatterAdd r f o .pass], Trip i) ∧
     (∀ a n, Trip (.prefetch r f a n)) ∧ (∀ o, Trip (.upd r f o .pass)) ∧
     (∀ o, ∀ i ∈ [Instr.collRs r f o .pass, .collAg r f o .pass, .collAr r f o .pass, .collFr r f o], Trip i) ∧
     (∀ o, ∀ i ∈ [Instr.tld r f o .pass, .tmm r f o .pass, .tmma r f o .pass, .tmmv r f o .pass], Trip i) ∧
     (∀ b, Trip (.tchk r f b .pass)) ∧
     (∀ o, ∀ i ∈ [Instr.vAdd r f o .pass, .vSub r f o .pass, .vMul r f o .pass, .vMin r f o .pass, .vMax r f o .pass,
       .vFma r f o .pass, .vAbs r f o .pass, .vNeg r f o .pass, .vCvt r f o .pass, .vCmpLt r f o .pass, .vCmpLe r f o .pass,
       .vCmpEq r f o .pass, .vSel r f o .pass, .vExp2 r f o .pass, .vLog2 r f o .pass, .vRcp r f o .pass, .vSqrt r f o .pass,
       .vRsqrt r f o .pass, .vTanh r f o .pass, .vQmx r f o .pass, .vRedSum r f o .pass, .vRedMax r f o .pass,
       .vFoldSum r f o .pass, .vFoldMax r f o .pass], Trip i) ∧
     (∀ o, ∀ i ∈ [Instr.rnLn r f o .pass, .rnRms r f o .pass, .rnSmx r f o .pass, .rnLnB r f o .pass, .rnRmsB r f o .pass,
       .rnSmxB r f o .pass, .rnSpill r f o .pass, .rnFill r f o .pass], Trip i))

/-- Command-ring entries: the entry of a host command, with every operand at every value, fits in 512 bits, and read back it
is the command. -/
def Obligations.HostCommandEntriesRoundTrip : Prop :=
  ∀ (i : Instr) (w : Nat), encodeCmd i = some w → w < 2 ^ 512 ∧ decodeCmd w = some i

/-- Bits of the fence mask for positions disabled at manufacture read 0 after every step, if they did before it (R506). -/
def Obligations.StepKeepsFences : Prop :=
  ∀ (s t : State), FencesUsable s → step s = .next t → FencesUsable t

/-- After reset: no program and no course, stage ROM, FSAFE_N low, memories that list nothing, the fence mask clear, and no
command waiting. -/
def Obligations.ResetState : Prop :=
  State.reset.crs.running = false ∧ State.reset.crs.phase = 0 ∧ State.reset.prog.loaded = false ∧
  State.reset.pwr.stage = 0 ∧ State.reset.pwr.pwrgood = false ∧ fsafeLow State.reset = true ∧ State.reset.pending = [] ∧
  FencesUsable State.reset ∧ State.reset.fenced = 0 ∧ State.reset.crs.period = 1000000 ∧ State.reset.saf.tcfg = 256 ∧
  State.reset.hst.mem = [] ∧ State.reset.rft.length = 96 ∧ State.reset.trs.length = 16 ∧ State.reset.eav.length = 8 ∧
  (∀ x ∈ State.reset.rft, x.scratch = [] ∧ x.seq.idx = 0 ∧ x.acc = [Acc.reset, Acc.reset]) ∧
  (∀ x ∈ State.reset.trs, x.loft = [] ∧ x.spars = []) ∧ (∀ x ∈ State.reset.eav, x.hbm = []) ∧
  (∀ x ∈ State.reset.cxl, x.dev = [])
end

