-- ==== Sys2Proof/Laws/Mem.lean ====
section
/-!
SUPPORT. The canonical form of the sparse containers is kept by every operation over them, and reads after writes.
-/

namespace Sys2Proof.Machine

/-! ### The canonical form as a statement about the list -/

theorem tableWf_iff {α : Type} [DecidableEq α] (d : α) (t : Table α) :
    tableWf d t = true ↔ t.Pairwise (fun a b => a.1 < b.1) ∧ ∀ e ∈ t, e.2 ≠ d := by
  induction t with
  | nil => simp [tableWf]
  | cons e t ih =>
    obtain ⟨k, v⟩ := e
    cases t with
    | nil => simp [tableWf]
    | cons e' t' =>
      obtain ⟨k', v'⟩ := e'
      rw [tableWf]
      simp only [Bool.and_eq_true, ih, List.pairwise_cons, List.mem_cons, ne_eq, decide_eq_true_eq]
      constructor
      · rintro ⟨⟨hv, hk⟩, ⟨h1, h2⟩, h3⟩
        refine ⟨⟨?_, h1, h2⟩, ?_⟩
        · rintro e (rfl | he)
          · exact hk
          · exact Nat.lt_trans hk (h1 e he)
        · rintro e (rfl | he)
          · simpa using hv
          · exact h3 e he
      · rintro ⟨⟨h1, h2, h3⟩, h4⟩
        exact ⟨⟨by simpa using h4 (k, v) (Or.inl rfl), h1 (k', v') (Or.inl rfl)⟩, ⟨h2, h3⟩, fun e he => h4 e (Or.inr he)⟩

/-! ### Tables -/

theorem tableAbove_suffix {α : Type} (t : Table α) (a : Nat) : tableAbove t a <:+ t := by
  induction t with
  | nil => exact List.suffix_rfl
  | cons x t ih =>
    simp only [tableAbove]
    split
    · exact List.suffix_rfl
    · exact ih.trans (List.suffix_cons _ _)

theorem tableAbove_head {α : Type} (t : Table α) (a : Nat) : ∀ e, (tableAbove t a).head? = some e → a < e.1 := by
  induction t with
  | nil => intro e h; cases h
  | cons x t ih =>
    simp only [tableAbove]
    split
    · rename_i hk
      intro e h
      cases h
      exact hk
    · exact ih

/-- What a table answers for a key below its first one. -/
theorem tableGet_of_head {α : Type} (d : α) (t : Table α) (a : Nat) (h : ∀ e, t.head? = some e → a < e.1) :
    tableGet d t a = d := by
  cases t with
  | nil => rfl
  | cons x t =>
    have := h x rfl
    simp only [tableGet]
    rw [if_neg (by omega), if_pos this]

theorem tableGet_tableAbove {α : Type} (d : α) (t : Table α) (a b : Nat) (h : a < b) :
    tableGet d (tableAbove t a) b = tableGet d t b := by
  induction t with
  | nil => rfl
  | cons x t ih =>
    simp only [tableAbove]
    split
    · rfl
    · rw [ih]
      simp only [tableGet]
      rw [if_neg (by omega), if_neg (by omega)]

theorem mem_tablePut {α : Type} [DecidableEq α] {d : α} {t : Table α} {a : Nat} {v : α} {e : Nat × α}
    (h : e ∈ tablePut d t a v) : e ∈ t ∨ e = (a, v) := by
  induction t with
  | nil =>
    simp only [tablePut] at h
    split at h <;> simp_all
  | cons x t ih =>
    obtain ⟨k, w⟩ := x
    simp only [tablePut] at h
    split at h
    · split at h
      · exact Or.inl h
      · rcases List.mem_cons.1 h with h | h
        · exact Or.inr h
        · exact Or.inl h
    · split at h
      · split at h
        · exact Or.inl (List.mem_cons_of_mem _ ((tableAbove_suffix t a).subset h))
        · rcases List.mem_cons.1 h with h | h
          · exact Or.inr h
          · exact Or.inl (List.mem_cons_of_mem _ h)
      · rcases List.mem_cons.1 h with h | h
        · exact Or.inl (by simp [h])
        · rcases ih h with h | h
          · exact Or.inl (List.mem_cons_of_mem _ h)
          · exact Or.inr h

/-- A put keeps the canonical form. -/
theorem tablePut_wf {α : Type} [DecidableEq α] {d : α} {t : Table α} (a : Nat) (v : α) (h : tableWf d t = true) :
    tableWf d (tablePut d t a v) = true := by
  rw [tableWf_iff] at h ⊢
  induction t with
  | nil => by_cases hv : v = d <;> simp [tablePut, hv]
  | cons x t ih =>
    obtain ⟨k, w⟩ := x
    obtain ⟨hp, hd⟩ := h
    have hp' := List.pairwise_cons.1 hp
    have ht := ih ⟨hp'.2, fun e he => hd e (List.mem_cons_of_mem _ he)⟩
    have hw : w ≠ d := hd (k, w) (by simp)
    have htl : ∀ e ∈ t, e.2 ≠ d := fun e he => hd e (List.mem_cons_of_mem _ he)
    simp only [tablePut]
    split
    · rename_i hak
      split
      · exact ⟨hp, hd⟩
      · rename_i hv
        refine ⟨List.pairwise_cons.2 ⟨?_, hp⟩, ?_⟩
        · intro e he
          rcases List.mem_cons.1 he with rfl | he
          · exact hak
          · exact Nat.lt_trans hak (hp'.1 e he)
        · intro e he
          rcases List.mem_cons.1 he with rfl | he
          · exact hv
          · exact hd e he
    · split
      · rename_i hak
        split
        · have hs := tableAbove_suffix t a
          exact ⟨hp'.2.sublist hs.sublist, fun e he => htl e (hs.subset he)⟩
        · rename_i hv
          refine ⟨List.pairwise_cons.2 ⟨fun e he => by simpa [hak] using hp'.1 e he, hp'.2⟩, ?_⟩
          intro e he
          rcases List.mem_cons.1 he with rfl | he
          · exact hv
          · exact htl e he
      · rename_i h1 h2
        have hka : k < a := by omega
        refine ⟨List.pairwise_cons.2 ⟨?_, ht.1⟩, ?_⟩
        · intro e he
          rcases mem_tablePut he with h | h
          · exact hp'.1 e h
          · rw [h]; exact hka
        · intro e he
          rcases List.mem_cons.1 he with rfl | he
          · exact hw
          · exact ht.2 e he

/-- Clearing a range keeps the canonical form. -/
theorem tableClear_wf {α : Type} [DecidableEq α] {d : α} {t : Table α} (lo hi : Nat) (h : tableWf d t = true) :
    tableWf d (tableClear t lo hi) = true := by
  rw [tableWf_iff] at h ⊢
  exact ⟨h.1.filter _, fun e he => h.2 e ((List.mem_filter.1 he).1)⟩

/-- A read after a put at the same key gives what was put, at another key what was there: of every table, canonical or
not. -/
theorem tableGet_tablePut {α : Type} [DecidableEq α] (d : α) (t : Table α) (a b : Nat) (v : α) :
    tableGet d (tablePut d t a v) b = if b = a then v else tableGet d t b := by
  induction t with
  | nil =>
    simp only [tablePut]
    by_cases hv : v = d
    · simp [hv, tableGet]
    · simp only [hv, if_false, tableGet]
      split <;> simp_all
  | cons x t ih =>
    obtain ⟨k, w⟩ := x
    simp only [tablePut]
    by_cases h1 : a < k
    · rw [if_pos h1]
      by_cases hv : v = d
      · rw [if_pos hv]
        by_cases hb : b = a
        · rw [if_pos hb, hv]
          simp only [tableGet]
          rw [if_neg (by omega), if_pos (by omega)]
        · rw [if_neg hb]
      · rw [if_neg hv]
        by_cases hb : b = a
        · simp [tableGet, hb]
        · rw [if_neg hb]
          simp only [tableGet, hb, if_false]
          by_cases hba : b < a
          · rw [if_pos hba, if_neg (by omega), if_pos (by omega)]
          · rw [if_neg hba]
    · rw [if_neg h1]
      by_cases h2 : a = k
      · subst h2
        simp only [if_true]
        by_cases hv : v = d
        · rw [if_pos hv]
          by_cases hb : b ≤ a
          · rw [tableGet_of_head d _ b (fun e he => Nat.lt_of_le_of_lt hb (tableAbove_head t a e he))]
            by_cases hba : b = a
            · rw [if_pos hba, hv]
            · rw [if_neg hba]
              simp only [tableGet]
              rw [if_neg hba, if_pos (by omega)]
          · rw [tableGet_tableAbove d t a b (by omega), if_neg (by omega)]
            simp only [tableGet]
            rw [if_neg (by omega), if_neg (by omega)]
        · rw [if_neg hv]
          by_cases hb : b = a
          · simp [tableGet, hb]
          · simp [tableGet, hb]
      · rw [if_neg h2]
        by_cases hb : b = k
        · subst hb
          have : ¬ b = a := by omega
          simp [tableGet, this]
        · by_cases hba : b < k
          · have : ¬ b = a := by omega
            simp [tableGet, hb, hba, this]
          · simp only [tableGet, hb, hba, if_false]
            exact ih

/-! ### Byte memories -/

theorem memPutByte_wf {m : Mem} (a : Nat) (b : Byte) (h : Memory.wf m = true) : Memory.wf (memPutByte m a b) = true :=
  tablePut_wf a b h

theorem mem_memCells {a : Nat} {bs : List Byte} {tail : Mem} {e : Host.Cell} (h : e ∈ memCells a bs tail) :
    (a ≤ e.1 ∧ e.1 < a + bs.length ∧ e.2 ≠ memBlank) ∨ e ∈ tail := by
  induction bs generalizing a with
  | nil => exact Or.inr h
  | cons b bs ih =>
    simp only [memCells] at h
    split at h
    · rcases ih h with ⟨h1, h2, h3⟩ | h
      · exact Or.inl ⟨by omega, by simp only [List.length_cons]; omega, h3⟩
      · exact Or.inr h
    · rcases List.mem_cons.1 h with rfl | h
      · rename_i hb
        exact Or.inl ⟨Nat.le_refl _, by simp, hb⟩
      · rcases ih h with ⟨h1, h2, h3⟩ | h
        · exact Or.inl ⟨by omega, by simp only [List.length_cons]; omega, h3⟩
        · exact Or.inr h

theorem memCells_wf {a : Nat} {bs : List Byte} {tail : Mem} (h : Memory.wf tail = true)
    (ht : ∀ e ∈ tail, a + bs.length ≤ e.1) : Memory.wf (memCells a bs tail) = true := by
  unfold Memory.wf at h ⊢
  rw [tableWf_iff] at h ⊢
  induction bs generalizing a with
  | nil => exact h
  | cons b bs ih =>
    have ih' := ih (a := a + 1) (fun e he => by have := ht e he; simp only [List.length_cons] at this; omega)
    simp only [memCells]
    split
    · exact ih'
    · rename_i hb
      refine ⟨List.pairwise_cons.2 ⟨?_, ih'.1⟩, ?_⟩
      · intro e he
        rcases mem_memCells he with ⟨h1, _, _⟩ | h1
        · show a < e.1; omega
        · have := ht e h1; simp only [List.length_cons] at this; show a < e.1; omega
      · intro e he
        rcases List.mem_cons.1 he with rfl | he
        · exact hb
        · exact ih'.2 e he

theorem memAbove_sublist (m : Mem) (a : Nat) : (memAbove m a).Sublist m := by
  induction m with
  | nil => simp [memAbove]
  | cons x m ih =>
    obtain ⟨k, v⟩ := x
    simp only [memAbove]
    split
    · exact ih.cons _
    · exact List.Sublist.refl _

theorem memAbove_ge {m : Mem} (a : Nat) (h : Memory.wf m = true) : ∀ e ∈ memAbove m a, a ≤ e.1 := by
  unfold Memory.wf at h
  rw [tableWf_iff] at h
  induction m with
  | nil => simp [memAbove]
  | cons x m ih =>
    obtain ⟨k, v⟩ := x
    have hp := List.pairwise_cons.1 h.1
    simp only [memAbove]
    split
    · exact ih ⟨hp.2, fun e he => h.2 e (List.mem_cons_of_mem _ he)⟩
    · rename_i hk
      intro e he
      rcases List.mem_cons.1 he with rfl | he
      · show a ≤ k; omega
      · have : k < e.1 := hp.1 e he
        omega

theorem wf_sublist {m m' : Mem} (hs : m'.Sublist m) (h : Memory.wf m = true) : Memory.wf m' = true := by
  unfold Memory.wf at h ⊢
  rw [tableWf_iff] at h ⊢
  exact ⟨h.1.sublist hs, fun e he => h.2 e (hs.subset he)⟩

theorem mem_memWrite {m : Mem} {a : Nat} {bs : List Byte} {e : Host.Cell} (h : e ∈ memWrite m a bs) :
    (a ≤ e.1 ∧ e.1 < a + bs.length ∧ e.2 ≠ memBlank) ∨ e ∈ m := by
  induction m with
  | nil =>
    simp only [memWrite] at h
    rcases mem_memCells h with h | h
    · exact Or.inl h
    · cases h
  | cons x m ih =>
    obtain ⟨k, v⟩ := x
    simp only [memWrite] at h
    split at h
    · rcases List.mem_cons.1 h with h | h
      · exact Or.inr (by simp [h])
      · rcases ih h with h | h
        · exact Or.inl h
        · exact Or.inr (List.mem_cons_of_mem _ h)
    · rcases mem_memCells h with h | h
      · exact Or.inl h
      · exact Or.inr ((memAbove_sublist _ _).subset h)

/-- A write of consecutive bytes keeps the canonical form. -/
theorem memWrite_wf {m : Mem} (a : Nat) (bs : List Byte) (h : Memory.wf m = true) :
    Memory.wf (memWrite m a bs) = true := by
  induction m with
  | nil => exact memCells_wf h (by simp)
  | cons x m ih =>
    obtain ⟨k, v⟩ := x
    have hm : Memory.wf m = true := wf_sublist (List.sublist_cons_self _ _) h
    simp only [memWrite]
    split
    · rename_i hk
      have ih' := ih hm
      unfold Memory.wf at h ih' ⊢
      rw [tableWf_iff] at h ih' ⊢
      have hp := List.pairwise_cons.1 h.1
      refine ⟨List.pairwise_cons.2 ⟨?_, ih'.1⟩, ?_⟩
      · intro e he
        rcases mem_memWrite he with ⟨h1, _, _⟩ | h1
        · show k < e.1; omega
        · exact hp.1 e h1
      · intro e he
        rcases List.mem_cons.1 he with rfl | he
        · exact h.2 _ (by simp)
        · exact ih'.2 e he
    · exact memCells_wf (wf_sublist (memAbove_sublist _ _) h) (memAbove_ge _ h)

theorem memPutWord_wf {m : Mem} (a n w : Nat) (h : Memory.wf m = true) : Memory.wf (memPutWord m a n w) = true :=
  memWrite_wf a _ h

/-! ### Reads after writes of bytes -/

theorem memAbove_head (m : Mem) (a : Nat) : ∀ e, (memAbove m a).head? = some e → a ≤ e.1 := by
  induction m with
  | nil => intro e h; cases h
  | cons x m ih =>
    obtain ⟨k, v⟩ := x
    simp only [memAbove]
    split
    · exact ih
    · intro e h
      cases h
      simp_all

theorem memByte_of_head (m : Mem) (a : Nat) (h : ∀ e, m.head? = some e → a < e.1) : memByte m a = memBlank :=
  tableGet_of_head memBlank m a h

theorem memByte_cons (k : Nat) (v : Byte) (m : Mem) (b : Nat) :
    memByte ((k, v) :: m) b = if b = k then v else if b < k then memBlank else memByte m b := rfl

theorem memByte_memCells (a : Nat) (bs : List Byte) (tail : Mem) (ht : ∀ e, tail.head? = some e → a + bs.length ≤ e.1)
    (b : Nat) :
    memByte (memCells a bs tail) b =
      if a ≤ b ∧ b < a + bs.length then bs.getD (b - a) memBlank
      else if b < a then memBlank else memByte tail b := by
  induction bs generalizing a with
  | nil =>
    simp only [memCells, List.length_nil]
    rw [if_neg (by omega)]
    split
    · exact memByte_of_head _ _ (fun e he => by have := ht e he; simp only [List.length_nil] at this; omega)
    · rfl
  | cons c bs ih =>
    have ih' := ih (a + 1) (fun e he => by have := ht e he; simp only [List.length_cons] at this; omega)
    simp only [memCells, List.length_cons]
    by_cases hb : b = a
    · subst hb
      have h0 : b ≤ b ∧ b < b + (bs.length + 1) := by omega
      by_cases hc : c = memBlank
      · rw [if_pos hc, ih', if_neg (by omega), if_pos (by omega), if_pos h0]
        simp [hc]
      · rw [if_neg hc, memByte_cons, if_pos rfl, if_pos h0]
        simp
    · have he : (if c = memBlank then memCells (a + 1) bs tail else (a, c) :: memCells (a + 1) bs tail) =
            memCells (a + 1) bs tail ∨
          (if c = memBlank then memCells (a + 1) bs tail else (a, c) :: memCells (a + 1) bs tail) =
            (a, c) :: memCells (a + 1) bs tail := by
        split
        · exact Or.inl rfl
        · exact Or.inr rfl
      by_cases hlt : b < a
      · have h0 : ¬ (a ≤ b ∧ b < a + (bs.length + 1)) := by omega
        rw [if_neg h0, if_pos hlt]
        rcases he with he | he <;> rw [he]
        · rw [ih', if_neg (by omega), if_pos (by omega)]
        · rw [memByte_cons, if_neg hb, if_pos hlt]
      · have h1 : memByte (if c = memBlank then memCells (a + 1) bs tail else (a, c) :: memCells (a + 1) bs tail) b =
            memByte (memCells (a + 1) bs tail) b := by
          rcases he with he | he <;> rw [he]
          rw [memByte_cons, if_neg hb, if_neg hlt]
        rw [h1, ih', if_neg hlt]
        by_cases h2 : a + 1 ≤ b ∧ b < a + 1 + bs.length
        · have h3 : b - a = (b - (a + 1)) + 1 := by omega
          rw [if_pos h2, if_pos (by omega), h3]
          simp
        · rw [if_neg h2, if_neg (by omega), if_neg (by omega)]

theorem memByte_memAbove (m : Mem) (a b : Nat) (hb : a ≤ b) : memByte (memAbove m a) b = memByte m b := by
  induction m with
  | nil => rfl
  | cons x m ih =>
    obtain ⟨k, v⟩ := x
    simp only [memAbove]
    split
    · rw [ih, memByte_cons, if_neg (by omega), if_neg (by omega)]
    · rfl

/-- Reading a byte after a write: inside the written bytes what was written, elsewhere what was there. It holds of every
memory, canonical or not. -/
theorem memByte_memWrite (m : Mem) (a : Nat) (bs : List Byte) (b : Nat) :
    memByte (memWrite m a bs) b =
      if a ≤ b ∧ b < a + bs.length then bs.getD (b - a) memBlank else memByte m b := by
  induction m with
  | nil =>
    have h := memByte_memCells a bs [] (by simp) b
    show memByte (memCells a bs []) b = _
    rw [h]
    congr 1
    split <;> rfl
  | cons x m ih =>
    obtain ⟨k, v⟩ := x
    simp only [memWrite]
    split
    · rename_i hk
      rw [memByte_cons, memByte_cons, ih]
      by_cases hb : b = k
      · rw [if_pos hb, if_pos hb, if_neg (by omega)]
      · rw [if_neg hb, if_neg hb]
        by_cases hlt : b < k
        · rw [if_pos hlt, if_pos hlt, if_neg (by omega)]
        · rw [if_neg hlt, if_neg hlt]
    · rename_i hk
      rw [memByte_memCells a bs _ (memAbove_head _ _)]
      by_cases h2 : a ≤ b ∧ b < a + bs.length
      · rw [if_pos h2, if_pos h2]
      · rw [if_neg h2, if_neg h2]
        by_cases hba : b < a
        · rw [if_pos hba]
          exact (memByte_of_head _ _ (fun e he => by cases he; show b < k; omega)).symm
        · rw [if_neg hba]
          exact memByte_memAbove _ _ _ (by omega)

theorem memRead_get (m : Mem) (a n i : Nat) :
    (memRead m a n)[i]? = if i < n then some (memByte m (a + i)) else none := by
  induction m generalizing a n i with
  | nil =>
    show (List.replicate n memBlank)[i]? = _
    rw [List.getElem?_replicate]
    rfl
  | cons x m ih =>
    obtain ⟨k, v⟩ := x
    simp only [memRead]
    by_cases h1 : k < a
    · rw [if_pos h1, ih, memByte_cons, if_neg (by omega : ¬ a + i = k), if_neg (by omega : ¬ a + i < k)]
    · rw [if_neg h1]
      by_cases h2 : k < a + n
      · rw [if_pos h2]
        by_cases h3 : i < k - a
        · have h4 : i < (List.replicate (k - a) memBlank).length := by simpa using h3
          have h5 : i < n := by omega
          rw [List.getElem?_append_left h4, List.getElem?_replicate, if_pos h3, if_pos h5, memByte_cons,
            if_neg (by omega), if_pos (by omega)]
        · rw [List.getElem?_append_right (by simpa using h3), List.length_replicate]
          by_cases h4 : i = k - a
          · subst h4
            have h5 : k - a < n := by omega
            rw [Nat.sub_self, if_pos h5, memByte_cons, if_pos (by omega)]
            rfl
          · obtain ⟨j, hj⟩ : ∃ j, i - (k - a) = j + 1 := ⟨i - (k - a) - 1, by omega⟩
            rw [hj, List.getElem?_cons_succ, ih, memByte_cons, if_neg (by omega : ¬ a + i = k),
              if_neg (by omega : ¬ a + i < k)]
            have h6 : k + 1 + j = a + i := by omega
            rw [h6]
            by_cases h7 : i < n
            · rw [if_pos h7, if_pos (by omega)]
            · rw [if_neg h7, if_neg (by omega)]
      · rw [if_neg h2, List.getElem?_replicate]
        by_cases h3 : i < n
        · rw [if_pos h3, if_pos h3, memByte_cons, if_neg (by omega), if_pos (by omega)]
        · rw [if_neg h3, if_neg h3]

/-- A read gives the bytes one by one. -/
theorem memRead_eq (m : Mem) (a n : Nat) : memRead m a n = (List.range n).map (fun i => memByte m (a + i)) := by
  refine List.ext_getElem? (fun i => ?_)
  rw [memRead_get, List.getElem?_map]
  by_cases h : i < n
  · rw [if_pos h, List.getElem?_eq_getElem (by simpa using h)]
    simp
  · rw [if_neg h, List.getElem?_eq_none (by simpa using h)]
    rfl

@[simp] theorem memRead_length (m : Mem) (a n : Nat) : (memRead m a n).length = n := by
  rw [memRead_eq, List.length_map, List.length_range]

end Sys2Proof.Machine
end

