-- ==== Sys2Proof/Laws/State.lean ====
section
/-!
SUPPORT. One lemma for each field of the state and each named update: what the update leaves, and what it puts
where it says so. Written so that no proof unfolds a record update.
-/

namespace Sys2Proof.Machine

/-! ### setRafter -/

@[simp] theorem setRafter_grade (s : State) (p : Nat) (x : Rafter) : (setRafter s p x).grade = s.grade := rfl
@[simp] theorem setRafter_crs (s : State) (p : Nat) (x : Rafter) : (setRafter s p x).crs = s.crs := rfl
@[simp] theorem setRafter_rft (s : State) (p : Nat) (x : Rafter) : (setRafter s p x).rft = s.rft.set p x := rfl
@[simp] theorem setRafter_trs (s : State) (p : Nat) (x : Rafter) : (setRafter s p x).trs = s.trs := rfl
@[simp] theorem setRafter_eav (s : State) (p : Nat) (x : Rafter) : (setRafter s p x).eav = s.eav := rfl
@[simp] theorem setRafter_cxl (s : State) (p : Nat) (x : Rafter) : (setRafter s p x).cxl = s.cxl := rfl
@[simp] theorem setRafter_tier (s : State) (p : Nat) (x : Rafter) : (setRafter s p x).tier = s.tier := rfl
@[simp] theorem setRafter_saf (s : State) (p : Nat) (x : Rafter) : (setRafter s p x).saf = s.saf := rfl
@[simp] theorem setRafter_pwr (s : State) (p : Nat) (x : Rafter) : (setRafter s p x).pwr = s.pwr := rfl
@[simp] theorem setRafter_sec (s : State) (p : Nat) (x : Rafter) : (setRafter s p x).sec = s.sec := rfl
@[simp] theorem setRafter_cnt (s : State) (p : Nat) (x : Rafter) : (setRafter s p x).cnt = s.cnt := rfl
@[simp] theorem setRafter_pkg (s : State) (p : Nat) (x : Rafter) : (setRafter s p x).pkg = s.pkg := rfl
@[simp] theorem setRafter_prog (s : State) (p : Nat) (x : Rafter) : (setRafter s p x).prog = s.prog := rfl
@[simp] theorem setRafter_progNext (s : State) (p : Nat) (x : Rafter) : (setRafter s p x).progNext = s.progNext := rfl
@[simp] theorem setRafter_upd (s : State) (p : Nat) (x : Rafter) : (setRafter s p x).upd = s.upd := rfl
@[simp] theorem setRafter_lnk (s : State) (p : Nat) (x : Rafter) : (setRafter s p x).lnk = s.lnk := rfl
@[simp] theorem setRafter_hst (s : State) (p : Nat) (x : Rafter) : (setRafter s p x).hst = s.hst := rfl
@[simp] theorem setRafter_enabled (s : State) (p : Nat) (x : Rafter) : (setRafter s p x).enabled = s.enabled := rfl
@[simp] theorem setRafter_fenced (s : State) (p : Nat) (x : Rafter) : (setRafter s p x).fenced = s.fenced := rfl
@[simp] theorem setRafter_sparInbox (s : State) (p : Nat) (x : Rafter) : (setRafter s p x).sparInbox = s.sparInbox := rfl
@[simp] theorem setRafter_reads (s : State) (p : Nat) (x : Rafter) : (setRafter s p x).reads = s.reads := rfl
@[simp] theorem setRafter_acks (s : State) (p : Nat) (x : Rafter) : (setRafter s p x).acks = s.acks := rfl
@[simp] theorem setRafter_ridgeAsked (s : State) (p : Nat) (x : Rafter) : (setRafter s p x).ridgeAsked = s.ridgeAsked := rfl
@[simp] theorem setRafter_ridgeGot (s : State) (p : Nat) (x : Rafter) : (setRafter s p x).ridgeGot = s.ridgeGot := rfl
@[simp] theorem setRafter_now (s : State) (p : Nat) (x : Rafter) : (setRafter s p x).now = s.now := rfl
@[simp] theorem setRafter_free (s : State) (p : Nat) (x : Rafter) : (setRafter s p x).free = s.free := rfl
@[simp] theorem setRafter_pending (s : State) (p : Nat) (x : Rafter) : (setRafter s p x).pending = s.pending := rfl

/-! ### updRafter -/

@[simp] theorem updRafter_grade (s : State) (n : RafterId) (f : Rafter → Rafter) : (updRafter s n f).grade = s.grade := by
  unfold updRafter; split <;> rfl
@[simp] theorem updRafter_crs (s : State) (n : RafterId) (f : Rafter → Rafter) : (updRafter s n f).crs = s.crs := by
  unfold updRafter; split <;> rfl
@[simp] theorem updRafter_trs (s : State) (n : RafterId) (f : Rafter → Rafter) : (updRafter s n f).trs = s.trs := by
  unfold updRafter; split <;> rfl
@[simp] theorem updRafter_eav (s : State) (n : RafterId) (f : Rafter → Rafter) : (updRafter s n f).eav = s.eav := by
  unfold updRafter; split <;> rfl
@[simp] theorem updRafter_cxl (s : State) (n : RafterId) (f : Rafter → Rafter) : (updRafter s n f).cxl = s.cxl := by
  unfold updRafter; split <;> rfl
@[simp] theorem updRafter_tier (s : State) (n : RafterId) (f : Rafter → Rafter) : (updRafter s n f).tier = s.tier := by
  unfold updRafter; split <;> rfl
@[simp] theorem updRafter_saf (s : State) (n : RafterId) (f : Rafter → Rafter) : (updRafter s n f).saf = s.saf := by
  unfold updRafter; split <;> rfl
@[simp] theorem updRafter_pwr (s : State) (n : RafterId) (f : Rafter → Rafter) : (updRafter s n f).pwr = s.pwr := by
  unfold updRafter; split <;> rfl
@[simp] theorem updRafter_sec (s : State) (n : RafterId) (f : Rafter → Rafter) : (updRafter s n f).sec = s.sec := by
  unfold updRafter; split <;> rfl
@[simp] theorem updRafter_cnt (s : State) (n : RafterId) (f : Rafter → Rafter) : (updRafter s n f).cnt = s.cnt := by
  unfold updRafter; split <;> rfl
@[simp] theorem updRafter_pkg (s : State) (n : RafterId) (f : Rafter → Rafter) : (updRafter s n f).pkg = s.pkg := by
  unfold updRafter; split <;> rfl
@[simp] theorem updRafter_prog (s : State) (n : RafterId) (f : Rafter → Rafter) : (updRafter s n f).prog = s.prog := by
  unfold updRafter; split <;> rfl
@[simp] theorem updRafter_progNext (s : State) (n : RafterId) (f : Rafter → Rafter) : (updRafter s n f).progNext = s.progNext := by
  unfold updRafter; split <;> rfl
@[simp] theorem updRafter_upd (s : State) (n : RafterId) (f : Rafter → Rafter) : (updRafter s n f).upd = s.upd := by
  unfold updRafter; split <;> rfl
@[simp] theorem updRafter_lnk (s : State) (n : RafterId) (f : Rafter → Rafter) : (updRafter s n f).lnk = s.lnk := by
  unfold updRafter; split <;> rfl
@[simp] theorem updRafter_hst (s : State) (n : RafterId) (f : Rafter → Rafter) : (updRafter s n f).hst = s.hst := by
  unfold updRafter; split <;> rfl
@[simp] theorem updRafter_enabled (s : State) (n : RafterId) (f : Rafter → Rafter) : (updRafter s n f).enabled = s.enabled := by
  unfold updRafter; split <;> rfl
@[simp] theorem updRafter_fenced (s : State) (n : RafterId) (f : Rafter → Rafter) : (updRafter s n f).fenced = s.fenced := by
  unfold updRafter; split <;> rfl
@[simp] theorem updRafter_sparInbox (s : State) (n : RafterId) (f : Rafter → Rafter) : (updRafter s n f).sparInbox = s.sparInbox := by
  unfold updRafter; split <;> rfl
@[simp] theorem updRafter_reads (s : State) (n : RafterId) (f : Rafter → Rafter) : (updRafter s n f).reads = s.reads := by
  unfold updRafter; split <;> rfl
@[simp] theorem updRafter_acks (s : State) (n : RafterId) (f : Rafter → Rafter) : (updRafter s n f).acks = s.acks := by
  unfold updRafter; split <;> rfl
@[simp] theorem updRafter_ridgeAsked (s : State) (n : RafterId) (f : Rafter → Rafter) : (updRafter s n f).ridgeAsked = s.ridgeAsked := by
  unfold updRafter; split <;> rfl
@[simp] theorem updRafter_ridgeGot (s : State) (n : RafterId) (f : Rafter → Rafter) : (updRafter s n f).ridgeGot = s.ridgeGot := by
  unfold updRafter; split <;> rfl
@[simp] theorem updRafter_now (s : State) (n : RafterId) (f : Rafter → Rafter) : (updRafter s n f).now = s.now := by
  unfold updRafter; split <;> rfl
@[simp] theorem updRafter_free (s : State) (n : RafterId) (f : Rafter → Rafter) : (updRafter s n f).free = s.free := by
  unfold updRafter; split <;> rfl
@[simp] theorem updRafter_pending (s : State) (n : RafterId) (f : Rafter → Rafter) : (updRafter s n f).pending = s.pending := by
  unfold updRafter; split <;> rfl

/-! ### allRafters -/

@[simp] theorem allRafters_grade (s : State) (f : Nat → Rafter → Rafter) : (allRafters s f).grade = s.grade := rfl
@[simp] theorem allRafters_crs (s : State) (f : Nat → Rafter → Rafter) : (allRafters s f).crs = s.crs := rfl
@[simp] theorem allRafters_rft (s : State) (f : Nat → Rafter → Rafter) : (allRafters s f).rft = s.rft.mapIdx f := rfl
@[simp] theorem allRafters_trs (s : State) (f : Nat → Rafter → Rafter) : (allRafters s f).trs = s.trs := rfl
@[simp] theorem allRafters_eav (s : State) (f : Nat → Rafter → Rafter) : (allRafters s f).eav = s.eav := rfl
@[simp] theorem allRafters_cxl (s : State) (f : Nat → Rafter → Rafter) : (allRafters s f).cxl = s.cxl := rfl
@[simp] theorem allRafters_tier (s : State) (f : Nat → Rafter → Rafter) : (allRafters s f).tier = s.tier := rfl
@[simp] theorem allRafters_saf (s : State) (f : Nat → Rafter → Rafter) : (allRafters s f).saf = s.saf := rfl
@[simp] theorem allRafters_pwr (s : State) (f : Nat → Rafter → Rafter) : (allRafters s f).pwr = s.pwr := rfl
@[simp] theorem allRafters_sec (s : State) (f : Nat → Rafter → Rafter) : (allRafters s f).sec = s.sec := rfl
@[simp] theorem allRafters_cnt (s : State) (f : Nat → Rafter → Rafter) : (allRafters s f).cnt = s.cnt := rfl
@[simp] theorem allRafters_pkg (s : State) (f : Nat → Rafter → Rafter) : (allRafters s f).pkg = s.pkg := rfl
@[simp] theorem allRafters_prog (s : State) (f : Nat → Rafter → Rafter) : (allRafters s f).prog = s.prog := rfl
@[simp] theorem allRafters_progNext (s : State) (f : Nat → Rafter → Rafter) : (allRafters s f).progNext = s.progNext := rfl
@[simp] theorem allRafters_upd (s : State) (f : Nat → Rafter → Rafter) : (allRafters s f).upd = s.upd := rfl
@[simp] theorem allRafters_lnk (s : State) (f : Nat → Rafter → Rafter) : (allRafters s f).lnk = s.lnk := rfl
@[simp] theorem allRafters_hst (s : State) (f : Nat → Rafter → Rafter) : (allRafters s f).hst = s.hst := rfl
@[simp] theorem allRafters_enabled (s : State) (f : Nat → Rafter → Rafter) : (allRafters s f).enabled = s.enabled := rfl
@[simp] theorem allRafters_fenced (s : State) (f : Nat → Rafter → Rafter) : (allRafters s f).fenced = s.fenced := rfl
@[simp] theorem allRafters_sparInbox (s : State) (f : Nat → Rafter → Rafter) : (allRafters s f).sparInbox = s.sparInbox := rfl
@[simp] theorem allRafters_reads (s : State) (f : Nat → Rafter → Rafter) : (allRafters s f).reads = s.reads := rfl
@[simp] theorem allRafters_acks (s : State) (f : Nat → Rafter → Rafter) : (allRafters s f).acks = s.acks := rfl
@[simp] theorem allRafters_ridgeAsked (s : State) (f : Nat → Rafter → Rafter) : (allRafters s f).ridgeAsked = s.ridgeAsked := rfl
@[simp] theorem allRafters_ridgeGot (s : State) (f : Nat → Rafter → Rafter) : (allRafters s f).ridgeGot = s.ridgeGot := rfl
@[simp] theorem allRafters_now (s : State) (f : Nat → Rafter → Rafter) : (allRafters s f).now = s.now := rfl
@[simp] theorem allRafters_free (s : State) (f : Nat → Rafter → Rafter) : (allRafters s f).free = s.free := rfl
@[simp] theorem allRafters_pending (s : State) (f : Nat → Rafter → Rafter) : (allRafters s f).pending = s.pending := rfl

/-! ### setTruss -/

@[simp] theorem setTruss_grade (s : State) (t : Nat) (x : Truss) : (setTruss s t x).grade = s.grade := rfl
@[simp] theorem setTruss_crs (s : State) (t : Nat) (x : Truss) : (setTruss s t x).crs = s.crs := rfl
@[simp] theorem setTruss_rft (s : State) (t : Nat) (x : Truss) : (setTruss s t x).rft = s.rft := rfl
@[simp] theorem setTruss_trs (s : State) (t : Nat) (x : Truss) : (setTruss s t x).trs = s.trs.set t x := rfl
@[simp] theorem setTruss_eav (s : State) (t : Nat) (x : Truss) : (setTruss s t x).eav = s.eav := rfl
@[simp] theorem setTruss_cxl (s : State) (t : Nat) (x : Truss) : (setTruss s t x).cxl = s.cxl := rfl
@[simp] theorem setTruss_tier (s : State) (t : Nat) (x : Truss) : (setTruss s t x).tier = s.tier := rfl
@[simp] theorem setTruss_saf (s : State) (t : Nat) (x : Truss) : (setTruss s t x).saf = s.saf := rfl
@[simp] theorem setTruss_pwr (s : State) (t : Nat) (x : Truss) : (setTruss s t x).pwr = s.pwr := rfl
@[simp] theorem setTruss_sec (s : State) (t : Nat) (x : Truss) : (setTruss s t x).sec = s.sec := rfl
@[simp] theorem setTruss_cnt (s : State) (t : Nat) (x : Truss) : (setTruss s t x).cnt = s.cnt := rfl
@[simp] theorem setTruss_pkg (s : State) (t : Nat) (x : Truss) : (setTruss s t x).pkg = s.pkg := rfl
@[simp] theorem setTruss_prog (s : State) (t : Nat) (x : Truss) : (setTruss s t x).prog = s.prog := rfl
@[simp] theorem setTruss_progNext (s : State) (t : Nat) (x : Truss) : (setTruss s t x).progNext = s.progNext := rfl
@[simp] theorem setTruss_upd (s : State) (t : Nat) (x : Truss) : (setTruss s t x).upd = s.upd := rfl
@[simp] theorem setTruss_lnk (s : State) (t : Nat) (x : Truss) : (setTruss s t x).lnk = s.lnk := rfl
@[simp] theorem setTruss_hst (s : State) (t : Nat) (x : Truss) : (setTruss s t x).hst = s.hst := rfl
@[simp] theorem setTruss_enabled (s : State) (t : Nat) (x : Truss) : (setTruss s t x).enabled = s.enabled := rfl
@[simp] theorem setTruss_fenced (s : State) (t : Nat) (x : Truss) : (setTruss s t x).fenced = s.fenced := rfl
@[simp] theorem setTruss_sparInbox (s : State) (t : Nat) (x : Truss) : (setTruss s t x).sparInbox = s.sparInbox := rfl
@[simp] theorem setTruss_reads (s : State) (t : Nat) (x : Truss) : (setTruss s t x).reads = s.reads := rfl
@[simp] theorem setTruss_acks (s : State) (t : Nat) (x : Truss) : (setTruss s t x).acks = s.acks := rfl
@[simp] theorem setTruss_ridgeAsked (s : State) (t : Nat) (x : Truss) : (setTruss s t x).ridgeAsked = s.ridgeAsked := rfl
@[simp] theorem setTruss_ridgeGot (s : State) (t : Nat) (x : Truss) : (setTruss s t x).ridgeGot = s.ridgeGot := rfl
@[simp] theorem setTruss_now (s : State) (t : Nat) (x : Truss) : (setTruss s t x).now = s.now := rfl
@[simp] theorem setTruss_free (s : State) (t : Nat) (x : Truss) : (setTruss s t x).free = s.free := rfl
@[simp] theorem setTruss_pending (s : State) (t : Nat) (x : Truss) : (setTruss s t x).pending = s.pending := rfl

/-! ### updTruss -/

@[simp] theorem updTruss_grade (s : State) (t : Nat) (f : Truss → Truss) : (updTruss s t f).grade = s.grade := rfl
@[simp] theorem updTruss_crs (s : State) (t : Nat) (f : Truss → Truss) : (updTruss s t f).crs = s.crs := rfl
@[simp] theorem updTruss_rft (s : State) (t : Nat) (f : Truss → Truss) : (updTruss s t f).rft = s.rft := rfl
@[simp] theorem updTruss_trs (s : State) (t : Nat) (f : Truss → Truss) : (updTruss s t f).trs = s.trs.set t (f (trussAt s t)) := rfl
@[simp] theorem updTruss_eav (s : State) (t : Nat) (f : Truss → Truss) : (updTruss s t f).eav = s.eav := rfl
@[simp] theorem updTruss_cxl (s : State) (t : Nat) (f : Truss → Truss) : (updTruss s t f).cxl = s.cxl := rfl
@[simp] theorem updTruss_tier (s : State) (t : Nat) (f : Truss → Truss) : (updTruss s t f).tier = s.tier := rfl
@[simp] theorem updTruss_saf (s : State) (t : Nat) (f : Truss → Truss) : (updTruss s t f).saf = s.saf := rfl
@[simp] theorem updTruss_pwr (s : State) (t : Nat) (f : Truss → Truss) : (updTruss s t f).pwr = s.pwr := rfl
@[simp] theorem updTruss_sec (s : State) (t : Nat) (f : Truss → Truss) : (updTruss s t f).sec = s.sec := rfl
@[simp] theorem updTruss_cnt (s : State) (t : Nat) (f : Truss → Truss) : (updTruss s t f).cnt = s.cnt := rfl
@[simp] theorem updTruss_pkg (s : State) (t : Nat) (f : Truss → Truss) : (updTruss s t f).pkg = s.pkg := rfl
@[simp] theorem updTruss_prog (s : State) (t : Nat) (f : Truss → Truss) : (updTruss s t f).prog = s.prog := rfl
@[simp] theorem updTruss_progNext (s : State) (t : Nat) (f : Truss → Truss) : (updTruss s t f).progNext = s.progNext := rfl
@[simp] theorem updTruss_upd (s : State) (t : Nat) (f : Truss → Truss) : (updTruss s t f).upd = s.upd := rfl
@[simp] theorem updTruss_lnk (s : State) (t : Nat) (f : Truss → Truss) : (updTruss s t f).lnk = s.lnk := rfl
@[simp] theorem updTruss_hst (s : State) (t : Nat) (f : Truss → Truss) : (updTruss s t f).hst = s.hst := rfl
@[simp] theorem updTruss_enabled (s : State) (t : Nat) (f : Truss → Truss) : (updTruss s t f).enabled = s.enabled := rfl
@[simp] theorem updTruss_fenced (s : State) (t : Nat) (f : Truss → Truss) : (updTruss s t f).fenced = s.fenced := rfl
@[simp] theorem updTruss_sparInbox (s : State) (t : Nat) (f : Truss → Truss) : (updTruss s t f).sparInbox = s.sparInbox := rfl
@[simp] theorem updTruss_reads (s : State) (t : Nat) (f : Truss → Truss) : (updTruss s t f).reads = s.reads := rfl
@[simp] theorem updTruss_acks (s : State) (t : Nat) (f : Truss → Truss) : (updTruss s t f).acks = s.acks := rfl
@[simp] theorem updTruss_ridgeAsked (s : State) (t : Nat) (f : Truss → Truss) : (updTruss s t f).ridgeAsked = s.ridgeAsked := rfl
@[simp] theorem updTruss_ridgeGot (s : State) (t : Nat) (f : Truss → Truss) : (updTruss s t f).ridgeGot = s.ridgeGot := rfl
@[simp] theorem updTruss_now (s : State) (t : Nat) (f : Truss → Truss) : (updTruss s t f).now = s.now := rfl
@[simp] theorem updTruss_free (s : State) (t : Nat) (f : Truss → Truss) : (updTruss s t f).free = s.free := rfl
@[simp] theorem updTruss_pending (s : State) (t : Nat) (f : Truss → Truss) : (updTruss s t f).pending = s.pending := rfl

/-! ### hitEave -/

@[simp] theorem hitEave_grade (s : State) (e ev n : Nat) : (hitEave s e ev n).grade = s.grade := rfl
@[simp] theorem hitEave_crs (s : State) (e ev n : Nat) : (hitEave s e ev n).crs = s.crs := rfl
@[simp] theorem hitEave_rft (s : State) (e ev n : Nat) : (hitEave s e ev n).rft = s.rft := rfl
@[simp] theorem hitEave_trs (s : State) (e ev n : Nat) : (hitEave s e ev n).trs = s.trs := rfl
@[simp] theorem hitEave_cxl (s : State) (e ev n : Nat) : (hitEave s e ev n).cxl = s.cxl := rfl
@[simp] theorem hitEave_tier (s : State) (e ev n : Nat) : (hitEave s e ev n).tier = s.tier := rfl
@[simp] theorem hitEave_saf (s : State) (e ev n : Nat) : (hitEave s e ev n).saf = s.saf := rfl
@[simp] theorem hitEave_pwr (s : State) (e ev n : Nat) : (hitEave s e ev n).pwr = s.pwr := rfl
@[simp] theorem hitEave_sec (s : State) (e ev n : Nat) : (hitEave s e ev n).sec = s.sec := rfl
@[simp] theorem hitEave_cnt (s : State) (e ev n : Nat) : (hitEave s e ev n).cnt = s.cnt := rfl
@[simp] theorem hitEave_pkg (s : State) (e ev n : Nat) : (hitEave s e ev n).pkg = s.pkg := rfl
@[simp] theorem hitEave_prog (s : State) (e ev n : Nat) : (hitEave s e ev n).prog = s.prog := rfl
@[simp] theorem hitEave_progNext (s : State) (e ev n : Nat) : (hitEave s e ev n).progNext = s.progNext := rfl
@[simp] theorem hitEave_upd (s : State) (e ev n : Nat) : (hitEave s e ev n).upd = s.upd := rfl
@[simp] theorem hitEave_lnk (s : State) (e ev n : Nat) : (hitEave s e ev n).lnk = s.lnk := rfl
@[simp] theorem hitEave_hst (s : State) (e ev n : Nat) : (hitEave s e ev n).hst = s.hst := rfl
@[simp] theorem hitEave_enabled (s : State) (e ev n : Nat) : (hitEave s e ev n).enabled = s.enabled := rfl
@[simp] theorem hitEave_fenced (s : State) (e ev n : Nat) : (hitEave s e ev n).fenced = s.fenced := rfl
@[simp] theorem hitEave_sparInbox (s : State) (e ev n : Nat) : (hitEave s e ev n).sparInbox = s.sparInbox := rfl
@[simp] theorem hitEave_reads (s : State) (e ev n : Nat) : (hitEave s e ev n).reads = s.reads := rfl
@[simp] theorem hitEave_acks (s : State) (e ev n : Nat) : (hitEave s e ev n).acks = s.acks := rfl
@[simp] theorem hitEave_ridgeAsked (s : State) (e ev n : Nat) : (hitEave s e ev n).ridgeAsked = s.ridgeAsked := rfl
@[simp] theorem hitEave_ridgeGot (s : State) (e ev n : Nat) : (hitEave s e ev n).ridgeGot = s.ridgeGot := rfl
@[simp] theorem hitEave_now (s : State) (e ev n : Nat) : (hitEave s e ev n).now = s.now := rfl
@[simp] theorem hitEave_free (s : State) (e ev n : Nat) : (hitEave s e ev n).free = s.free := rfl
@[simp] theorem hitEave_pending (s : State) (e ev n : Nat) : (hitEave s e ev n).pending = s.pending := rfl

/-! ### hitPort -/

@[simp] theorem hitPort_grade (s : State) (l ev n : Nat) : (hitPort s l ev n).grade = s.grade := rfl
@[simp] theorem hitPort_crs (s : State) (l ev n : Nat) : (hitPort s l ev n).crs = s.crs := rfl
@[simp] theorem hitPort_rft (s : State) (l ev n : Nat) : (hitPort s l ev n).rft = s.rft := rfl
@[simp] theorem hitPort_trs (s : State) (l ev n : Nat) : (hitPort s l ev n).trs = s.trs := rfl
@[simp] theorem hitPort_eav (s : State) (l ev n : Nat) : (hitPort s l ev n).eav = s.eav := rfl
@[simp] theorem hitPort_cxl (s : State) (l ev n : Nat) : (hitPort s l ev n).cxl = s.cxl := rfl
@[simp] theorem hitPort_tier (s : State) (l ev n : Nat) : (hitPort s l ev n).tier = s.tier := rfl
@[simp] theorem hitPort_saf (s : State) (l ev n : Nat) : (hitPort s l ev n).saf = s.saf := rfl
@[simp] theorem hitPort_pwr (s : State) (l ev n : Nat) : (hitPort s l ev n).pwr = s.pwr := rfl
@[simp] theorem hitPort_sec (s : State) (l ev n : Nat) : (hitPort s l ev n).sec = s.sec := rfl
@[simp] theorem hitPort_cnt (s : State) (l ev n : Nat) : (hitPort s l ev n).cnt = s.cnt := rfl
@[simp] theorem hitPort_pkg (s : State) (l ev n : Nat) : (hitPort s l ev n).pkg = s.pkg := rfl
@[simp] theorem hitPort_prog (s : State) (l ev n : Nat) : (hitPort s l ev n).prog = s.prog := rfl
@[simp] theorem hitPort_progNext (s : State) (l ev n : Nat) : (hitPort s l ev n).progNext = s.progNext := rfl
@[simp] theorem hitPort_upd (s : State) (l ev n : Nat) : (hitPort s l ev n).upd = s.upd := rfl
@[simp] theorem hitPort_hst (s : State) (l ev n : Nat) : (hitPort s l ev n).hst = s.hst := rfl
@[simp] theorem hitPort_enabled (s : State) (l ev n : Nat) : (hitPort s l ev n).enabled = s.enabled := rfl
@[simp] theorem hitPort_fenced (s : State) (l ev n : Nat) : (hitPort s l ev n).fenced = s.fenced := rfl
@[simp] theorem hitPort_sparInbox (s : State) (l ev n : Nat) : (hitPort s l ev n).sparInbox = s.sparInbox := rfl
@[simp] theorem hitPort_reads (s : State) (l ev n : Nat) : (hitPort s l ev n).reads = s.reads := rfl
@[simp] theorem hitPort_acks (s : State) (l ev n : Nat) : (hitPort s l ev n).acks = s.acks := rfl
@[simp] theorem hitPort_ridgeAsked (s : State) (l ev n : Nat) : (hitPort s l ev n).ridgeAsked = s.ridgeAsked := rfl
@[simp] theorem hitPort_ridgeGot (s : State) (l ev n : Nat) : (hitPort s l ev n).ridgeGot = s.ridgeGot := rfl
@[simp] theorem hitPort_now (s : State) (l ev n : Nat) : (hitPort s l ev n).now = s.now := rfl
@[simp] theorem hitPort_free (s : State) (l ev n : Nat) : (hitPort s l ev n).free = s.free := rfl
@[simp] theorem hitPort_pending (s : State) (l ev n : Nat) : (hitPort s l ev n).pending = s.pending := rfl

/-! ### hitCxl -/

@[simp] theorem hitCxl_grade (s : State) (c ev n : Nat) : (hitCxl s c ev n).grade = s.grade := rfl
@[simp] theorem hitCxl_crs (s : State) (c ev n : Nat) : (hitCxl s c ev n).crs = s.crs := rfl
@[simp] theorem hitCxl_rft (s : State) (c ev n : Nat) : (hitCxl s c ev n).rft = s.rft := rfl
@[simp] theorem hitCxl_trs (s : State) (c ev n : Nat) : (hitCxl s c ev n).trs = s.trs := rfl
@[simp] theorem hitCxl_eav (s : State) (c ev n : Nat) : (hitCxl s c ev n).eav = s.eav := rfl
@[simp] theorem hitCxl_tier (s : State) (c ev n : Nat) : (hitCxl s c ev n).tier = s.tier := rfl
@[simp] theorem hitCxl_saf (s : State) (c ev n : Nat) : (hitCxl s c ev n).saf = s.saf := rfl
@[simp] theorem hitCxl_pwr (s : State) (c ev n : Nat) : (hitCxl s c ev n).pwr = s.pwr := rfl
@[simp] theorem hitCxl_sec (s : State) (c ev n : Nat) : (hitCxl s c ev n).sec = s.sec := rfl
@[simp] theorem hitCxl_cnt (s : State) (c ev n : Nat) : (hitCxl s c ev n).cnt = s.cnt := rfl
@[simp] theorem hitCxl_pkg (s : State) (c ev n : Nat) : (hitCxl s c ev n).pkg = s.pkg := rfl
@[simp] theorem hitCxl_prog (s : State) (c ev n : Nat) : (hitCxl s c ev n).prog = s.prog := rfl
@[simp] theorem hitCxl_progNext (s : State) (c ev n : Nat) : (hitCxl s c ev n).progNext = s.progNext := rfl
@[simp] theorem hitCxl_upd (s : State) (c ev n : Nat) : (hitCxl s c ev n).upd = s.upd := rfl
@[simp] theorem hitCxl_lnk (s : State) (c ev n : Nat) : (hitCxl s c ev n).lnk = s.lnk := rfl
@[simp] theorem hitCxl_hst (s : State) (c ev n : Nat) : (hitCxl s c ev n).hst = s.hst := rfl
@[simp] theorem hitCxl_enabled (s : State) (c ev n : Nat) : (hitCxl s c ev n).enabled = s.enabled := rfl
@[simp] theorem hitCxl_fenced (s : State) (c ev n : Nat) : (hitCxl s c ev n).fenced = s.fenced := rfl
@[simp] theorem hitCxl_sparInbox (s : State) (c ev n : Nat) : (hitCxl s c ev n).sparInbox = s.sparInbox := rfl
@[simp] theorem hitCxl_reads (s : State) (c ev n : Nat) : (hitCxl s c ev n).reads = s.reads := rfl
@[simp] theorem hitCxl_acks (s : State) (c ev n : Nat) : (hitCxl s c ev n).acks = s.acks := rfl
@[simp] theorem hitCxl_ridgeAsked (s : State) (c ev n : Nat) : (hitCxl s c ev n).ridgeAsked = s.ridgeAsked := rfl
@[simp] theorem hitCxl_ridgeGot (s : State) (c ev n : Nat) : (hitCxl s c ev n).ridgeGot = s.ridgeGot := rfl
@[simp] theorem hitCxl_now (s : State) (c ev n : Nat) : (hitCxl s c ev n).now = s.now := rfl
@[simp] theorem hitCxl_free (s : State) (c ev n : Nat) : (hitCxl s c ev n).free = s.free := rfl
@[simp] theorem hitCxl_pending (s : State) (c ev n : Nat) : (hitCxl s c ev n).pending = s.pending := rfl

/-! ### hitHost -/

@[simp] theorem hitHost_grade (s : State) (ev n : Nat) : (hitHost s ev n).grade = s.grade := rfl
@[simp] theorem hitHost_crs (s : State) (ev n : Nat) : (hitHost s ev n).crs = s.crs := rfl
@[simp] theorem hitHost_rft (s : State) (ev n : Nat) : (hitHost s ev n).rft = s.rft := rfl
@[simp] theorem hitHost_trs (s : State) (ev n : Nat) : (hitHost s ev n).trs = s.trs := rfl
@[simp] theorem hitHost_eav (s : State) (ev n : Nat) : (hitHost s ev n).eav = s.eav := rfl
@[simp] theorem hitHost_cxl (s : State) (ev n : Nat) : (hitHost s ev n).cxl = s.cxl := rfl
@[simp] theorem hitHost_tier (s : State) (ev n : Nat) : (hitHost s ev n).tier = s.tier := rfl
@[simp] theorem hitHost_saf (s : State) (ev n : Nat) : (hitHost s ev n).saf = s.saf := rfl
@[simp] theorem hitHost_pwr (s : State) (ev n : Nat) : (hitHost s ev n).pwr = s.pwr := rfl
@[simp] theorem hitHost_sec (s : State) (ev n : Nat) : (hitHost s ev n).sec = s.sec := rfl
@[simp] theorem hitHost_cnt (s : State) (ev n : Nat) : (hitHost s ev n).cnt = s.cnt := rfl
@[simp] theorem hitHost_pkg (s : State) (ev n : Nat) : (hitHost s ev n).pkg = s.pkg := rfl
@[simp] theorem hitHost_prog (s : State) (ev n : Nat) : (hitHost s ev n).prog = s.prog := rfl
@[simp] theorem hitHost_progNext (s : State) (ev n : Nat) : (hitHost s ev n).progNext = s.progNext := rfl
@[simp] theorem hitHost_upd (s : State) (ev n : Nat) : (hitHost s ev n).upd = s.upd := rfl
@[simp] theorem hitHost_lnk (s : State) (ev n : Nat) : (hitHost s ev n).lnk = s.lnk := rfl
@[simp] theorem hitHost_enabled (s : State) (ev n : Nat) : (hitHost s ev n).enabled = s.enabled := rfl
@[simp] theorem hitHost_fenced (s : State) (ev n : Nat) : (hitHost s ev n).fenced = s.fenced := rfl
@[simp] theorem hitHost_sparInbox (s : State) (ev n : Nat) : (hitHost s ev n).sparInbox = s.sparInbox := rfl
@[simp] theorem hitHost_reads (s : State) (ev n : Nat) : (hitHost s ev n).reads = s.reads := rfl
@[simp] theorem hitHost_acks (s : State) (ev n : Nat) : (hitHost s ev n).acks = s.acks := rfl
@[simp] theorem hitHost_ridgeAsked (s : State) (ev n : Nat) : (hitHost s ev n).ridgeAsked = s.ridgeAsked := rfl
@[simp] theorem hitHost_ridgeGot (s : State) (ev n : Nat) : (hitHost s ev n).ridgeGot = s.ridgeGot := rfl
@[simp] theorem hitHost_now (s : State) (ev n : Nat) : (hitHost s ev n).now = s.now := rfl
@[simp] theorem hitHost_free (s : State) (ev n : Nat) : (hitHost s ev n).free = s.free := rfl
@[simp] theorem hitHost_pending (s : State) (ev n : Nat) : (hitHost s ev n).pending = s.pending := rfl

/-! ### sendMsix -/

@[simp] theorem sendMsix_grade (s : State) (v : BitVec 6) : (sendMsix s v).grade = s.grade := by
  unfold sendMsix
  (repeat' split) <;> rfl
@[simp] theorem sendMsix_crs (s : State) (v : BitVec 6) : (sendMsix s v).crs = s.crs := by
  unfold sendMsix
  (repeat' split) <;> rfl
@[simp] theorem sendMsix_rft (s : State) (v : BitVec 6) : (sendMsix s v).rft = s.rft := by
  unfold sendMsix
  (repeat' split) <;> rfl
@[simp] theorem sendMsix_trs (s : State) (v : BitVec 6) : (sendMsix s v).trs = s.trs := by
  unfold sendMsix
  (repeat' split) <;> rfl
@[simp] theorem sendMsix_eav (s : State) (v : BitVec 6) : (sendMsix s v).eav = s.eav := by
  unfold sendMsix
  (repeat' split) <;> rfl
@[simp] theorem sendMsix_cxl (s : State) (v : BitVec 6) : (sendMsix s v).cxl = s.cxl := by
  unfold sendMsix
  (repeat' split) <;> rfl
@[simp] theorem sendMsix_tier (s : State) (v : BitVec 6) : (sendMsix s v).tier = s.tier := by
  unfold sendMsix
  (repeat' split) <;> rfl
@[simp] theorem sendMsix_saf (s : State) (v : BitVec 6) : (sendMsix s v).saf = s.saf := by
  unfold sendMsix
  (repeat' split) <;> rfl
@[simp] theorem sendMsix_pwr (s : State) (v : BitVec 6) : (sendMsix s v).pwr = s.pwr := by
  unfold sendMsix
  (repeat' split) <;> rfl
@[simp] theorem sendMsix_sec (s : State) (v : BitVec 6) : (sendMsix s v).sec = s.sec := by
  unfold sendMsix
  (repeat' split) <;> rfl
@[simp] theorem sendMsix_cnt (s : State) (v : BitVec 6) : (sendMsix s v).cnt = s.cnt := by
  unfold sendMsix
  (repeat' split) <;> rfl
@[simp] theorem sendMsix_pkg (s : State) (v : BitVec 6) : (sendMsix s v).pkg = s.pkg := by
  unfold sendMsix
  (repeat' split) <;> rfl
@[simp] theorem sendMsix_prog (s : State) (v : BitVec 6) : (sendMsix s v).prog = s.prog := by
  unfold sendMsix
  (repeat' split) <;> rfl
@[simp] theorem sendMsix_progNext (s : State) (v : BitVec 6) : (sendMsix s v).progNext = s.progNext := by
  unfold sendMsix
  (repeat' split) <;> rfl
@[simp] theorem sendMsix_upd (s : State) (v : BitVec 6) : (sendMsix s v).upd = s.upd := by
  unfold sendMsix
  (repeat' split) <;> rfl
@[simp] theorem sendMsix_lnk (s : State) (v : BitVec 6) : (sendMsix s v).lnk = s.lnk := by
  unfold sendMsix
  (repeat' split) <;> rfl
@[simp] theorem sendMsix_enabled (s : State) (v : BitVec 6) : (sendMsix s v).enabled = s.enabled := by
  unfold sendMsix
  (repeat' split) <;> rfl
@[simp] theorem sendMsix_fenced (s : State) (v : BitVec 6) : (sendMsix s v).fenced = s.fenced := by
  unfold sendMsix
  (repeat' split) <;> rfl
@[simp] theorem sendMsix_sparInbox (s : State) (v : BitVec 6) : (sendMsix s v).sparInbox = s.sparInbox := by
  unfold sendMsix
  (repeat' split) <;> rfl
@[simp] theorem sendMsix_reads (s : State) (v : BitVec 6) : (sendMsix s v).reads = s.reads := by
  unfold sendMsix
  (repeat' split) <;> rfl
@[simp] theorem sendMsix_acks (s : State) (v : BitVec 6) : (sendMsix s v).acks = s.acks := by
  unfold sendMsix
  (repeat' split) <;> rfl
@[simp] theorem sendMsix_ridgeAsked (s : State) (v : BitVec 6) : (sendMsix s v).ridgeAsked = s.ridgeAsked := by
  unfold sendMsix
  (repeat' split) <;> rfl
@[simp] theorem sendMsix_ridgeGot (s : State) (v : BitVec 6) : (sendMsix s v).ridgeGot = s.ridgeGot := by
  unfold sendMsix
  (repeat' split) <;> rfl
@[simp] theorem sendMsix_now (s : State) (v : BitVec 6) : (sendMsix s v).now = s.now := by
  unfold sendMsix
  (repeat' split) <;> rfl
@[simp] theorem sendMsix_free (s : State) (v : BitVec 6) : (sendMsix s v).free = s.free := by
  unfold sendMsix
  (repeat' split) <;> rfl
@[simp] theorem sendMsix_pending (s : State) (v : BitVec 6) : (sendMsix s v).pending = s.pending := by
  unfold sendMsix
  (repeat' split) <;> rfl

/-! ### gutterPut -/

@[simp] theorem gutterPut_grade (s : State) (g : GutterRec) : (gutterPut s g).grade = s.grade := by
  unfold gutterPut; split <;> rfl
@[simp] theorem gutterPut_crs (s : State) (g : GutterRec) : (gutterPut s g).crs = s.crs := by
  unfold gutterPut; split <;> rfl
@[simp] theorem gutterPut_rft (s : State) (g : GutterRec) : (gutterPut s g).rft = s.rft := by
  unfold gutterPut; split <;> rfl
@[simp] theorem gutterPut_trs (s : State) (g : GutterRec) : (gutterPut s g).trs = s.trs := by
  unfold gutterPut; split <;> rfl
@[simp] theorem gutterPut_eav (s : State) (g : GutterRec) : (gutterPut s g).eav = s.eav := by
  unfold gutterPut; split <;> rfl
@[simp] theorem gutterPut_cxl (s : State) (g : GutterRec) : (gutterPut s g).cxl = s.cxl := by
  unfold gutterPut; split <;> rfl
@[simp] theorem gutterPut_tier (s : State) (g : GutterRec) : (gutterPut s g).tier = s.tier := by
  unfold gutterPut; split <;> rfl
@[simp] theorem gutterPut_pwr (s : State) (g : GutterRec) : (gutterPut s g).pwr = s.pwr := by
  unfold gutterPut; split <;> rfl
@[simp] theorem gutterPut_sec (s : State) (g : GutterRec) : (gutterPut s g).sec = s.sec := by
  unfold gutterPut; split <;> rfl
@[simp] theorem gutterPut_cnt (s : State) (g : GutterRec) : (gutterPut s g).cnt = s.cnt := by
  unfold gutterPut; split <;> rfl
@[simp] theorem gutterPut_pkg (s : State) (g : GutterRec) : (gutterPut s g).pkg = s.pkg := by
  unfold gutterPut; split <;> rfl
@[simp] theorem gutterPut_prog (s : State) (g : GutterRec) : (gutterPut s g).prog = s.prog := by
  unfold gutterPut; split <;> rfl
@[simp] theorem gutterPut_progNext (s : State) (g : GutterRec) : (gutterPut s g).progNext = s.progNext := by
  unfold gutterPut; split <;> rfl
@[simp] theorem gutterPut_upd (s : State) (g : GutterRec) : (gutterPut s g).upd = s.upd := by
  unfold gutterPut; split <;> rfl
@[simp] theorem gutterPut_lnk (s : State) (g : GutterRec) : (gutterPut s g).lnk = s.lnk := by
  unfold gutterPut; split <;> rfl
@[simp] theorem gutterPut_hst (s : State) (g : GutterRec) : (gutterPut s g).hst = s.hst := by
  unfold gutterPut; split <;> rfl
@[simp] theorem gutterPut_enabled (s : State) (g : GutterRec) : (gutterPut s g).enabled = s.enabled := by
  unfold gutterPut; split <;> rfl
@[simp] theorem gutterPut_fenced (s : State) (g : GutterRec) : (gutterPut s g).fenced = s.fenced := by
  unfold gutterPut; split <;> rfl
@[simp] theorem gutterPut_sparInbox (s : State) (g : GutterRec) : (gutterPut s g).sparInbox = s.sparInbox := by
  unfold gutterPut; split <;> rfl
@[simp] theorem gutterPut_reads (s : State) (g : GutterRec) : (gutterPut s g).reads = s.reads := by
  unfold gutterPut; split <;> rfl
@[simp] theorem gutterPut_acks (s : State) (g : GutterRec) : (gutterPut s g).acks = s.acks := by
  unfold gutterPut; split <;> rfl
@[simp] theorem gutterPut_ridgeAsked (s : State) (g : GutterRec) : (gutterPut s g).ridgeAsked = s.ridgeAsked := by
  unfold gutterPut; split <;> rfl
@[simp] theorem gutterPut_ridgeGot (s : State) (g : GutterRec) : (gutterPut s g).ridgeGot = s.ridgeGot := by
  unfold gutterPut; split <;> rfl
@[simp] theorem gutterPut_now (s : State) (g : GutterRec) : (gutterPut s g).now = s.now := by
  unfold gutterPut; split <;> rfl
@[simp] theorem gutterPut_free (s : State) (g : GutterRec) : (gutterPut s g).free = s.free := by
  unfold gutterPut; split <;> rfl
@[simp] theorem gutterPut_pending (s : State) (g : GutterRec) : (gutterPut s g).pending = s.pending := by
  unfold gutterPut; split <;> rfl

/-! ### event -/

@[simp] theorem event_grade (s : State) (u : UnitId) (code : Byte) (w1 w2 : W32) : (event s u code w1 w2).grade = s.grade := by simp [event]
@[simp] theorem event_crs (s : State) (u : UnitId) (code : Byte) (w1 w2 : W32) : (event s u code w1 w2).crs = s.crs := by simp [event]
@[simp] theorem event_rft (s : State) (u : UnitId) (code : Byte) (w1 w2 : W32) : (event s u code w1 w2).rft = s.rft := by simp [event]
@[simp] theorem event_trs (s : State) (u : UnitId) (code : Byte) (w1 w2 : W32) : (event s u code w1 w2).trs = s.trs := by simp [event]
@[simp] theorem event_eav (s : State) (u : UnitId) (code : Byte) (w1 w2 : W32) : (event s u code w1 w2).eav = s.eav := by simp [event]
@[simp] theorem event_cxl (s : State) (u : UnitId) (code : Byte) (w1 w2 : W32) : (event s u code w1 w2).cxl = s.cxl := by simp [event]
@[simp] theorem event_tier (s : State) (u : UnitId) (code : Byte) (w1 w2 : W32) : (event s u code w1 w2).tier = s.tier := by simp [event]
@[simp] theorem event_pwr (s : State) (u : UnitId) (code : Byte) (w1 w2 : W32) : (event s u code w1 w2).pwr = s.pwr := by simp [event]
@[simp] theorem event_sec (s : State) (u : UnitId) (code : Byte) (w1 w2 : W32) : (event s u code w1 w2).sec = s.sec := by simp [event]
@[simp] theorem event_cnt (s : State) (u : UnitId) (code : Byte) (w1 w2 : W32) : (event s u code w1 w2).cnt = s.cnt := by simp [event]
@[simp] theorem event_pkg (s : State) (u : UnitId) (code : Byte) (w1 w2 : W32) : (event s u code w1 w2).pkg = s.pkg := by simp [event]
@[simp] theorem event_prog (s : State) (u : UnitId) (code : Byte) (w1 w2 : W32) : (event s u code w1 w2).prog = s.prog := by simp [event]
@[simp] theorem event_progNext (s : State) (u : UnitId) (code : Byte) (w1 w2 : W32) : (event s u code w1 w2).progNext = s.progNext := by simp [event]
@[simp] theorem event_upd (s : State) (u : UnitId) (code : Byte) (w1 w2 : W32) : (event s u code w1 w2).upd = s.upd := by simp [event]
@[simp] theorem event_lnk (s : State) (u : UnitId) (code : Byte) (w1 w2 : W32) : (event s u code w1 w2).lnk = s.lnk := by simp [event]
@[simp] theorem event_hst (s : State) (u : UnitId) (code : Byte) (w1 w2 : W32) : (event s u code w1 w2).hst = s.hst := by simp [event]
@[simp] theorem event_enabled (s : State) (u : UnitId) (code : Byte) (w1 w2 : W32) : (event s u code w1 w2).enabled = s.enabled := by simp [event]
@[simp] theorem event_fenced (s : State) (u : UnitId) (code : Byte) (w1 w2 : W32) : (event s u code w1 w2).fenced = s.fenced := by simp [event]
@[simp] theorem event_sparInbox (s : State) (u : UnitId) (code : Byte) (w1 w2 : W32) : (event s u code w1 w2).sparInbox = s.sparInbox := by simp [event]
@[simp] theorem event_reads (s : State) (u : UnitId) (code : Byte) (w1 w2 : W32) : (event s u code w1 w2).reads = s.reads := by simp [event]
@[simp] theorem event_acks (s : State) (u : UnitId) (code : Byte) (w1 w2 : W32) : (event s u code w1 w2).acks = s.acks := by simp [event]
@[simp] theorem event_ridgeAsked (s : State) (u : UnitId) (code : Byte) (w1 w2 : W32) : (event s u code w1 w2).ridgeAsked = s.ridgeAsked := by simp [event]
@[simp] theorem event_ridgeGot (s : State) (u : UnitId) (code : Byte) (w1 w2 : W32) : (event s u code w1 w2).ridgeGot = s.ridgeGot := by simp [event]
@[simp] theorem event_now (s : State) (u : UnitId) (code : Byte) (w1 w2 : W32) : (event s u code w1 w2).now = s.now := by simp [event]
@[simp] theorem event_free (s : State) (u : UnitId) (code : Byte) (w1 w2 : W32) : (event s u code w1 w2).free = s.free := by simp [event]
@[simp] theorem event_pending (s : State) (u : UnitId) (code : Byte) (w1 w2 : W32) : (event s u code w1 w2).pending = s.pending := by simp [event]

/-! ### sendSpar -/

@[simp] theorem sendSpar_grade (s : State) (u : UnitId) (g : W16) (c : SparId) (op : SparOp) (t : W16) (v : W32) : (sendSpar s u g c op t v).grade = s.grade := by
  unfold sendSpar; dsimp only; split <;> simp
@[simp] theorem sendSpar_crs (s : State) (u : UnitId) (g : W16) (c : SparId) (op : SparOp) (t : W16) (v : W32) : (sendSpar s u g c op t v).crs = s.crs := by
  unfold sendSpar; dsimp only; split <;> simp
@[simp] theorem sendSpar_eav (s : State) (u : UnitId) (g : W16) (c : SparId) (op : SparOp) (t : W16) (v : W32) : (sendSpar s u g c op t v).eav = s.eav := by
  unfold sendSpar; dsimp only; split <;> simp
@[simp] theorem sendSpar_cxl (s : State) (u : UnitId) (g : W16) (c : SparId) (op : SparOp) (t : W16) (v : W32) : (sendSpar s u g c op t v).cxl = s.cxl := by
  unfold sendSpar; dsimp only; split <;> simp
@[simp] theorem sendSpar_tier (s : State) (u : UnitId) (g : W16) (c : SparId) (op : SparOp) (t : W16) (v : W32) : (sendSpar s u g c op t v).tier = s.tier := by
  unfold sendSpar; dsimp only; split <;> simp
@[simp] theorem sendSpar_saf (s : State) (u : UnitId) (g : W16) (c : SparId) (op : SparOp) (t : W16) (v : W32) : (sendSpar s u g c op t v).saf = s.saf := by
  unfold sendSpar; dsimp only; split <;> simp
@[simp] theorem sendSpar_pwr (s : State) (u : UnitId) (g : W16) (c : SparId) (op : SparOp) (t : W16) (v : W32) : (sendSpar s u g c op t v).pwr = s.pwr := by
  unfold sendSpar; dsimp only; split <;> simp
@[simp] theorem sendSpar_sec (s : State) (u : UnitId) (g : W16) (c : SparId) (op : SparOp) (t : W16) (v : W32) : (sendSpar s u g c op t v).sec = s.sec := by
  unfold sendSpar; dsimp only; split <;> simp
@[simp] theorem sendSpar_cnt (s : State) (u : UnitId) (g : W16) (c : SparId) (op : SparOp) (t : W16) (v : W32) : (sendSpar s u g c op t v).cnt = s.cnt := by
  unfold sendSpar; dsimp only; split <;> simp
@[simp] theorem sendSpar_pkg (s : State) (u : UnitId) (g : W16) (c : SparId) (op : SparOp) (t : W16) (v : W32) : (sendSpar s u g c op t v).pkg = s.pkg := by
  unfold sendSpar; dsimp only; split <;> simp
@[simp] theorem sendSpar_prog (s : State) (u : UnitId) (g : W16) (c : SparId) (op : SparOp) (t : W16) (v : W32) : (sendSpar s u g c op t v).prog = s.prog := by
  unfold sendSpar; dsimp only; split <;> simp
@[simp] theorem sendSpar_progNext (s : State) (u : UnitId) (g : W16) (c : SparId) (op : SparOp) (t : W16) (v : W32) : (sendSpar s u g c op t v).progNext = s.progNext := by
  unfold sendSpar; dsimp only; split <;> simp
@[simp] theorem sendSpar_upd (s : State) (u : UnitId) (g : W16) (c : SparId) (op : SparOp) (t : W16) (v : W32) : (sendSpar s u g c op t v).upd = s.upd := by
  unfold sendSpar; dsimp only; split <;> simp
@[simp] theorem sendSpar_lnk (s : State) (u : UnitId) (g : W16) (c : SparId) (op : SparOp) (t : W16) (v : W32) : (sendSpar s u g c op t v).lnk = s.lnk := by
  unfold sendSpar; dsimp only; split <;> simp
@[simp] theorem sendSpar_hst (s : State) (u : UnitId) (g : W16) (c : SparId) (op : SparOp) (t : W16) (v : W32) : (sendSpar s u g c op t v).hst = s.hst := by
  unfold sendSpar; dsimp only; split <;> simp
@[simp] theorem sendSpar_enabled (s : State) (u : UnitId) (g : W16) (c : SparId) (op : SparOp) (t : W16) (v : W32) : (sendSpar s u g c op t v).enabled = s.enabled := by
  unfold sendSpar; dsimp only; split <;> simp
@[simp] theorem sendSpar_fenced (s : State) (u : UnitId) (g : W16) (c : SparId) (op : SparOp) (t : W16) (v : W32) : (sendSpar s u g c op t v).fenced = s.fenced := by
  unfold sendSpar; dsimp only; split <;> simp
@[simp] theorem sendSpar_sparInbox (s : State) (u : UnitId) (g : W16) (c : SparId) (op : SparOp) (t : W16) (v : W32) : (sendSpar s u g c op t v).sparInbox = s.sparInbox := by
  unfold sendSpar; dsimp only; split <;> simp
@[simp] theorem sendSpar_reads (s : State) (u : UnitId) (g : W16) (c : SparId) (op : SparOp) (t : W16) (v : W32) : (sendSpar s u g c op t v).reads = s.reads := by
  unfold sendSpar; dsimp only; split <;> simp
@[simp] theorem sendSpar_acks (s : State) (u : UnitId) (g : W16) (c : SparId) (op : SparOp) (t : W16) (v : W32) : (sendSpar s u g c op t v).acks = s.acks := by
  unfold sendSpar; dsimp only; split <;> simp
@[simp] theorem sendSpar_ridgeAsked (s : State) (u : UnitId) (g : W16) (c : SparId) (op : SparOp) (t : W16) (v : W32) : (sendSpar s u g c op t v).ridgeAsked = s.ridgeAsked := by
  unfold sendSpar; dsimp only; split <;> simp
@[simp] theorem sendSpar_ridgeGot (s : State) (u : UnitId) (g : W16) (c : SparId) (op : SparOp) (t : W16) (v : W32) : (sendSpar s u g c op t v).ridgeGot = s.ridgeGot := by
  unfold sendSpar; dsimp only; split <;> simp
@[simp] theorem sendSpar_now (s : State) (u : UnitId) (g : W16) (c : SparId) (op : SparOp) (t : W16) (v : W32) : (sendSpar s u g c op t v).now = s.now := by
  unfold sendSpar; dsimp only; split <;> simp
@[simp] theorem sendSpar_free (s : State) (u : UnitId) (g : W16) (c : SparId) (op : SparOp) (t : W16) (v : W32) : (sendSpar s u g c op t v).free = s.free := by
  unfold sendSpar; dsimp only; split <;> simp
@[simp] theorem sendSpar_pending (s : State) (u : UnitId) (g : W16) (c : SparId) (op : SparOp) (t : W16) (v : W32) : (sendSpar s u g c op t v).pending = s.pending := by
  unfold sendSpar; dsimp only; split <;> simp

/-! ### signalDone -/

@[simp] theorem signalDone_grade (s : State) (u : UnitId) (g : W16) (c : SparId) : (signalDone s u g c).grade = s.grade := by
  unfold signalDone; split <;> simp
@[simp] theorem signalDone_crs (s : State) (u : UnitId) (g : W16) (c : SparId) : (signalDone s u g c).crs = s.crs := by
  unfold signalDone; split <;> simp
@[simp] theorem signalDone_eav (s : State) (u : UnitId) (g : W16) (c : SparId) : (signalDone s u g c).eav = s.eav := by
  unfold signalDone; split <;> simp
@[simp] theorem signalDone_cxl (s : State) (u : UnitId) (g : W16) (c : SparId) : (signalDone s u g c).cxl = s.cxl := by
  unfold signalDone; split <;> simp
@[simp] theorem signalDone_tier (s : State) (u : UnitId) (g : W16) (c : SparId) : (signalDone s u g c).tier = s.tier := by
  unfold signalDone; split <;> simp
@[simp] theorem signalDone_saf (s : State) (u : UnitId) (g : W16) (c : SparId) : (signalDone s u g c).saf = s.saf := by
  unfold signalDone; split <;> simp
@[simp] theorem signalDone_pwr (s : State) (u : UnitId) (g : W16) (c : SparId) : (signalDone s u g c).pwr = s.pwr := by
  unfold signalDone; split <;> simp
@[simp] theorem signalDone_sec (s : State) (u : UnitId) (g : W16) (c : SparId) : (signalDone s u g c).sec = s.sec := by
  unfold signalDone; split <;> simp
@[simp] theorem signalDone_cnt (s : State) (u : UnitId) (g : W16) (c : SparId) : (signalDone s u g c).cnt = s.cnt := by
  unfold signalDone; split <;> simp
@[simp] theorem signalDone_pkg (s : State) (u : UnitId) (g : W16) (c : SparId) : (signalDone s u g c).pkg = s.pkg := by
  unfold signalDone; split <;> simp
@[simp] theorem signalDone_prog (s : State) (u : UnitId) (g : W16) (c : SparId) : (signalDone s u g c).prog = s.prog := by
  unfold signalDone; split <;> simp
@[simp] theorem signalDone_progNext (s : State) (u : UnitId) (g : W16) (c : SparId) : (signalDone s u g c).progNext = s.progNext := by
  unfold signalDone; split <;> simp
@[simp] theorem signalDone_upd (s : State) (u : UnitId) (g : W16) (c : SparId) : (signalDone s u g c).upd = s.upd := by
  unfold signalDone; split <;> simp
@[simp] theorem signalDone_lnk (s : State) (u : UnitId) (g : W16) (c : SparId) : (signalDone s u g c).lnk = s.lnk := by
  unfold signalDone; split <;> simp
@[simp] theorem signalDone_hst (s : State) (u : UnitId) (g : W16) (c : SparId) : (signalDone s u g c).hst = s.hst := by
  unfold signalDone; split <;> simp
@[simp] theorem signalDone_enabled (s : State) (u : UnitId) (g : W16) (c : SparId) : (signalDone s u g c).enabled = s.enabled := by
  unfold signalDone; split <;> simp
@[simp] theorem signalDone_fenced (s : State) (u : UnitId) (g : W16) (c : SparId) : (signalDone s u g c).fenced = s.fenced := by
  unfold signalDone; split <;> simp
@[simp] theorem signalDone_sparInbox (s : State) (u : UnitId) (g : W16) (c : SparId) : (signalDone s u g c).sparInbox = s.sparInbox := by
  unfold signalDone; split <;> simp
@[simp] theorem signalDone_reads (s : State) (u : UnitId) (g : W16) (c : SparId) : (signalDone s u g c).reads = s.reads := by
  unfold signalDone; split <;> simp
@[simp] theorem signalDone_acks (s : State) (u : UnitId) (g : W16) (c : SparId) : (signalDone s u g c).acks = s.acks := by
  unfold signalDone; split <;> simp
@[simp] theorem signalDone_ridgeAsked (s : State) (u : UnitId) (g : W16) (c : SparId) : (signalDone s u g c).ridgeAsked = s.ridgeAsked := by
  unfold signalDone; split <;> simp
@[simp] theorem signalDone_ridgeGot (s : State) (u : UnitId) (g : W16) (c : SparId) : (signalDone s u g c).ridgeGot = s.ridgeGot := by
  unfold signalDone; split <;> simp
@[simp] theorem signalDone_now (s : State) (u : UnitId) (g : W16) (c : SparId) : (signalDone s u g c).now = s.now := by
  unfold signalDone; split <;> simp
@[simp] theorem signalDone_free (s : State) (u : UnitId) (g : W16) (c : SparId) : (signalDone s u g c).free = s.free := by
  unfold signalDone; split <;> simp
@[simp] theorem signalDone_pending (s : State) (u : UnitId) (g : W16) (c : SparId) : (signalDone s u g c).pending = s.pending := by
  unfold signalDone; split <;> simp

/-! ### setEave -/

@[simp] theorem setEave_grade (s : State) (e : Nat) (v : Eave) : (setEave s e v).grade = s.grade := rfl
@[simp] theorem setEave_crs (s : State) (e : Nat) (v : Eave) : (setEave s e v).crs = s.crs := rfl
@[simp] theorem setEave_rft (s : State) (e : Nat) (v : Eave) : (setEave s e v).rft = s.rft := rfl
@[simp] theorem setEave_trs (s : State) (e : Nat) (v : Eave) : (setEave s e v).trs = s.trs := rfl
@[simp] theorem setEave_eav (s : State) (e : Nat) (v : Eave) : (setEave s e v).eav = s.eav.set e v := rfl
@[simp] theorem setEave_cxl (s : State) (e : Nat) (v : Eave) : (setEave s e v).cxl = s.cxl := rfl
@[simp] theorem setEave_tier (s : State) (e : Nat) (v : Eave) : (setEave s e v).tier = s.tier := rfl
@[simp] theorem setEave_saf (s : State) (e : Nat) (v : Eave) : (setEave s e v).saf = s.saf := rfl
@[simp] theorem setEave_pwr (s : State) (e : Nat) (v : Eave) : (setEave s e v).pwr = s.pwr := rfl
@[simp] theorem setEave_sec (s : State) (e : Nat) (v : Eave) : (setEave s e v).sec = s.sec := rfl
@[simp] theorem setEave_cnt (s : State) (e : Nat) (v : Eave) : (setEave s e v).cnt = s.cnt := rfl
@[simp] theorem setEave_pkg (s : State) (e : Nat) (v : Eave) : (setEave s e v).pkg = s.pkg := rfl
@[simp] theorem setEave_prog (s : State) (e : Nat) (v : Eave) : (setEave s e v).prog = s.prog := rfl
@[simp] theorem setEave_progNext (s : State) (e : Nat) (v : Eave) : (setEave s e v).progNext = s.progNext := rfl
@[simp] theorem setEave_upd (s : State) (e : Nat) (v : Eave) : (setEave s e v).upd = s.upd := rfl
@[simp] theorem setEave_lnk (s : State) (e : Nat) (v : Eave) : (setEave s e v).lnk = s.lnk := rfl
@[simp] theorem setEave_hst (s : State) (e : Nat) (v : Eave) : (setEave s e v).hst = s.hst := rfl
@[simp] theorem setEave_enabled (s : State) (e : Nat) (v : Eave) : (setEave s e v).enabled = s.enabled := rfl
@[simp] theorem setEave_fenced (s : State) (e : Nat) (v : Eave) : (setEave s e v).fenced = s.fenced := rfl
@[simp] theorem setEave_sparInbox (s : State) (e : Nat) (v : Eave) : (setEave s e v).sparInbox = s.sparInbox := rfl
@[simp] theorem setEave_reads (s : State) (e : Nat) (v : Eave) : (setEave s e v).reads = s.reads := rfl
@[simp] theorem setEave_acks (s : State) (e : Nat) (v : Eave) : (setEave s e v).acks = s.acks := rfl
@[simp] theorem setEave_ridgeAsked (s : State) (e : Nat) (v : Eave) : (setEave s e v).ridgeAsked = s.ridgeAsked := rfl
@[simp] theorem setEave_ridgeGot (s : State) (e : Nat) (v : Eave) : (setEave s e v).ridgeGot = s.ridgeGot := rfl
@[simp] theorem setEave_now (s : State) (e : Nat) (v : Eave) : (setEave s e v).now = s.now := rfl
@[simp] theorem setEave_free (s : State) (e : Nat) (v : Eave) : (setEave s e v).free = s.free := rfl
@[simp] theorem setEave_pending (s : State) (e : Nat) (v : Eave) : (setEave s e v).pending = s.pending := rfl

/-! ### updEave -/

@[simp] theorem updEave_grade (s : State) (e : Nat) (f : Eave → Eave) : (updEave s e f).grade = s.grade := rfl
@[simp] theorem updEave_crs (s : State) (e : Nat) (f : Eave → Eave) : (updEave s e f).crs = s.crs := rfl
@[simp] theorem updEave_rft (s : State) (e : Nat) (f : Eave → Eave) : (updEave s e f).rft = s.rft := rfl
@[simp] theorem updEave_trs (s : State) (e : Nat) (f : Eave → Eave) : (updEave s e f).trs = s.trs := rfl
@[simp] theorem updEave_eav (s : State) (e : Nat) (f : Eave → Eave) : (updEave s e f).eav = s.eav.set e (f (eaveAt s e)) := rfl
@[simp] theorem updEave_cxl (s : State) (e : Nat) (f : Eave → Eave) : (updEave s e f).cxl = s.cxl := rfl
@[simp] theorem updEave_tier (s : State) (e : Nat) (f : Eave → Eave) : (updEave s e f).tier = s.tier := rfl
@[simp] theorem updEave_saf (s : State) (e : Nat) (f : Eave → Eave) : (updEave s e f).saf = s.saf := rfl
@[simp] theorem updEave_pwr (s : State) (e : Nat) (f : Eave → Eave) : (updEave s e f).pwr = s.pwr := rfl
@[simp] theorem updEave_sec (s : State) (e : Nat) (f : Eave → Eave) : (updEave s e f).sec = s.sec := rfl
@[simp] theorem updEave_cnt (s : State) (e : Nat) (f : Eave → Eave) : (updEave s e f).cnt = s.cnt := rfl
@[simp] theorem updEave_pkg (s : State) (e : Nat) (f : Eave → Eave) : (updEave s e f).pkg = s.pkg := rfl
@[simp] theorem updEave_prog (s : State) (e : Nat) (f : Eave → Eave) : (updEave s e f).prog = s.prog := rfl
@[simp] theorem updEave_progNext (s : State) (e : Nat) (f : Eave → Eave) : (updEave s e f).progNext = s.progNext := rfl
@[simp] theorem updEave_upd (s : State) (e : Nat) (f : Eave → Eave) : (updEave s e f).upd = s.upd := rfl
@[simp] theorem updEave_lnk (s : State) (e : Nat) (f : Eave → Eave) : (updEave s e f).lnk = s.lnk := rfl
@[simp] theorem updEave_hst (s : State) (e : Nat) (f : Eave → Eave) : (updEave s e f).hst = s.hst := rfl
@[simp] theorem updEave_enabled (s : State) (e : Nat) (f : Eave → Eave) : (updEave s e f).enabled = s.enabled := rfl
@[simp] theorem updEave_fenced (s : State) (e : Nat) (f : Eave → Eave) : (updEave s e f).fenced = s.fenced := rfl
@[simp] theorem updEave_sparInbox (s : State) (e : Nat) (f : Eave → Eave) : (updEave s e f).sparInbox = s.sparInbox := rfl
@[simp] theorem updEave_reads (s : State) (e : Nat) (f : Eave → Eave) : (updEave s e f).reads = s.reads := rfl
@[simp] theorem updEave_acks (s : State) (e : Nat) (f : Eave → Eave) : (updEave s e f).acks = s.acks := rfl
@[simp] theorem updEave_ridgeAsked (s : State) (e : Nat) (f : Eave → Eave) : (updEave s e f).ridgeAsked = s.ridgeAsked := rfl
@[simp] theorem updEave_ridgeGot (s : State) (e : Nat) (f : Eave → Eave) : (updEave s e f).ridgeGot = s.ridgeGot := rfl
@[simp] theorem updEave_now (s : State) (e : Nat) (f : Eave → Eave) : (updEave s e f).now = s.now := rfl
@[simp] theorem updEave_free (s : State) (e : Nat) (f : Eave → Eave) : (updEave s e f).free = s.free := rfl
@[simp] theorem updEave_pending (s : State) (e : Nat) (f : Eave → Eave) : (updEave s e f).pending = s.pending := rfl

/-! ### setCxl -/

@[simp] theorem setCxl_grade (s : State) (c : Nat) (v : CxlPort) : (setCxl s c v).grade = s.grade := rfl
@[simp] theorem setCxl_crs (s : State) (c : Nat) (v : CxlPort) : (setCxl s c v).crs = s.crs := rfl
@[simp] theorem setCxl_rft (s : State) (c : Nat) (v : CxlPort) : (setCxl s c v).rft = s.rft := rfl
@[simp] theorem setCxl_trs (s : State) (c : Nat) (v : CxlPort) : (setCxl s c v).trs = s.trs := rfl
@[simp] theorem setCxl_eav (s : State) (c : Nat) (v : CxlPort) : (setCxl s c v).eav = s.eav := rfl
@[simp] theorem setCxl_cxl (s : State) (c : Nat) (v : CxlPort) : (setCxl s c v).cxl = s.cxl.set c v := rfl
@[simp] theorem setCxl_tier (s : State) (c : Nat) (v : CxlPort) : (setCxl s c v).tier = s.tier := rfl
@[simp] theorem setCxl_saf (s : State) (c : Nat) (v : CxlPort) : (setCxl s c v).saf = s.saf := rfl
@[simp] theorem setCxl_pwr (s : State) (c : Nat) (v : CxlPort) : (setCxl s c v).pwr = s.pwr := rfl
@[simp] theorem setCxl_sec (s : State) (c : Nat) (v : CxlPort) : (setCxl s c v).sec = s.sec := rfl
@[simp] theorem setCxl_cnt (s : State) (c : Nat) (v : CxlPort) : (setCxl s c v).cnt = s.cnt := rfl
@[simp] theorem setCxl_pkg (s : State) (c : Nat) (v : CxlPort) : (setCxl s c v).pkg = s.pkg := rfl
@[simp] theorem setCxl_prog (s : State) (c : Nat) (v : CxlPort) : (setCxl s c v).prog = s.prog := rfl
@[simp] theorem setCxl_progNext (s : State) (c : Nat) (v : CxlPort) : (setCxl s c v).progNext = s.progNext := rfl
@[simp] theorem setCxl_upd (s : State) (c : Nat) (v : CxlPort) : (setCxl s c v).upd = s.upd := rfl
@[simp] theorem setCxl_lnk (s : State) (c : Nat) (v : CxlPort) : (setCxl s c v).lnk = s.lnk := rfl
@[simp] theorem setCxl_hst (s : State) (c : Nat) (v : CxlPort) : (setCxl s c v).hst = s.hst := rfl
@[simp] theorem setCxl_enabled (s : State) (c : Nat) (v : CxlPort) : (setCxl s c v).enabled = s.enabled := rfl
@[simp] theorem setCxl_fenced (s : State) (c : Nat) (v : CxlPort) : (setCxl s c v).fenced = s.fenced := rfl
@[simp] theorem setCxl_sparInbox (s : State) (c : Nat) (v : CxlPort) : (setCxl s c v).sparInbox = s.sparInbox := rfl
@[simp] theorem setCxl_reads (s : State) (c : Nat) (v : CxlPort) : (setCxl s c v).reads = s.reads := rfl
@[simp] theorem setCxl_acks (s : State) (c : Nat) (v : CxlPort) : (setCxl s c v).acks = s.acks := rfl
@[simp] theorem setCxl_ridgeAsked (s : State) (c : Nat) (v : CxlPort) : (setCxl s c v).ridgeAsked = s.ridgeAsked := rfl
@[simp] theorem setCxl_ridgeGot (s : State) (c : Nat) (v : CxlPort) : (setCxl s c v).ridgeGot = s.ridgeGot := rfl
@[simp] theorem setCxl_now (s : State) (c : Nat) (v : CxlPort) : (setCxl s c v).now = s.now := rfl
@[simp] theorem setCxl_free (s : State) (c : Nat) (v : CxlPort) : (setCxl s c v).free = s.free := rfl
@[simp] theorem setCxl_pending (s : State) (c : Nat) (v : CxlPort) : (setCxl s c v).pending = s.pending := rfl

/-! ### updCxl -/

@[simp] theorem updCxl_grade (s : State) (c : Nat) (f : CxlPort → CxlPort) : (updCxl s c f).grade = s.grade := rfl
@[simp] theorem updCxl_crs (s : State) (c : Nat) (f : CxlPort → CxlPort) : (updCxl s c f).crs = s.crs := rfl
@[simp] theorem updCxl_rft (s : State) (c : Nat) (f : CxlPort → CxlPort) : (updCxl s c f).rft = s.rft := rfl
@[simp] theorem updCxl_trs (s : State) (c : Nat) (f : CxlPort → CxlPort) : (updCxl s c f).trs = s.trs := rfl
@[simp] theorem updCxl_eav (s : State) (c : Nat) (f : CxlPort → CxlPort) : (updCxl s c f).eav = s.eav := rfl
@[simp] theorem updCxl_cxl (s : State) (c : Nat) (f : CxlPort → CxlPort) : (updCxl s c f).cxl = s.cxl.set c (f (cxlAt s c)) := rfl
@[simp] theorem updCxl_tier (s : State) (c : Nat) (f : CxlPort → CxlPort) : (updCxl s c f).tier = s.tier := rfl
@[simp] theorem updCxl_saf (s : State) (c : Nat) (f : CxlPort → CxlPort) : (updCxl s c f).saf = s.saf := rfl
@[simp] theorem updCxl_pwr (s : State) (c : Nat) (f : CxlPort → CxlPort) : (updCxl s c f).pwr = s.pwr := rfl
@[simp] theorem updCxl_sec (s : State) (c : Nat) (f : CxlPort → CxlPort) : (updCxl s c f).sec = s.sec := rfl
@[simp] theorem updCxl_cnt (s : State) (c : Nat) (f : CxlPort → CxlPort) : (updCxl s c f).cnt = s.cnt := rfl
@[simp] theorem updCxl_pkg (s : State) (c : Nat) (f : CxlPort → CxlPort) : (updCxl s c f).pkg = s.pkg := rfl
@[simp] theorem updCxl_prog (s : State) (c : Nat) (f : CxlPort → CxlPort) : (updCxl s c f).prog = s.prog := rfl
@[simp] theorem updCxl_progNext (s : State) (c : Nat) (f : CxlPort → CxlPort) : (updCxl s c f).progNext = s.progNext := rfl
@[simp] theorem updCxl_upd (s : State) (c : Nat) (f : CxlPort → CxlPort) : (updCxl s c f).upd = s.upd := rfl
@[simp] theorem updCxl_lnk (s : State) (c : Nat) (f : CxlPort → CxlPort) : (updCxl s c f).lnk = s.lnk := rfl
@[simp] theorem updCxl_hst (s : State) (c : Nat) (f : CxlPort → CxlPort) : (updCxl s c f).hst = s.hst := rfl
@[simp] theorem updCxl_enabled (s : State) (c : Nat) (f : CxlPort → CxlPort) : (updCxl s c f).enabled = s.enabled := rfl
@[simp] theorem updCxl_fenced (s : State) (c : Nat) (f : CxlPort → CxlPort) : (updCxl s c f).fenced = s.fenced := rfl
@[simp] theorem updCxl_sparInbox (s : State) (c : Nat) (f : CxlPort → CxlPort) : (updCxl s c f).sparInbox = s.sparInbox := rfl
@[simp] theorem updCxl_reads (s : State) (c : Nat) (f : CxlPort → CxlPort) : (updCxl s c f).reads = s.reads := rfl
@[simp] theorem updCxl_acks (s : State) (c : Nat) (f : CxlPort → CxlPort) : (updCxl s c f).acks = s.acks := rfl
@[simp] theorem updCxl_ridgeAsked (s : State) (c : Nat) (f : CxlPort → CxlPort) : (updCxl s c f).ridgeAsked = s.ridgeAsked := rfl
@[simp] theorem updCxl_ridgeGot (s : State) (c : Nat) (f : CxlPort → CxlPort) : (updCxl s c f).ridgeGot = s.ridgeGot := rfl
@[simp] theorem updCxl_now (s : State) (c : Nat) (f : CxlPort → CxlPort) : (updCxl s c f).now = s.now := rfl
@[simp] theorem updCxl_free (s : State) (c : Nat) (f : CxlPort → CxlPort) : (updCxl s c f).free = s.free := rfl
@[simp] theorem updCxl_pending (s : State) (c : Nat) (f : CxlPort → CxlPort) : (updCxl s c f).pending = s.pending := rfl

/-! ### setGroup -/

@[simp] theorem setGroup_grade (s : State) (g : BitVec 8) (v : Group) : (setGroup s g v).grade = s.grade := rfl
@[simp] theorem setGroup_crs (s : State) (g : BitVec 8) (v : Group) : (setGroup s g v).crs = s.crs := rfl
@[simp] theorem setGroup_rft (s : State) (g : BitVec 8) (v : Group) : (setGroup s g v).rft = s.rft := rfl
@[simp] theorem setGroup_trs (s : State) (g : BitVec 8) (v : Group) : (setGroup s g v).trs = s.trs := rfl
@[simp] theorem setGroup_eav (s : State) (g : BitVec 8) (v : Group) : (setGroup s g v).eav = s.eav := rfl
@[simp] theorem setGroup_cxl (s : State) (g : BitVec 8) (v : Group) : (setGroup s g v).cxl = s.cxl := rfl
@[simp] theorem setGroup_tier (s : State) (g : BitVec 8) (v : Group) : (setGroup s g v).tier = s.tier := rfl
@[simp] theorem setGroup_saf (s : State) (g : BitVec 8) (v : Group) : (setGroup s g v).saf = s.saf := rfl
@[simp] theorem setGroup_pwr (s : State) (g : BitVec 8) (v : Group) : (setGroup s g v).pwr = s.pwr := rfl
@[simp] theorem setGroup_sec (s : State) (g : BitVec 8) (v : Group) : (setGroup s g v).sec = s.sec := rfl
@[simp] theorem setGroup_cnt (s : State) (g : BitVec 8) (v : Group) : (setGroup s g v).cnt = s.cnt := rfl
@[simp] theorem setGroup_pkg (s : State) (g : BitVec 8) (v : Group) : (setGroup s g v).pkg = s.pkg := rfl
@[simp] theorem setGroup_prog (s : State) (g : BitVec 8) (v : Group) : (setGroup s g v).prog = s.prog := rfl
@[simp] theorem setGroup_progNext (s : State) (g : BitVec 8) (v : Group) : (setGroup s g v).progNext = s.progNext := rfl
@[simp] theorem setGroup_lnk (s : State) (g : BitVec 8) (v : Group) : (setGroup s g v).lnk = s.lnk := rfl
@[simp] theorem setGroup_hst (s : State) (g : BitVec 8) (v : Group) : (setGroup s g v).hst = s.hst := rfl
@[simp] theorem setGroup_enabled (s : State) (g : BitVec 8) (v : Group) : (setGroup s g v).enabled = s.enabled := rfl
@[simp] theorem setGroup_fenced (s : State) (g : BitVec 8) (v : Group) : (setGroup s g v).fenced = s.fenced := rfl
@[simp] theorem setGroup_sparInbox (s : State) (g : BitVec 8) (v : Group) : (setGroup s g v).sparInbox = s.sparInbox := rfl
@[simp] theorem setGroup_reads (s : State) (g : BitVec 8) (v : Group) : (setGroup s g v).reads = s.reads := rfl
@[simp] theorem setGroup_acks (s : State) (g : BitVec 8) (v : Group) : (setGroup s g v).acks = s.acks := rfl
@[simp] theorem setGroup_ridgeAsked (s : State) (g : BitVec 8) (v : Group) : (setGroup s g v).ridgeAsked = s.ridgeAsked := rfl
@[simp] theorem setGroup_ridgeGot (s : State) (g : BitVec 8) (v : Group) : (setGroup s g v).ridgeGot = s.ridgeGot := rfl
@[simp] theorem setGroup_now (s : State) (g : BitVec 8) (v : Group) : (setGroup s g v).now = s.now := rfl
@[simp] theorem setGroup_free (s : State) (g : BitVec 8) (v : Group) : (setGroup s g v).free = s.free := rfl
@[simp] theorem setGroup_pending (s : State) (g : BitVec 8) (v : Group) : (setGroup s g v).pending = s.pending := rfl

/-! ### updGroup -/

@[simp] theorem updGroup_grade (s : State) (g : BitVec 8) (f : Group → Group) : (updGroup s g f).grade = s.grade := rfl
@[simp] theorem updGroup_crs (s : State) (g : BitVec 8) (f : Group → Group) : (updGroup s g f).crs = s.crs := rfl
@[simp] theorem updGroup_rft (s : State) (g : BitVec 8) (f : Group → Group) : (updGroup s g f).rft = s.rft := rfl
@[simp] theorem updGroup_trs (s : State) (g : BitVec 8) (f : Group → Group) : (updGroup s g f).trs = s.trs := rfl
@[simp] theorem updGroup_eav (s : State) (g : BitVec 8) (f : Group → Group) : (updGroup s g f).eav = s.eav := rfl
@[simp] theorem updGroup_cxl (s : State) (g : BitVec 8) (f : Group → Group) : (updGroup s g f).cxl = s.cxl := rfl
@[simp] theorem updGroup_tier (s : State) (g : BitVec 8) (f : Group → Group) : (updGroup s g f).tier = s.tier := rfl
@[simp] theorem updGroup_saf (s : State) (g : BitVec 8) (f : Group → Group) : (updGroup s g f).saf = s.saf := rfl
@[simp] theorem updGroup_pwr (s : State) (g : BitVec 8) (f : Group → Group) : (updGroup s g f).pwr = s.pwr := rfl
@[simp] theorem updGroup_sec (s : State) (g : BitVec 8) (f : Group → Group) : (updGroup s g f).sec = s.sec := rfl
@[simp] theorem updGroup_cnt (s : State) (g : BitVec 8) (f : Group → Group) : (updGroup s g f).cnt = s.cnt := rfl
@[simp] theorem updGroup_pkg (s : State) (g : BitVec 8) (f : Group → Group) : (updGroup s g f).pkg = s.pkg := rfl
@[simp] theorem updGroup_prog (s : State) (g : BitVec 8) (f : Group → Group) : (updGroup s g f).prog = s.prog := rfl
@[simp] theorem updGroup_progNext (s : State) (g : BitVec 8) (f : Group → Group) : (updGroup s g f).progNext = s.progNext := rfl
@[simp] theorem updGroup_lnk (s : State) (g : BitVec 8) (f : Group → Group) : (updGroup s g f).lnk = s.lnk := rfl
@[simp] theorem updGroup_hst (s : State) (g : BitVec 8) (f : Group → Group) : (updGroup s g f).hst = s.hst := rfl
@[simp] theorem updGroup_enabled (s : State) (g : BitVec 8) (f : Group → Group) : (updGroup s g f).enabled = s.enabled := rfl
@[simp] theorem updGroup_fenced (s : State) (g : BitVec 8) (f : Group → Group) : (updGroup s g f).fenced = s.fenced := rfl
@[simp] theorem updGroup_sparInbox (s : State) (g : BitVec 8) (f : Group → Group) : (updGroup s g f).sparInbox = s.sparInbox := rfl
@[simp] theorem updGroup_reads (s : State) (g : BitVec 8) (f : Group → Group) : (updGroup s g f).reads = s.reads := rfl
@[simp] theorem updGroup_acks (s : State) (g : BitVec 8) (f : Group → Group) : (updGroup s g f).acks = s.acks := rfl
@[simp] theorem updGroup_ridgeAsked (s : State) (g : BitVec 8) (f : Group → Group) : (updGroup s g f).ridgeAsked = s.ridgeAsked := rfl
@[simp] theorem updGroup_ridgeGot (s : State) (g : BitVec 8) (f : Group → Group) : (updGroup s g f).ridgeGot = s.ridgeGot := rfl
@[simp] theorem updGroup_now (s : State) (g : BitVec 8) (f : Group → Group) : (updGroup s g f).now = s.now := rfl
@[simp] theorem updGroup_free (s : State) (g : BitVec 8) (f : Group → Group) : (updGroup s g f).free = s.free := rfl
@[simp] theorem updGroup_pending (s : State) (g : BitVec 8) (f : Group → Group) : (updGroup s g f).pending = s.pending := rfl

/-! ### setUu -/

@[simp] theorem setUu_grade (s : State) (k : Nat) (v : UpdUnit) : (setUu s k v).grade = s.grade := rfl
@[simp] theorem setUu_crs (s : State) (k : Nat) (v : UpdUnit) : (setUu s k v).crs = s.crs := rfl
@[simp] theorem setUu_rft (s : State) (k : Nat) (v : UpdUnit) : (setUu s k v).rft = s.rft := rfl
@[simp] theorem setUu_trs (s : State) (k : Nat) (v : UpdUnit) : (setUu s k v).trs = s.trs := rfl
@[simp] theorem setUu_eav (s : State) (k : Nat) (v : UpdUnit) : (setUu s k v).eav = s.eav := rfl
@[simp] theorem setUu_cxl (s : State) (k : Nat) (v : UpdUnit) : (setUu s k v).cxl = s.cxl := rfl
@[simp] theorem setUu_tier (s : State) (k : Nat) (v : UpdUnit) : (setUu s k v).tier = s.tier := rfl
@[simp] theorem setUu_saf (s : State) (k : Nat) (v : UpdUnit) : (setUu s k v).saf = s.saf := rfl
@[simp] theorem setUu_pwr (s : State) (k : Nat) (v : UpdUnit) : (setUu s k v).pwr = s.pwr := rfl
@[simp] theorem setUu_sec (s : State) (k : Nat) (v : UpdUnit) : (setUu s k v).sec = s.sec := rfl
@[simp] theorem setUu_cnt (s : State) (k : Nat) (v : UpdUnit) : (setUu s k v).cnt = s.cnt := rfl
@[simp] theorem setUu_pkg (s : State) (k : Nat) (v : UpdUnit) : (setUu s k v).pkg = s.pkg := rfl
@[simp] theorem setUu_prog (s : State) (k : Nat) (v : UpdUnit) : (setUu s k v).prog = s.prog := rfl
@[simp] theorem setUu_progNext (s : State) (k : Nat) (v : UpdUnit) : (setUu s k v).progNext = s.progNext := rfl
@[simp] theorem setUu_lnk (s : State) (k : Nat) (v : UpdUnit) : (setUu s k v).lnk = s.lnk := rfl
@[simp] theorem setUu_hst (s : State) (k : Nat) (v : UpdUnit) : (setUu s k v).hst = s.hst := rfl
@[simp] theorem setUu_enabled (s : State) (k : Nat) (v : UpdUnit) : (setUu s k v).enabled = s.enabled := rfl
@[simp] theorem setUu_fenced (s : State) (k : Nat) (v : UpdUnit) : (setUu s k v).fenced = s.fenced := rfl
@[simp] theorem setUu_sparInbox (s : State) (k : Nat) (v : UpdUnit) : (setUu s k v).sparInbox = s.sparInbox := rfl
@[simp] theorem setUu_reads (s : State) (k : Nat) (v : UpdUnit) : (setUu s k v).reads = s.reads := rfl
@[simp] theorem setUu_acks (s : State) (k : Nat) (v : UpdUnit) : (setUu s k v).acks = s.acks := rfl
@[simp] theorem setUu_ridgeAsked (s : State) (k : Nat) (v : UpdUnit) : (setUu s k v).ridgeAsked = s.ridgeAsked := rfl
@[simp] theorem setUu_ridgeGot (s : State) (k : Nat) (v : UpdUnit) : (setUu s k v).ridgeGot = s.ridgeGot := rfl
@[simp] theorem setUu_now (s : State) (k : Nat) (v : UpdUnit) : (setUu s k v).now = s.now := rfl
@[simp] theorem setUu_free (s : State) (k : Nat) (v : UpdUnit) : (setUu s k v).free = s.free := rfl
@[simp] theorem setUu_pending (s : State) (k : Nat) (v : UpdUnit) : (setUu s k v).pending = s.pending := rfl

/-! ### updUu -/

@[simp] theorem updUu_grade (s : State) (k : Nat) (f : UpdUnit → UpdUnit) : (updUu s k f).grade = s.grade := rfl
@[simp] theorem updUu_crs (s : State) (k : Nat) (f : UpdUnit → UpdUnit) : (updUu s k f).crs = s.crs := rfl
@[simp] theorem updUu_rft (s : State) (k : Nat) (f : UpdUnit → UpdUnit) : (updUu s k f).rft = s.rft := rfl
@[simp] theorem updUu_trs (s : State) (k : Nat) (f : UpdUnit → UpdUnit) : (updUu s k f).trs = s.trs := rfl
@[simp] theorem updUu_eav (s : State) (k : Nat) (f : UpdUnit → UpdUnit) : (updUu s k f).eav = s.eav := rfl
@[simp] theorem updUu_cxl (s : State) (k : Nat) (f : UpdUnit → UpdUnit) : (updUu s k f).cxl = s.cxl := rfl
@[simp] theorem updUu_tier (s : State) (k : Nat) (f : UpdUnit → UpdUnit) : (updUu s k f).tier = s.tier := rfl
@[simp] theorem updUu_saf (s : State) (k : Nat) (f : UpdUnit → UpdUnit) : (updUu s k f).saf = s.saf := rfl
@[simp] theorem updUu_pwr (s : State) (k : Nat) (f : UpdUnit → UpdUnit) : (updUu s k f).pwr = s.pwr := rfl
@[simp] theorem updUu_sec (s : State) (k : Nat) (f : UpdUnit → UpdUnit) : (updUu s k f).sec = s.sec := rfl
@[simp] theorem updUu_cnt (s : State) (k : Nat) (f : UpdUnit → UpdUnit) : (updUu s k f).cnt = s.cnt := rfl
@[simp] theorem updUu_pkg (s : State) (k : Nat) (f : UpdUnit → UpdUnit) : (updUu s k f).pkg = s.pkg := rfl
@[simp] theorem updUu_prog (s : State) (k : Nat) (f : UpdUnit → UpdUnit) : (updUu s k f).prog = s.prog := rfl
@[simp] theorem updUu_progNext (s : State) (k : Nat) (f : UpdUnit → UpdUnit) : (updUu s k f).progNext = s.progNext := rfl
@[simp] theorem updUu_lnk (s : State) (k : Nat) (f : UpdUnit → UpdUnit) : (updUu s k f).lnk = s.lnk := rfl
@[simp] theorem updUu_hst (s : State) (k : Nat) (f : UpdUnit → UpdUnit) : (updUu s k f).hst = s.hst := rfl
@[simp] theorem updUu_enabled (s : State) (k : Nat) (f : UpdUnit → UpdUnit) : (updUu s k f).enabled = s.enabled := rfl
@[simp] theorem updUu_fenced (s : State) (k : Nat) (f : UpdUnit → UpdUnit) : (updUu s k f).fenced = s.fenced := rfl
@[simp] theorem updUu_sparInbox (s : State) (k : Nat) (f : UpdUnit → UpdUnit) : (updUu s k f).sparInbox = s.sparInbox := rfl
@[simp] theorem updUu_reads (s : State) (k : Nat) (f : UpdUnit → UpdUnit) : (updUu s k f).reads = s.reads := rfl
@[simp] theorem updUu_acks (s : State) (k : Nat) (f : UpdUnit → UpdUnit) : (updUu s k f).acks = s.acks := rfl
@[simp] theorem updUu_ridgeAsked (s : State) (k : Nat) (f : UpdUnit → UpdUnit) : (updUu s k f).ridgeAsked = s.ridgeAsked := rfl
@[simp] theorem updUu_ridgeGot (s : State) (k : Nat) (f : UpdUnit → UpdUnit) : (updUu s k f).ridgeGot = s.ridgeGot := rfl
@[simp] theorem updUu_now (s : State) (k : Nat) (f : UpdUnit → UpdUnit) : (updUu s k f).now = s.now := rfl
@[simp] theorem updUu_free (s : State) (k : Nat) (f : UpdUnit → UpdUnit) : (updUu s k f).free = s.free := rfl
@[simp] theorem updUu_pending (s : State) (k : Nat) (f : UpdUnit → UpdUnit) : (updUu s k f).pending = s.pending := rfl

/-! ### setPort -/

@[simp] theorem setPort_grade (s : State) (l : Nat) (v : LnkPort) : (setPort s l v).grade = s.grade := rfl
@[simp] theorem setPort_crs (s : State) (l : Nat) (v : LnkPort) : (setPort s l v).crs = s.crs := rfl
@[simp] theorem setPort_rft (s : State) (l : Nat) (v : LnkPort) : (setPort s l v).rft = s.rft := rfl
@[simp] theorem setPort_trs (s : State) (l : Nat) (v : LnkPort) : (setPort s l v).trs = s.trs := rfl
@[simp] theorem setPort_eav (s : State) (l : Nat) (v : LnkPort) : (setPort s l v).eav = s.eav := rfl
@[simp] theorem setPort_cxl (s : State) (l : Nat) (v : LnkPort) : (setPort s l v).cxl = s.cxl := rfl
@[simp] theorem setPort_tier (s : State) (l : Nat) (v : LnkPort) : (setPort s l v).tier = s.tier := rfl
@[simp] theorem setPort_saf (s : State) (l : Nat) (v : LnkPort) : (setPort s l v).saf = s.saf := rfl
@[simp] theorem setPort_pwr (s : State) (l : Nat) (v : LnkPort) : (setPort s l v).pwr = s.pwr := rfl
@[simp] theorem setPort_sec (s : State) (l : Nat) (v : LnkPort) : (setPort s l v).sec = s.sec := rfl
@[simp] theorem setPort_cnt (s : State) (l : Nat) (v : LnkPort) : (setPort s l v).cnt = s.cnt := rfl
@[simp] theorem setPort_pkg (s : State) (l : Nat) (v : LnkPort) : (setPort s l v).pkg = s.pkg := rfl
@[simp] theorem setPort_prog (s : State) (l : Nat) (v : LnkPort) : (setPort s l v).prog = s.prog := rfl
@[simp] theorem setPort_progNext (s : State) (l : Nat) (v : LnkPort) : (setPort s l v).progNext = s.progNext := rfl
@[simp] theorem setPort_upd (s : State) (l : Nat) (v : LnkPort) : (setPort s l v).upd = s.upd := rfl
@[simp] theorem setPort_hst (s : State) (l : Nat) (v : LnkPort) : (setPort s l v).hst = s.hst := rfl
@[simp] theorem setPort_enabled (s : State) (l : Nat) (v : LnkPort) : (setPort s l v).enabled = s.enabled := rfl
@[simp] theorem setPort_fenced (s : State) (l : Nat) (v : LnkPort) : (setPort s l v).fenced = s.fenced := rfl
@[simp] theorem setPort_sparInbox (s : State) (l : Nat) (v : LnkPort) : (setPort s l v).sparInbox = s.sparInbox := rfl
@[simp] theorem setPort_reads (s : State) (l : Nat) (v : LnkPort) : (setPort s l v).reads = s.reads := rfl
@[simp] theorem setPort_acks (s : State) (l : Nat) (v : LnkPort) : (setPort s l v).acks = s.acks := rfl
@[simp] theorem setPort_ridgeAsked (s : State) (l : Nat) (v : LnkPort) : (setPort s l v).ridgeAsked = s.ridgeAsked := rfl
@[simp] theorem setPort_ridgeGot (s : State) (l : Nat) (v : LnkPort) : (setPort s l v).ridgeGot = s.ridgeGot := rfl
@[simp] theorem setPort_now (s : State) (l : Nat) (v : LnkPort) : (setPort s l v).now = s.now := rfl
@[simp] theorem setPort_free (s : State) (l : Nat) (v : LnkPort) : (setPort s l v).free = s.free := rfl
@[simp] theorem setPort_pending (s : State) (l : Nat) (v : LnkPort) : (setPort s l v).pending = s.pending := rfl

/-! ### updPort -/

@[simp] theorem updPort_grade (s : State) (l : Nat) (f : LnkPort → LnkPort) : (updPort s l f).grade = s.grade := rfl
@[simp] theorem updPort_crs (s : State) (l : Nat) (f : LnkPort → LnkPort) : (updPort s l f).crs = s.crs := rfl
@[simp] theorem updPort_rft (s : State) (l : Nat) (f : LnkPort → LnkPort) : (updPort s l f).rft = s.rft := rfl
@[simp] theorem updPort_trs (s : State) (l : Nat) (f : LnkPort → LnkPort) : (updPort s l f).trs = s.trs := rfl
@[simp] theorem updPort_eav (s : State) (l : Nat) (f : LnkPort → LnkPort) : (updPort s l f).eav = s.eav := rfl
@[simp] theorem updPort_cxl (s : State) (l : Nat) (f : LnkPort → LnkPort) : (updPort s l f).cxl = s.cxl := rfl
@[simp] theorem updPort_tier (s : State) (l : Nat) (f : LnkPort → LnkPort) : (updPort s l f).tier = s.tier := rfl
@[simp] theorem updPort_saf (s : State) (l : Nat) (f : LnkPort → LnkPort) : (updPort s l f).saf = s.saf := rfl
@[simp] theorem updPort_pwr (s : State) (l : Nat) (f : LnkPort → LnkPort) : (updPort s l f).pwr = s.pwr := rfl
@[simp] theorem updPort_sec (s : State) (l : Nat) (f : LnkPort → LnkPort) : (updPort s l f).sec = s.sec := rfl
@[simp] theorem updPort_cnt (s : State) (l : Nat) (f : LnkPort → LnkPort) : (updPort s l f).cnt = s.cnt := rfl
@[simp] theorem updPort_pkg (s : State) (l : Nat) (f : LnkPort → LnkPort) : (updPort s l f).pkg = s.pkg := rfl
@[simp] theorem updPort_prog (s : State) (l : Nat) (f : LnkPort → LnkPort) : (updPort s l f).prog = s.prog := rfl
@[simp] theorem updPort_progNext (s : State) (l : Nat) (f : LnkPort → LnkPort) : (updPort s l f).progNext = s.progNext := rfl
@[simp] theorem updPort_upd (s : State) (l : Nat) (f : LnkPort → LnkPort) : (updPort s l f).upd = s.upd := rfl
@[simp] theorem updPort_hst (s : State) (l : Nat) (f : LnkPort → LnkPort) : (updPort s l f).hst = s.hst := rfl
@[simp] theorem updPort_enabled (s : State) (l : Nat) (f : LnkPort → LnkPort) : (updPort s l f).enabled = s.enabled := rfl
@[simp] theorem updPort_fenced (s : State) (l : Nat) (f : LnkPort → LnkPort) : (updPort s l f).fenced = s.fenced := rfl
@[simp] theorem updPort_sparInbox (s : State) (l : Nat) (f : LnkPort → LnkPort) : (updPort s l f).sparInbox = s.sparInbox := rfl
@[simp] theorem updPort_reads (s : State) (l : Nat) (f : LnkPort → LnkPort) : (updPort s l f).reads = s.reads := rfl
@[simp] theorem updPort_acks (s : State) (l : Nat) (f : LnkPort → LnkPort) : (updPort s l f).acks = s.acks := rfl
@[simp] theorem updPort_ridgeAsked (s : State) (l : Nat) (f : LnkPort → LnkPort) : (updPort s l f).ridgeAsked = s.ridgeAsked := rfl
@[simp] theorem updPort_ridgeGot (s : State) (l : Nat) (f : LnkPort → LnkPort) : (updPort s l f).ridgeGot = s.ridgeGot := rfl
@[simp] theorem updPort_now (s : State) (l : Nat) (f : LnkPort → LnkPort) : (updPort s l f).now = s.now := rfl
@[simp] theorem updPort_free (s : State) (l : Nat) (f : LnkPort → LnkPort) : (updPort s l f).free = s.free := rfl
@[simp] theorem updPort_pending (s : State) (l : Nat) (f : LnkPort → LnkPort) : (updPort s l f).pending = s.pending := rfl

/-! ### updConn -/

@[simp] theorem updConn_grade (s : State) (l : Nat) (r : BitVec 10) (f : Conn → Conn) : (updConn s l r f).grade = s.grade := rfl
@[simp] theorem updConn_crs (s : State) (l : Nat) (r : BitVec 10) (f : Conn → Conn) : (updConn s l r f).crs = s.crs := rfl
@[simp] theorem updConn_rft (s : State) (l : Nat) (r : BitVec 10) (f : Conn → Conn) : (updConn s l r f).rft = s.rft := rfl
@[simp] theorem updConn_trs (s : State) (l : Nat) (r : BitVec 10) (f : Conn → Conn) : (updConn s l r f).trs = s.trs := rfl
@[simp] theorem updConn_eav (s : State) (l : Nat) (r : BitVec 10) (f : Conn → Conn) : (updConn s l r f).eav = s.eav := rfl
@[simp] theorem updConn_cxl (s : State) (l : Nat) (r : BitVec 10) (f : Conn → Conn) : (updConn s l r f).cxl = s.cxl := rfl
@[simp] theorem updConn_tier (s : State) (l : Nat) (r : BitVec 10) (f : Conn → Conn) : (updConn s l r f).tier = s.tier := rfl
@[simp] theorem updConn_saf (s : State) (l : Nat) (r : BitVec 10) (f : Conn → Conn) : (updConn s l r f).saf = s.saf := rfl
@[simp] theorem updConn_pwr (s : State) (l : Nat) (r : BitVec 10) (f : Conn → Conn) : (updConn s l r f).pwr = s.pwr := rfl
@[simp] theorem updConn_sec (s : State) (l : Nat) (r : BitVec 10) (f : Conn → Conn) : (updConn s l r f).sec = s.sec := rfl
@[simp] theorem updConn_cnt (s : State) (l : Nat) (r : BitVec 10) (f : Conn → Conn) : (updConn s l r f).cnt = s.cnt := rfl
@[simp] theorem updConn_pkg (s : State) (l : Nat) (r : BitVec 10) (f : Conn → Conn) : (updConn s l r f).pkg = s.pkg := rfl
@[simp] theorem updConn_prog (s : State) (l : Nat) (r : BitVec 10) (f : Conn → Conn) : (updConn s l r f).prog = s.prog := rfl
@[simp] theorem updConn_progNext (s : State) (l : Nat) (r : BitVec 10) (f : Conn → Conn) : (updConn s l r f).progNext = s.progNext := rfl
@[simp] theorem updConn_upd (s : State) (l : Nat) (r : BitVec 10) (f : Conn → Conn) : (updConn s l r f).upd = s.upd := rfl
@[simp] theorem updConn_hst (s : State) (l : Nat) (r : BitVec 10) (f : Conn → Conn) : (updConn s l r f).hst = s.hst := rfl
@[simp] theorem updConn_enabled (s : State) (l : Nat) (r : BitVec 10) (f : Conn → Conn) : (updConn s l r f).enabled = s.enabled := rfl
@[simp] theorem updConn_fenced (s : State) (l : Nat) (r : BitVec 10) (f : Conn → Conn) : (updConn s l r f).fenced = s.fenced := rfl
@[simp] theorem updConn_sparInbox (s : State) (l : Nat) (r : BitVec 10) (f : Conn → Conn) : (updConn s l r f).sparInbox = s.sparInbox := rfl
@[simp] theorem updConn_reads (s : State) (l : Nat) (r : BitVec 10) (f : Conn → Conn) : (updConn s l r f).reads = s.reads := rfl
@[simp] theorem updConn_acks (s : State) (l : Nat) (r : BitVec 10) (f : Conn → Conn) : (updConn s l r f).acks = s.acks := rfl
@[simp] theorem updConn_ridgeAsked (s : State) (l : Nat) (r : BitVec 10) (f : Conn → Conn) : (updConn s l r f).ridgeAsked = s.ridgeAsked := rfl
@[simp] theorem updConn_ridgeGot (s : State) (l : Nat) (r : BitVec 10) (f : Conn → Conn) : (updConn s l r f).ridgeGot = s.ridgeGot := rfl
@[simp] theorem updConn_now (s : State) (l : Nat) (r : BitVec 10) (f : Conn → Conn) : (updConn s l r f).now = s.now := rfl
@[simp] theorem updConn_free (s : State) (l : Nat) (r : BitVec 10) (f : Conn → Conn) : (updConn s l r f).free = s.free := rfl
@[simp] theorem updConn_pending (s : State) (l : Nat) (r : BitVec 10) (f : Conn → Conn) : (updConn s l r f).pending = s.pending := rfl

/-! ### setInst -/

@[simp] theorem setInst_grade (s : State) (i : Inst) : (setInst s i).grade = s.grade := rfl
@[simp] theorem setInst_crs (s : State) (i : Inst) : (setInst s i).crs = s.crs := rfl
@[simp] theorem setInst_rft (s : State) (i : Inst) : (setInst s i).rft = s.rft := rfl
@[simp] theorem setInst_trs (s : State) (i : Inst) : (setInst s i).trs = s.trs := rfl
@[simp] theorem setInst_eav (s : State) (i : Inst) : (setInst s i).eav = s.eav := rfl
@[simp] theorem setInst_cxl (s : State) (i : Inst) : (setInst s i).cxl = s.cxl := rfl
@[simp] theorem setInst_tier (s : State) (i : Inst) : (setInst s i).tier = s.tier := rfl
@[simp] theorem setInst_saf (s : State) (i : Inst) : (setInst s i).saf = s.saf := rfl
@[simp] theorem setInst_pwr (s : State) (i : Inst) : (setInst s i).pwr = s.pwr := rfl
@[simp] theorem setInst_sec (s : State) (i : Inst) : (setInst s i).sec = s.sec := rfl
@[simp] theorem setInst_cnt (s : State) (i : Inst) : (setInst s i).cnt = s.cnt := rfl
@[simp] theorem setInst_pkg (s : State) (i : Inst) : (setInst s i).pkg = s.pkg := rfl
@[simp] theorem setInst_prog (s : State) (i : Inst) : (setInst s i).prog = s.prog := rfl
@[simp] theorem setInst_progNext (s : State) (i : Inst) : (setInst s i).progNext = s.progNext := rfl
@[simp] theorem setInst_upd (s : State) (i : Inst) : (setInst s i).upd = s.upd := rfl
@[simp] theorem setInst_hst (s : State) (i : Inst) : (setInst s i).hst = s.hst := rfl
@[simp] theorem setInst_enabled (s : State) (i : Inst) : (setInst s i).enabled = s.enabled := rfl
@[simp] theorem setInst_fenced (s : State) (i : Inst) : (setInst s i).fenced = s.fenced := rfl
@[simp] theorem setInst_sparInbox (s : State) (i : Inst) : (setInst s i).sparInbox = s.sparInbox := rfl
@[simp] theorem setInst_reads (s : State) (i : Inst) : (setInst s i).reads = s.reads := rfl
@[simp] theorem setInst_acks (s : State) (i : Inst) : (setInst s i).acks = s.acks := rfl
@[simp] theorem setInst_ridgeAsked (s : State) (i : Inst) : (setInst s i).ridgeAsked = s.ridgeAsked := rfl
@[simp] theorem setInst_ridgeGot (s : State) (i : Inst) : (setInst s i).ridgeGot = s.ridgeGot := rfl
@[simp] theorem setInst_now (s : State) (i : Inst) : (setInst s i).now = s.now := rfl
@[simp] theorem setInst_free (s : State) (i : Inst) : (setInst s i).free = s.free := rfl
@[simp] theorem setInst_pending (s : State) (i : Inst) : (setInst s i).pending = s.pending := rfl

/-! ### dropInst -/

@[simp] theorem dropInst_grade (s : State) (i : Inst) : (dropInst s i).grade = s.grade := rfl
@[simp] theorem dropInst_crs (s : State) (i : Inst) : (dropInst s i).crs = s.crs := rfl
@[simp] theorem dropInst_rft (s : State) (i : Inst) : (dropInst s i).rft = s.rft := rfl
@[simp] theorem dropInst_trs (s : State) (i : Inst) : (dropInst s i).trs = s.trs := rfl
@[simp] theorem dropInst_eav (s : State) (i : Inst) : (dropInst s i).eav = s.eav := rfl
@[simp] theorem dropInst_cxl (s : State) (i : Inst) : (dropInst s i).cxl = s.cxl := rfl
@[simp] theorem dropInst_tier (s : State) (i : Inst) : (dropInst s i).tier = s.tier := rfl
@[simp] theorem dropInst_saf (s : State) (i : Inst) : (dropInst s i).saf = s.saf := rfl
@[simp] theorem dropInst_pwr (s : State) (i : Inst) : (dropInst s i).pwr = s.pwr := rfl
@[simp] theorem dropInst_sec (s : State) (i : Inst) : (dropInst s i).sec = s.sec := rfl
@[simp] theorem dropInst_cnt (s : State) (i : Inst) : (dropInst s i).cnt = s.cnt := rfl
@[simp] theorem dropInst_pkg (s : State) (i : Inst) : (dropInst s i).pkg = s.pkg := rfl
@[simp] theorem dropInst_prog (s : State) (i : Inst) : (dropInst s i).prog = s.prog := rfl
@[simp] theorem dropInst_progNext (s : State) (i : Inst) : (dropInst s i).progNext = s.progNext := rfl
@[simp] theorem dropInst_upd (s : State) (i : Inst) : (dropInst s i).upd = s.upd := rfl
@[simp] theorem dropInst_hst (s : State) (i : Inst) : (dropInst s i).hst = s.hst := rfl
@[simp] theorem dropInst_enabled (s : State) (i : Inst) : (dropInst s i).enabled = s.enabled := rfl
@[simp] theorem dropInst_fenced (s : State) (i : Inst) : (dropInst s i).fenced = s.fenced := rfl
@[simp] theorem dropInst_sparInbox (s : State) (i : Inst) : (dropInst s i).sparInbox = s.sparInbox := rfl
@[simp] theorem dropInst_reads (s : State) (i : Inst) : (dropInst s i).reads = s.reads := rfl
@[simp] theorem dropInst_acks (s : State) (i : Inst) : (dropInst s i).acks = s.acks := rfl
@[simp] theorem dropInst_ridgeAsked (s : State) (i : Inst) : (dropInst s i).ridgeAsked = s.ridgeAsked := rfl
@[simp] theorem dropInst_ridgeGot (s : State) (i : Inst) : (dropInst s i).ridgeGot = s.ridgeGot := rfl
@[simp] theorem dropInst_now (s : State) (i : Inst) : (dropInst s i).now = s.now := rfl
@[simp] theorem dropInst_free (s : State) (i : Inst) : (dropInst s i).free = s.free := rfl
@[simp] theorem dropInst_pending (s : State) (i : Inst) : (dropInst s i).pending = s.pending := rfl

/-! ### setDigest -/

@[simp] theorem setDigest_grade (s : State) (d : Digest) : (setDigest s d).grade = s.grade := rfl
@[simp] theorem setDigest_crs (s : State) (d : Digest) : (setDigest s d).crs = s.crs := rfl
@[simp] theorem setDigest_rft (s : State) (d : Digest) : (setDigest s d).rft = s.rft := rfl
@[simp] theorem setDigest_trs (s : State) (d : Digest) : (setDigest s d).trs = s.trs := rfl
@[simp] theorem setDigest_eav (s : State) (d : Digest) : (setDigest s d).eav = s.eav := rfl
@[simp] theorem setDigest_cxl (s : State) (d : Digest) : (setDigest s d).cxl = s.cxl := rfl
@[simp] theorem setDigest_tier (s : State) (d : Digest) : (setDigest s d).tier = s.tier := rfl
@[simp] theorem setDigest_saf (s : State) (d : Digest) : (setDigest s d).saf = s.saf := rfl
@[simp] theorem setDigest_pwr (s : State) (d : Digest) : (setDigest s d).pwr = s.pwr := rfl
@[simp] theorem setDigest_sec (s : State) (d : Digest) : (setDigest s d).sec = s.sec := rfl
@[simp] theorem setDigest_cnt (s : State) (d : Digest) : (setDigest s d).cnt = s.cnt := rfl
@[simp] theorem setDigest_pkg (s : State) (d : Digest) : (setDigest s d).pkg = s.pkg := rfl
@[simp] theorem setDigest_prog (s : State) (d : Digest) : (setDigest s d).prog = s.prog := rfl
@[simp] theorem setDigest_progNext (s : State) (d : Digest) : (setDigest s d).progNext = s.progNext := rfl
@[simp] theorem setDigest_upd (s : State) (d : Digest) : (setDigest s d).upd = s.upd := rfl
@[simp] theorem setDigest_hst (s : State) (d : Digest) : (setDigest s d).hst = s.hst := rfl
@[simp] theorem setDigest_enabled (s : State) (d : Digest) : (setDigest s d).enabled = s.enabled := rfl
@[simp] theorem setDigest_fenced (s : State) (d : Digest) : (setDigest s d).fenced = s.fenced := rfl
@[simp] theorem setDigest_sparInbox (s : State) (d : Digest) : (setDigest s d).sparInbox = s.sparInbox := rfl
@[simp] theorem setDigest_reads (s : State) (d : Digest) : (setDigest s d).reads = s.reads := rfl
@[simp] theorem setDigest_acks (s : State) (d : Digest) : (setDigest s d).acks = s.acks := rfl
@[simp] theorem setDigest_ridgeAsked (s : State) (d : Digest) : (setDigest s d).ridgeAsked = s.ridgeAsked := rfl
@[simp] theorem setDigest_ridgeGot (s : State) (d : Digest) : (setDigest s d).ridgeGot = s.ridgeGot := rfl
@[simp] theorem setDigest_now (s : State) (d : Digest) : (setDigest s d).now = s.now := rfl
@[simp] theorem setDigest_free (s : State) (d : Digest) : (setDigest s d).free = s.free := rfl
@[simp] theorem setDigest_pending (s : State) (d : Digest) : (setDigest s d).pending = s.pending := rfl

/-! ### setPub -/

@[simp] theorem setPub_grade (s : State) (p : Nat) (v : PubSet) : (setPub s p v).grade = s.grade := rfl
@[simp] theorem setPub_crs (s : State) (p : Nat) (v : PubSet) : (setPub s p v).crs = s.crs := rfl
@[simp] theorem setPub_rft (s : State) (p : Nat) (v : PubSet) : (setPub s p v).rft = s.rft := rfl
@[simp] theorem setPub_trs (s : State) (p : Nat) (v : PubSet) : (setPub s p v).trs = s.trs := rfl
@[simp] theorem setPub_eav (s : State) (p : Nat) (v : PubSet) : (setPub s p v).eav = s.eav := rfl
@[simp] theorem setPub_cxl (s : State) (p : Nat) (v : PubSet) : (setPub s p v).cxl = s.cxl := rfl
@[simp] theorem setPub_tier (s : State) (p : Nat) (v : PubSet) : (setPub s p v).tier = s.tier := rfl
@[simp] theorem setPub_saf (s : State) (p : Nat) (v : PubSet) : (setPub s p v).saf = s.saf := rfl
@[simp] theorem setPub_pwr (s : State) (p : Nat) (v : PubSet) : (setPub s p v).pwr = s.pwr := rfl
@[simp] theorem setPub_sec (s : State) (p : Nat) (v : PubSet) : (setPub s p v).sec = s.sec := rfl
@[simp] theorem setPub_cnt (s : State) (p : Nat) (v : PubSet) : (setPub s p v).cnt = s.cnt := rfl
@[simp] theorem setPub_pkg (s : State) (p : Nat) (v : PubSet) : (setPub s p v).pkg = s.pkg := rfl
@[simp] theorem setPub_prog (s : State) (p : Nat) (v : PubSet) : (setPub s p v).prog = s.prog := rfl
@[simp] theorem setPub_progNext (s : State) (p : Nat) (v : PubSet) : (setPub s p v).progNext = s.progNext := rfl
@[simp] theorem setPub_upd (s : State) (p : Nat) (v : PubSet) : (setPub s p v).upd = s.upd := rfl
@[simp] theorem setPub_lnk (s : State) (p : Nat) (v : PubSet) : (setPub s p v).lnk = s.lnk := rfl
@[simp] theorem setPub_enabled (s : State) (p : Nat) (v : PubSet) : (setPub s p v).enabled = s.enabled := rfl
@[simp] theorem setPub_fenced (s : State) (p : Nat) (v : PubSet) : (setPub s p v).fenced = s.fenced := rfl
@[simp] theorem setPub_sparInbox (s : State) (p : Nat) (v : PubSet) : (setPub s p v).sparInbox = s.sparInbox := rfl
@[simp] theorem setPub_reads (s : State) (p : Nat) (v : PubSet) : (setPub s p v).reads = s.reads := rfl
@[simp] theorem setPub_acks (s : State) (p : Nat) (v : PubSet) : (setPub s p v).acks = s.acks := rfl
@[simp] theorem setPub_ridgeAsked (s : State) (p : Nat) (v : PubSet) : (setPub s p v).ridgeAsked = s.ridgeAsked := rfl
@[simp] theorem setPub_ridgeGot (s : State) (p : Nat) (v : PubSet) : (setPub s p v).ridgeGot = s.ridgeGot := rfl
@[simp] theorem setPub_now (s : State) (p : Nat) (v : PubSet) : (setPub s p v).now = s.now := rfl
@[simp] theorem setPub_free (s : State) (p : Nat) (v : PubSet) : (setPub s p v).free = s.free := rfl
@[simp] theorem setPub_pending (s : State) (p : Nat) (v : PubSet) : (setPub s p v).pending = s.pending := rfl

/-! ### putHost -/

@[simp] theorem putHost_grade (s : State) (a : Nat) (bs : List Byte) : (putHost s a bs).grade = s.grade := rfl
@[simp] theorem putHost_crs (s : State) (a : Nat) (bs : List Byte) : (putHost s a bs).crs = s.crs := rfl
@[simp] theorem putHost_rft (s : State) (a : Nat) (bs : List Byte) : (putHost s a bs).rft = s.rft := rfl
@[simp] theorem putHost_trs (s : State) (a : Nat) (bs : List Byte) : (putHost s a bs).trs = s.trs := rfl
@[simp] theorem putHost_eav (s : State) (a : Nat) (bs : List Byte) : (putHost s a bs).eav = s.eav := rfl
@[simp] theorem putHost_cxl (s : State) (a : Nat) (bs : List Byte) : (putHost s a bs).cxl = s.cxl := rfl
@[simp] theorem putHost_tier (s : State) (a : Nat) (bs : List Byte) : (putHost s a bs).tier = s.tier := rfl
@[simp] theorem putHost_saf (s : State) (a : Nat) (bs : List Byte) : (putHost s a bs).saf = s.saf := rfl
@[simp] theorem putHost_pwr (s : State) (a : Nat) (bs : List Byte) : (putHost s a bs).pwr = s.pwr := rfl
@[simp] theorem putHost_sec (s : State) (a : Nat) (bs : List Byte) : (putHost s a bs).sec = s.sec := rfl
@[simp] theorem putHost_cnt (s : State) (a : Nat) (bs : List Byte) : (putHost s a bs).cnt = s.cnt := rfl
@[simp] theorem putHost_pkg (s : State) (a : Nat) (bs : List Byte) : (putHost s a bs).pkg = s.pkg := rfl
@[simp] theorem putHost_prog (s : State) (a : Nat) (bs : List Byte) : (putHost s a bs).prog = s.prog := rfl
@[simp] theorem putHost_progNext (s : State) (a : Nat) (bs : List Byte) : (putHost s a bs).progNext = s.progNext := rfl
@[simp] theorem putHost_upd (s : State) (a : Nat) (bs : List Byte) : (putHost s a bs).upd = s.upd := rfl
@[simp] theorem putHost_lnk (s : State) (a : Nat) (bs : List Byte) : (putHost s a bs).lnk = s.lnk := rfl
@[simp] theorem putHost_enabled (s : State) (a : Nat) (bs : List Byte) : (putHost s a bs).enabled = s.enabled := rfl
@[simp] theorem putHost_fenced (s : State) (a : Nat) (bs : List Byte) : (putHost s a bs).fenced = s.fenced := rfl
@[simp] theorem putHost_sparInbox (s : State) (a : Nat) (bs : List Byte) : (putHost s a bs).sparInbox = s.sparInbox := rfl
@[simp] theorem putHost_reads (s : State) (a : Nat) (bs : List Byte) : (putHost s a bs).reads = s.reads := rfl
@[simp] theorem putHost_acks (s : State) (a : Nat) (bs : List Byte) : (putHost s a bs).acks = s.acks := rfl
@[simp] theorem putHost_ridgeAsked (s : State) (a : Nat) (bs : List Byte) : (putHost s a bs).ridgeAsked = s.ridgeAsked := rfl
@[simp] theorem putHost_ridgeGot (s : State) (a : Nat) (bs : List Byte) : (putHost s a bs).ridgeGot = s.ridgeGot := rfl
@[simp] theorem putHost_now (s : State) (a : Nat) (bs : List Byte) : (putHost s a bs).now = s.now := rfl
@[simp] theorem putHost_free (s : State) (a : Nat) (bs : List Byte) : (putHost s a bs).free = s.free := rfl
@[simp] theorem putHost_pending (s : State) (a : Nat) (bs : List Byte) : (putHost s a bs).pending = s.pending := rfl

/-! ### reserveCq -/

@[simp] theorem reserveCq_grade (s : State) : (reserveCq s).grade = s.grade := rfl
@[simp] theorem reserveCq_crs (s : State) : (reserveCq s).crs = s.crs := rfl
@[simp] theorem reserveCq_rft (s : State) : (reserveCq s).rft = s.rft := rfl
@[simp] theorem reserveCq_trs (s : State) : (reserveCq s).trs = s.trs := rfl
@[simp] theorem reserveCq_eav (s : State) : (reserveCq s).eav = s.eav := rfl
@[simp] theorem reserveCq_cxl (s : State) : (reserveCq s).cxl = s.cxl := rfl
@[simp] theorem reserveCq_tier (s : State) : (reserveCq s).tier = s.tier := rfl
@[simp] theorem reserveCq_saf (s : State) : (reserveCq s).saf = s.saf := rfl
@[simp] theorem reserveCq_pwr (s : State) : (reserveCq s).pwr = s.pwr := rfl
@[simp] theorem reserveCq_sec (s : State) : (reserveCq s).sec = s.sec := rfl
@[simp] theorem reserveCq_cnt (s : State) : (reserveCq s).cnt = s.cnt := rfl
@[simp] theorem reserveCq_pkg (s : State) : (reserveCq s).pkg = s.pkg := rfl
@[simp] theorem reserveCq_prog (s : State) : (reserveCq s).prog = s.prog := rfl
@[simp] theorem reserveCq_progNext (s : State) : (reserveCq s).progNext = s.progNext := rfl
@[simp] theorem reserveCq_upd (s : State) : (reserveCq s).upd = s.upd := rfl
@[simp] theorem reserveCq_lnk (s : State) : (reserveCq s).lnk = s.lnk := rfl
@[simp] theorem reserveCq_enabled (s : State) : (reserveCq s).enabled = s.enabled := rfl
@[simp] theorem reserveCq_fenced (s : State) : (reserveCq s).fenced = s.fenced := rfl
@[simp] theorem reserveCq_sparInbox (s : State) : (reserveCq s).sparInbox = s.sparInbox := rfl
@[simp] theorem reserveCq_reads (s : State) : (reserveCq s).reads = s.reads := rfl
@[simp] theorem reserveCq_acks (s : State) : (reserveCq s).acks = s.acks := rfl
@[simp] theorem reserveCq_ridgeAsked (s : State) : (reserveCq s).ridgeAsked = s.ridgeAsked := rfl
@[simp] theorem reserveCq_ridgeGot (s : State) : (reserveCq s).ridgeGot = s.ridgeGot := rfl
@[simp] theorem reserveCq_now (s : State) : (reserveCq s).now = s.now := rfl
@[simp] theorem reserveCq_free (s : State) : (reserveCq s).free = s.free := rfl
@[simp] theorem reserveCq_pending (s : State) : (reserveCq s).pending = s.pending := rfl

/-! ### answer -/

@[simp] theorem answer_grade (s : State) (r : HostReply) : (answer s r).grade = s.grade := rfl
@[simp] theorem answer_crs (s : State) (r : HostReply) : (answer s r).crs = s.crs := rfl
@[simp] theorem answer_rft (s : State) (r : HostReply) : (answer s r).rft = s.rft := rfl
@[simp] theorem answer_trs (s : State) (r : HostReply) : (answer s r).trs = s.trs := rfl
@[simp] theorem answer_eav (s : State) (r : HostReply) : (answer s r).eav = s.eav := rfl
@[simp] theorem answer_cxl (s : State) (r : HostReply) : (answer s r).cxl = s.cxl := rfl
@[simp] theorem answer_tier (s : State) (r : HostReply) : (answer s r).tier = s.tier := rfl
@[simp] theorem answer_saf (s : State) (r : HostReply) : (answer s r).saf = s.saf := rfl
@[simp] theorem answer_pwr (s : State) (r : HostReply) : (answer s r).pwr = s.pwr := rfl
@[simp] theorem answer_sec (s : State) (r : HostReply) : (answer s r).sec = s.sec := rfl
@[simp] theorem answer_cnt (s : State) (r : HostReply) : (answer s r).cnt = s.cnt := rfl
@[simp] theorem answer_pkg (s : State) (r : HostReply) : (answer s r).pkg = s.pkg := rfl
@[simp] theorem answer_prog (s : State) (r : HostReply) : (answer s r).prog = s.prog := rfl
@[simp] theorem answer_progNext (s : State) (r : HostReply) : (answer s r).progNext = s.progNext := rfl
@[simp] theorem answer_upd (s : State) (r : HostReply) : (answer s r).upd = s.upd := rfl
@[simp] theorem answer_lnk (s : State) (r : HostReply) : (answer s r).lnk = s.lnk := rfl
@[simp] theorem answer_hst (s : State) (r : HostReply) : (answer s r).hst = { s.hst with reads := r :: s.hst.reads } := rfl
@[simp] theorem answer_enabled (s : State) (r : HostReply) : (answer s r).enabled = s.enabled := rfl
@[simp] theorem answer_fenced (s : State) (r : HostReply) : (answer s r).fenced = s.fenced := rfl
@[simp] theorem answer_sparInbox (s : State) (r : HostReply) : (answer s r).sparInbox = s.sparInbox := rfl
@[simp] theorem answer_reads (s : State) (r : HostReply) : (answer s r).reads = s.reads := rfl
@[simp] theorem answer_acks (s : State) (r : HostReply) : (answer s r).acks = s.acks := rfl
@[simp] theorem answer_ridgeAsked (s : State) (r : HostReply) : (answer s r).ridgeAsked = s.ridgeAsked := rfl
@[simp] theorem answer_ridgeGot (s : State) (r : HostReply) : (answer s r).ridgeGot = s.ridgeGot := rfl
@[simp] theorem answer_now (s : State) (r : HostReply) : (answer s r).now = s.now := rfl
@[simp] theorem answer_free (s : State) (r : HostReply) : (answer s r).free = s.free := rfl
@[simp] theorem answer_pending (s : State) (r : HostReply) : (answer s r).pending = s.pending := rfl

/-! ### Drawing a free value -/

@[simp] theorem drawFree_grade (s : State) : (drawFree s).2.grade = s.grade := rfl
@[simp] theorem drawFree_crs (s : State) : (drawFree s).2.crs = s.crs := rfl
@[simp] theorem drawFree_rft (s : State) : (drawFree s).2.rft = s.rft := rfl
@[simp] theorem drawFree_trs (s : State) : (drawFree s).2.trs = s.trs := rfl
@[simp] theorem drawFree_eav (s : State) : (drawFree s).2.eav = s.eav := rfl
@[simp] theorem drawFree_cxl (s : State) : (drawFree s).2.cxl = s.cxl := rfl
@[simp] theorem drawFree_tier (s : State) : (drawFree s).2.tier = s.tier := rfl
@[simp] theorem drawFree_saf (s : State) : (drawFree s).2.saf = s.saf := rfl
@[simp] theorem drawFree_pwr (s : State) : (drawFree s).2.pwr = s.pwr := rfl
@[simp] theorem drawFree_sec (s : State) : (drawFree s).2.sec = s.sec := rfl
@[simp] theorem drawFree_cnt (s : State) : (drawFree s).2.cnt = s.cnt := rfl
@[simp] theorem drawFree_pkg (s : State) : (drawFree s).2.pkg = s.pkg := rfl
@[simp] theorem drawFree_prog (s : State) : (drawFree s).2.prog = s.prog := rfl
@[simp] theorem drawFree_progNext (s : State) : (drawFree s).2.progNext = s.progNext := rfl
@[simp] theorem drawFree_upd (s : State) : (drawFree s).2.upd = s.upd := rfl
@[simp] theorem drawFree_lnk (s : State) : (drawFree s).2.lnk = s.lnk := rfl
@[simp] theorem drawFree_hst (s : State) : (drawFree s).2.hst = s.hst := rfl
@[simp] theorem drawFree_enabled (s : State) : (drawFree s).2.enabled = s.enabled := rfl
@[simp] theorem drawFree_fenced (s : State) : (drawFree s).2.fenced = s.fenced := rfl
@[simp] theorem drawFree_sparInbox (s : State) : (drawFree s).2.sparInbox = s.sparInbox := rfl
@[simp] theorem drawFree_reads (s : State) : (drawFree s).2.reads = s.reads := rfl
@[simp] theorem drawFree_acks (s : State) : (drawFree s).2.acks = s.acks := rfl
@[simp] theorem drawFree_ridgeAsked (s : State) : (drawFree s).2.ridgeAsked = s.ridgeAsked := rfl
@[simp] theorem drawFree_ridgeGot (s : State) : (drawFree s).2.ridgeGot = s.ridgeGot := rfl
@[simp] theorem drawFree_now (s : State) : (drawFree s).2.now = s.now := rfl
@[simp] theorem drawFree_free (s : State) : (drawFree s).2.free = s.free + 1 := rfl
@[simp] theorem drawFree_pending (s : State) : (drawFree s).2.pending = s.pending := rfl

end Sys2Proof.Machine
end

