-- ==== Sys2Proof/Laws/Ops.lean ====
section
/-!
SUPPORT. What each shared operation may change: the operation's result is the state with the named parts replaced. And what
issuing an instruction comes to on a rafter that may issue.
-/

namespace Sys2Proof.Machine

/-! ### Rafters and trusses -/

theorem rafterAt_of {s : State} {p : Nat} {x : Rafter} (h : s.rft[p]? = some x) : rafterAt s p = x := by
  simp [rafterAt, List.getD_eq_getElem?_getD, h]

theorem rafterAt_setRafter {s : State} {p : Nat} {x y : Rafter} (h : s.rft[p]? = some x) :
    rafterAt (setRafter s p y) p = y := by
  have : p < s.rft.length := (List.getElem?_eq_some_iff.1 h).1
  simp [rafterAt, List.getD_eq_getElem?_getD, this]

theorem rafterAt_setRafter_ne {s : State} {p q : Nat} {y : Rafter} (h : q ≠ p) :
    rafterAt (setRafter s p y) q = rafterAt s q := by
  simp [rafterAt, List.getD_eq_getElem?_getD, List.getElem?_set_ne (Ne.symm h)]

theorem setRafter_setRafter (s : State) (p : Nat) (x y : Rafter) : setRafter (setRafter s p x) p y = setRafter s p y := by
  simp [setRafter]

@[simp] theorem physOf_setRafter (s : State) (p : Nat) (x : Rafter) (n : RafterId) :
    physOf (setRafter s p x) n = physOf s n := rfl
@[simp] theorem working_setRafter (s : State) (p : Nat) (x : Rafter) : working (setRafter s p x) = working s := rfl

theorem updRafter_frame (s : State) (n : RafterId) (f : Rafter → Rafter) :
    updRafter s n f = { s with rft := (updRafter s n f).rft } := by
  unfold updRafter; split <;> rfl

theorem hitRafter_frame (x : Rafter) (ev n : Nat) : hitRafter x ev n = { x with ctr := (hitRafter x ev n).ctr } := rfl

theorem Ready.working {s : State} {n : RafterId} {p : Nat} {x : Rafter} (h : Ready s n p x) : working s = true := by
  have := h.works; simp [mayIssue] at this; exact this.1.1

/-! ### Events and faults (R519 to R536) -/

theorem gutterPut_frame (s : State) (g : GutterRec) : gutterPut s g = { s with saf := (gutterPut s g).saf } := by
  unfold gutterPut; split <;> rfl

theorem event_frame (s : State) (u : UnitId) (code : Byte) (w1 w2 : W32) :
    event s u code w1 w2 = { s with saf := (event s u code w1 w2).saf } := gutterPut_frame _ _

theorem sendMsix_frame (s : State) (v : BitVec 6) : sendMsix s v = { s with hst := (sendMsix s v).hst } := by
  unfold sendMsix; split
  · rfl
  · split <;> rfl

/-- What a fault may change: the safety unit, the package's pins, the host port and, where a unit alone is reset, rafters and
trusses. -/
def FaultFrame (s t : State) : Prop := t = { s with saf := t.saf, pkg := t.pkg, hst := t.hst, rft := t.rft, trs := t.trs }

theorem FaultFrame.refl (s : State) : FaultFrame s s := rfl

theorem FaultFrame.trans {s t u : State} (h1 : FaultFrame s t) (h2 : FaultFrame t u) : FaultFrame s u := by
  unfold FaultFrame at *; rw [h2, h1]

theorem faultFrame_gutterPut (s : State) (g : GutterRec) : FaultFrame s (gutterPut s g) := by
  unfold gutterPut; split <;> rfl

theorem faultFrame_sendMsix (s : State) (v : BitVec 6) : FaultFrame s (sendMsix s v) := by
  unfold sendMsix; split
  · rfl
  · split <;> rfl

theorem faultFrame_startReset (s : State) (g : GutterRec) (l : Bool) : FaultFrame s (startReset s g l) := by
  unfold startReset; split
  · rfl
  · dsimp only; split
    · refine FaultFrame.trans ?_ (faultFrame_sendMsix _ _)
      refine FaultFrame.trans ?_ (faultFrame_gutterPut _ _)
      rfl
    · rfl

theorem faultFrame_resetUnit (s : State) (u : UnitId) : FaultFrame s (resetUnit s u) := by
  unfold resetUnit updRafter; split
  · split <;> rfl
  · split <;> rfl

theorem faultFrame_lastingResponse (s : State) (u : UnitId) (code : Byte) (info w1 w2 : W32) :
    FaultFrame s (lastingResponse s u code info w1 w2) := by
  unfold lastingResponse; dsimp only
  split
  · refine FaultFrame.trans ?_ (faultFrame_startReset _ _ _)
    refine FaultFrame.trans ?_ (faultFrame_sendMsix _ _)
    refine FaultFrame.trans ?_ (faultFrame_gutterPut _ _)
    rfl
  · split
    · refine FaultFrame.trans ?_ (faultFrame_sendMsix _ _)
      refine FaultFrame.trans ?_ (faultFrame_gutterPut _ _)
      rfl
    · refine FaultFrame.trans ?_ (faultFrame_resetUnit _ _)
      refine FaultFrame.trans ?_ (faultFrame_sendMsix _ _)
      refine FaultFrame.trans ?_ (faultFrame_gutterPut _ _)
      rfl

theorem faultFrame_resetResponse (s : State) (u : UnitId) (code : Byte) (info w1 w2 : W32) :
    FaultFrame s (resetResponse s u code info w1 w2) := by
  have h : FaultFrame s { gutterPut s (gutterRec s u .reset code info w1 w2) with
      saf := { (gutterPut s (gutterRec s u .reset code info w1 w2)).saf with tainted := true } } :=
    FaultFrame.trans (faultFrame_gutterPut s _) rfl
  unfold resetResponse; dsimp only
  split
  · exact FaultFrame.trans h (faultFrame_startReset _ _ _)
  · split
    · exact h
    · exact FaultFrame.trans h (faultFrame_resetUnit _ _)

theorem faultFrame_transientFault (s : State) (u : UnitId) (code : Byte) (info w1 w2 : W32) :
    FaultFrame s (transientFault s u code info w1 w2) := by
  unfold transientFault; refine FaultFrame.trans ?_ (faultFrame_gutterPut _ _); rfl

theorem faultFrame_retried (s : State) (u : UnitId) (code : Byte) (info w1 w2 : W32) (again : Bool) :
    FaultFrame s (retried s u code info w1 w2 again).1 := by
  unfold retried; split
  · exact faultFrame_lastingResponse _ _ _ _ _ _
  · exact faultFrame_transientFault _ _ _ _ _ _

/-- Once a lasting fault has been raised it is in force. -/
theorem inForce_startReset (s : State) (g : GutterRec) (l : Bool) (e : UnitId × Byte) (h : e ∈ s.saf.inForce) :
    e ∈ (startReset s g l).saf.inForce := by
  unfold startReset; split
  · exact h
  · dsimp only; split
    · rw [sendMsix_frame]; dsimp only
      have : ∀ (a : State) (r : GutterRec), (gutterPut a r).saf.inForce = a.saf.inForce := by
        intro a r; unfold gutterPut; split <;> rfl
      rw [this]; simp [h]
    · exact h

@[simp] theorem gutterPut_inForce (s : State) (g : GutterRec) : (gutterPut s g).saf.inForce = s.saf.inForce := by
  unfold gutterPut; split <;> rfl

@[simp] theorem resetUnit_saf (s : State) (u : UnitId) : (resetUnit s u).saf = s.saf := by
  unfold resetUnit updRafter; split
  · split <;> rfl
  · split <;> rfl

theorem lastingResponse_inForce (s : State) (u : UnitId) (code : Byte) (info w1 w2 : W32) :
    (u, code) ∈ (lastingResponse s u code info w1 w2).saf.inForce := by
  unfold lastingResponse; dsimp only
  split
  · apply inForce_startReset; simp
  · split <;> simp

/-! ### Completions of host commands (R485, R488) -/

theorem sendCpl_frame (s : State) : sendCpl s = { s with hst := (sendCpl s).hst } := by
  unfold sendCpl; split
  · rw [sendMsix_frame]
  · rfl

theorem complete_frame (s : State) (opc : Byte) (tag : W16) (status : Nat) (detail : List Byte) :
    complete s opc tag status detail = { s with hst := (complete s opc tag status detail).hst } := by
  unfold complete; dsimp only
  split
  · split
    · rfl
    · rw [sendCpl_frame]; rfl
  · rfl

/-! ### Spars (R205, R224) -/

theorem sendSpar_frame (s : State) (src : UnitId) (g : W16) (spar : SparId) (op : SparOp) (t : W16) (v : W32) :
    sendSpar s src g spar op t v =
      { s with rft := (sendSpar s src g spar op t v).rft, trs := (sendSpar s src g spar op t v).trs } := by
  unfold sendSpar; dsimp only
  split
  · rw [updRafter_frame]; rfl
  · rfl

theorem signalDone_frame (s : State) (src : UnitId) (g : W16) (spar : SparId) :
    signalDone s src g spar = { s with rft := (signalDone s src g spar).rft, trs := (signalDone s src g spar).trs } := by
  unfold signalDone; split
  · rfl
  · exact sendSpar_frame _ _ _ _ _ _ _

/-! ### Tiers (R405 to R409) -/

theorem setTierEntry_frame (s : State) (x : BitVec 19) (e : Nat) :
    setTierEntry s x e = { s with eav := (setTierEntry s x e).eav } := rfl

theorem tierLookup_frame (s : State) (x : BitVec 19) : (tierLookup s x).1 = { s with eav := (tierLookup s x).1.eav } := by
  unfold tierLookup; dsimp only
  split
  · rfl
  · dsimp only; split <;> rfl

theorem translate_frame (s : State) (who : Option RafterId) (x : BitVec 19) :
    (translate s who x).1 = { s with eav := (translate s who x).1.eav, rft := (translate s who x).1.rft } := by
  unfold translate; split
  · rw [tierLookup_frame]
  · dsimp only; split
    · rw [updRafter_frame]
    · dsimp only; rw [updRafter_frame, tierLookup_frame]

/-! ### The mesh (R325 to R342) -/

/-- What moving flits may change: trusses, and what a fault may change. -/
def MeshFrame (s t : State) : Prop := t = { s with trs := t.trs, saf := t.saf, pkg := t.pkg, hst := t.hst, rft := t.rft }

theorem MeshFrame.refl (s : State) : MeshFrame s s := rfl

theorem MeshFrame.trans {s t u : State} (h1 : MeshFrame s t) (h2 : MeshFrame t u) : MeshFrame s u := by
  unfold MeshFrame at *; rw [h2, h1]

theorem FaultFrame.mesh {s t : State} (h : FaultFrame s t) : MeshFrame s t := by
  unfold FaultFrame at h; unfold MeshFrame; rw [h]

theorem meshFrame_foldl {α : Type} (f : State → α → State) (h : ∀ s a, MeshFrame s (f s a)) (l : List α) (s : State) :
    MeshFrame s (l.foldl f s) := by
  induction l generalizing s with
  | nil => exact .refl s
  | cons a l ih => exact (h s a).trans (ih _)

theorem meshFrame_meshLasting (s : State) (rt code : Nat) (w : W32) : MeshFrame s (meshLasting s rt code w) :=
  MeshFrame.trans (t := updTruss s rt (fun t => noteMesh t code w)) rfl (faultFrame_lastingResponse _ _ _ _ _ _).mesh

theorem meshFrame_pushFlit (s : State) (rt plane : Nat) (fl : Flit) : MeshFrame s (pushFlit s rt plane fl) := by
  unfold pushFlit; dsimp only; split
  · exact (show MeshFrame s (setTruss s rt _) from rfl).trans (meshFrame_meshLasting _ _ _ _)
  · rfl

theorem meshFrame_receive (s : State) (rt port plane : Nat) (out : Bool) (fl : Flit) :
    MeshFrame s (receive s rt port plane out fl) := by
  unfold receive acceptFlit; split
  · rfl
  · split
    · exact meshFrame_meshLasting _ _ _ _
    · exact meshFrame_pushFlit _ _ _ _

theorem meshFrame_countSent (s : State) (w : Sender) : MeshFrame s (countSent s w) := by
  unfold countSent; split <;> rfl

theorem meshFrame_taken (s : State) (w : Sender) (l : List Flit) : MeshFrame s (setSendQueue (countSent s w) w l) :=
  (meshFrame_countSent s w).trans rfl

theorem meshFrame_arriveNext (s : State) (rt port plane : Nat) (out : Bool) (w : Sender) (err : BitVec 20) :
    MeshFrame s (arriveNext s rt port plane out w err) := by
  unfold arriveNext; dsimp only
  split
  · split
    · rfl
    · split
      · rfl
      · exact (meshFrame_taken _ _ _).trans rfl
  · split
    · split
      · rfl
      · split
        · exact (show MeshFrame s (setReplay s w _) from rfl).trans (meshFrame_receive _ _ _ _ _ _)
        · rfl
    · split
      · rfl
      · split
        · exact (meshFrame_taken _ _ _).trans rfl
        · split
          · exact (meshFrame_taken _ _ _).trans (meshFrame_receive _ _ _ _ _ _)
          · rfl

theorem meshFrame_exitOnce (rt port plane : Nat) (s : State) : MeshFrame s (exitOnce rt port plane s) := by
  unfold exitOnce; split
  · split
    · rfl
    · exact meshFrame_arriveNext _ _ _ _ _ _ _
  · rfl

theorem meshFrame_injectOnce (rt port plane : Nat) (s : State) : MeshFrame s (injectOnce rt port plane s) := by
  unfold injectOnce; split
  · split
    · rfl
    · refine MeshFrame.trans ?_ (meshFrame_arriveNext _ _ _ _ _ _ _)
      split <;> rfl
  · rfl

theorem meshFrame_moveOnce (rt port plane : Nat) (s : State) : MeshFrame s (moveOnce rt port plane s) :=
  (meshFrame_exitOnce _ _ _ _).trans (meshFrame_injectOnce _ _ _ _)

theorem meshFrame_moveRouter (s : State) (rt : Nat) : MeshFrame s (moveRouter s rt) := by
  unfold moveRouter; split
  · exact meshFrame_foldl _ (fun a port => meshFrame_foldl _ (fun b plane => meshFrame_moveOnce _ _ _ _) _ _) _ _
  · rfl

theorem meshFrame_drainMesh (s : State) (c : Nat) : MeshFrame s (drainMesh s c) := by
  unfold drainMesh; split
  · rfl
  · exact meshFrame_foldl _ (fun a _ => meshFrame_foldl _ meshFrame_moveRouter _ _) _ _

/-! ### Time -/

theorem tick_now (s : State) : (tick s).now = s.now + 1 := by
  unfold tick; dsimp only; rw [meshFrame_drainMesh]; split <;> rfl

/-! ### Issue (R88 to R92) -/

/-- An instruction that takes a place in its unit's queue issues where the queue has one and nothing holds it. -/
theorem issue_posted {s : State} {n : RafterId} {p : Nat} {x : Rafter} {u : Nat} {q : List InFlight}
    {fire : Rafter → Option (BitVec 4)} {eff : Nat → Rafter → State}
    (h : Ready s n p x) (hr : Room x u q) (hf : fire x = none) : issue s n u true fire eff = eff p x := by
  have hw := h.works
  have hq : unitQ x u = q := by simp [unitQ, List.getD_eq_getElem?_getD, hr.1]
  have h4 : ¬ (4 ≤ q.length) := by have := hr.2; omega
  unfold issue; rw [h.place]
  simp only [rafterAt_of h.state, hw, stallOf, h.noSlot, h.noWait, h.noEnd, hf, hq]
  simp [h4]

/-- An instruction that takes no place issues where nothing holds it. -/
theorem issue_direct {s : State} {n : RafterId} {p : Nat} {x : Rafter} {u : Nat}
    {fire : Rafter → Option (BitVec 4)} {eff : Nat → Rafter → State}
    (h : Ready s n p x) (hf : fire x = none) : issue s n u false fire eff = eff p x := by
  have hw := h.works
  unfold issue; rw [h.place]
  simp only [rafterAt_of h.state, hw, stallOf, h.noSlot, h.noWait, h.noEnd, hf]
  simp

/-- An instruction whose firing condition does not hold shows why. -/
theorem issue_stalled {s : State} {n : RafterId} {p : Nat} {x : Rafter} {u : Nat} {k : BitVec 4}
    {fire : Rafter → Option (BitVec 4)} {eff : Nat → Rafter → State}
    (h : Ready s n p x) (hf : fire x = some k) :
    issue s n u false fire eff = setRafter s p { x with seq := { x.seq with stall := k } } := by
  have hw := h.works
  unfold issue; rw [h.place]
  simp only [rafterAt_of h.state, hw, stallOf, h.noSlot, h.noWait, h.noEnd, hf]
  simp

/-- Nothing issues on a rafter that rests. -/
theorem issue_resting {s : State} {n : RafterId} {u : Nat} {post : Bool}
    {fire : Rafter → Option (BitVec 4)} {eff : Nat → Rafter → State}
    (h : Resting s n) : issue s n u post fire eff = s := by
  unfold issue; rcases h with h | h
  · rw [h]
  · split
    · rfl
    · rename_i p hp
      have : mayIssue s (rafterAt s p) = false := by simpa [rafterOf, hp] using h
      simp [this]

theorem advanced_fallsThrough (x : Rafter) : FallsThrough x (advanced x) := by
  refine ⟨rfl, ?_⟩
  intro h
  unfold NoLoopEnds at h
  simp only [advanced, hitRafter, afterIssue]
  cases hl : x.seq.loops with
  | nil => simp [takeLoops]
  | cons l ls => have := h l (by simp [hl]); simp [takeLoops, this]

/-! ### The sequencer's queue (R204) -/

theorem nextJob_done {q : List InFlight} (hq : AllDone q) (i : Nat) : nextJob q i = none := by
  induction q generalizing i with
  | nil => simp [nextJob]
  | cons a q ih => simp [nextJob, hq a (by simp), ih (fun b hb => hq b (by simp [hb]))]

/-- Behind instructions that have finished, the one that waits is the next to begin. -/
theorem nextJob_append {q : List InFlight} (hq : AllDone q) (e : InFlight) (i : Nat) (j : UnitJob)
    (hd : e.done = false) (hj : e.job = some j) : nextJob (q ++ [e]) i = some (i + q.length, e, j) := by
  induction q generalizing i with
  | nil => simp [nextJob, hd, hj]
  | cons a q ih =>
    have ha : a.done = true := hq a (by simp)
    have := ih (fun b hb => hq b (by simp [hb])) (i := i + 1)
    simp [nextJob, ha, this]; omega

/-- No CRS.END.D waits among instructions that have finished. -/
theorem endWaits_done {x : Rafter} {q : List InFlight} (hu : unitQ x 0 = q) (hq : AllDone q) : endWaits x = false := by
  unfold endWaits; rw [hu]
  simp only [List.any_eq_false]; intro e he; simp [hq e he]

/-- An instruction that enters the sequencer's queue behind finished ones begins at once. -/
theorem enqueue_begins {s : State} {n : RafterId} {p : Nat} {x y : Rafter} {q : List InFlight} (h : Ready s n p x)
    (hr : Room x 0 q) (hq : AllDone q) (f : Frame) (kind : Await) (j : UnitJob) (place : Nat) (hu : y.units = x.units) :
    enqueue s n p f kind j place y =
      (let e := { flight f kind false with job := some j, place := place }
       startJobs 3 (doJob (setRafter s p { y with units := x.units.set 0 (q ++ [e]) }) n p q.length e j) n) := by
  unfold enqueue startSeq
  have hl : 0 < x.units.length := (List.getElem?_eq_some_iff.1 hr.1).1
  have hu0 : unitQ y 0 = q := by simp [unitQ, List.getD_eq_getElem?_getD, hu, hr.1]
  have e1 : placed y 0 { flight f kind false with job := some j, place := place } =
      { y with units := x.units.set 0 (q ++ [{ flight f kind false with job := some j, place := place }]) } := by
    simp [placed, setUnitQ, hu0, hu, endWaits_done hu0 hq]; rfl
  rw [e1, startJobs, physOf_setRafter, h.place, working_setRafter, h.working]
  simp only [rafterAt_setRafter h.state]
  have : unitQ { y with units := x.units.set 0 (q ++ [{ flight f kind false with job := some j, place := place }]) } 0 =
      q ++ [{ flight f kind false with job := some j, place := place }] := by
    simp [unitQ, List.getD_eq_getElem?_getD, hl]
  rw [this, nextJob_append hq _ _ j rfl rfl]
  simp

end Sys2Proof.Machine
end

