-- ==== Sys2Proof/Tests/Slice0.lean ====
section
/-!
SUPPORT. Tests: instruction words written out from the spec's encodings, ill-formed commands that the checks refuse, and
for each statement with hypotheses a state and operands that meet them.
-/

namespace Sys2Proof.Tests

open Sys2Proof Sys2Proof.Machine

-- Theorems are elaborated one after another: many closed facts at once would each hold a thread.
set_option Elab.async false

/-! ### Small states and operands -/

/-- A frame that fires at once and signals nothing. -/
def fr : Frame := { fire := .none, chain := false, cspar := 0xFFFF }

/-- A descriptor: four FP32 elements in one row and one plane, rows 4 bytes apart, and as a tensor shape M = 2, N = 2,
K = 3 with rows 12 bytes apart. -/
def descA : BitVec 512 :=
  BitVec.ofNat 512 (4 * 2 ^ 32 + 1 * 2 ^ 48 + 1 * 2 ^ 64 + 4 * 2 ^ 96 + 4 * 2 ^ 160 +
    (2 + 2 * 2 ^ 7 + 3 * 2 ^ 14) * 2 ^ 224 + 12 * 2 ^ 256 + 12 * 2 ^ 288)

/-- A descriptor of one column: four rows of one element, 4 bytes apart. -/
def descB : BitVec 512 := BitVec.ofNat 512 (1 * 2 ^ 32 + 4 * 2 ^ 48 + 1 * 2 ^ 64 + 4 * 2 ^ 96 + 4 * 2 ^ 160)

/-- A descriptor for row instructions: one row of four elements. -/
def descC : BitVec 512 := BitVec.ofNat 512 ((1 + 4 * 2 ^ 15) * 2 ^ 224 + 4 * 2 ^ 256)

/-- A rafter whose generators 1 to 4 stand in the scratchpad at 64, 1024, 2048 and 0, and 5 at the unified range's start. -/
def rafterA : Rafter :=
  let g := fun (b : BitVec 43) => { Ag.reset with base := b, limit := 0x100000 }
  { Rafter.reset with
    scratch := [(0, 1), (64, 1), (68, 2), (72, 3), (76, 4)]
    descs := [(0, descA), (1, descB), (2, descC)]
    seq := { Seq.reset with
      ags := [Ag.reset, g 64, g 1024, g 2048, g 0, { g 0 with space := .unified }] ++ List.replicate 10 Ag.reset
      sh := [5, 0, 2, 1 + 3 * 2 ^ 15, 7, 8192, 0, 0] } }

/-- A device that runs a program in the body of a course, with the rafter `x` at position 0. -/
def runs (x : Rafter) : State :=
  { State.reset with
    crs := { Crs.reset with running := true, phase := 2 }
    rft := [x], trs := [Truss.reset] }

theorem place_zero : physOf State.reset 0 = some 0 := by decide +kernel

theorem ready_runs (x : Rafter) (h1 : x.hold = false) (h2 : x.idle = false) (h3 : x.seq.slotReq = false)
    (h4 : x.seq.waiting = false) (h5 : x.seq.ended = false) : Ready (runs x) 0 0 x :=
  ⟨place_zero, rfl, by simp [mayIssue, h1, h2]; rfl, h3, h4, h5⟩

theorem readyA : Ready (runs rafterA) 0 0 rafterA := ready_runs rafterA rfl rfl rfl rfl rfl
theorem placeA : physOf (runs rafterA) 0 = some 0 ∧ (runs rafterA).rft[0]? = some rafterA := ⟨rfl, rfl⟩

/-- An entry of an issue queue, done. -/
def doneEntry : InFlight :=
  { cspar := 0xFFFF, kind := .none, done := true, acks := 0, tag := 0, job := none, place := 0, after := false, resv := none
    span := none, old := [] }

theorem roomA (u : Nat) (h : u < 10) : Room rafterA u [] := by
  have : ∀ v, v < 10 → rafterA.units[v]? = some [] := by decide
  exact ⟨this u h, by decide⟩

/-! ### The machine and the sequencer -/

theorem witness_StepRunsFront : ∃ (c : Instr) (rest : List Instr) (s : State), s.pending = c :: rest :=
  ⟨.powerLoss, [.courseStart], { State.reset with pending := [.powerLoss, .courseStart] }, rfl⟩

theorem witness_EmptyQueueTicks : State.reset.pending = [] ∧ ∀ k ∈ State.reset.trs, meshBusy k = false :=
  ⟨rfl, by decide +kernel⟩

theorem witness_AtIssueInstructionsComplete :
    Ready (runs rafterA) 0 0 rafterA ∧ rafterA.seq.ags[(15 : BitVec 4).toNat]? = some Ag.reset ∧
    ({ sh := 7, src := false, value := 3, ag := 1 } : SetShOps).src = false := ⟨readyA, rfl, rfl⟩

/-- A rafter that awaits a POLL, and one whose innermost loop ends at the instruction that is next. -/
def polls : Rafter := { rafterA with seq := { rafterA.seq with asks := [.pollGe 1 none] } }
def loopOps (shp : Shp) (n : BitVec 24) : LoopOps := { lc := 7, endIdx := 9, shp := shp, count := n }
def inLoop (left : Nat) : Seq := { Seq.reset with loops := [{ lc := 7, first := 0, last := 0, left := left }] }

theorem witness_BranchesAndLoops :
    (Ready (runs polls) 0 0 polls ∧ BrCond.pollSet ≠ .always ∧ polls.seq.asks ≠ []) ∧
    (Ready (runs rafterA) 0 0 rafterA ∧ rafterA.seq.asks = [] ∧ (∀ e ∈ unitQ rafterA 0, pollsLater e = false) ∧
      brTaken .pollClear rafterA = true ∧ brTaken .pollSet rafterA = false) ∧
    (4 : BitVec 24).toNat < shapeValue rafterA (.reg 0) 4 ∧
    (shapeValue rafterA (.reg 0) 5 ≤ (5 : BitVec 24).toNat ∧ 0 < shapeValue rafterA (.reg 0) 5) ∧
    (shapeValue rafterA (.reg 1) 5 = 0 ∧ (∀ l, rafterA.seq.loops.head? = some l → l.last ≠ (9 : BitVec 10).toNat)) ∧
    ((inLoop 2).loops = [{ lc := 7, first := 0, last := 0, left := 2 }] ∧ (inLoop 1).loops = [{ lc := 7, first := 0, last := 0, left := 1 }] ∧
      (inLoop 1).idx = 0) :=
  ⟨⟨ready_runs _ rfl rfl rfl rfl rfl, by decide, by decide⟩, ⟨readyA, rfl, by decide, rfl, rfl⟩, by decide, by decide,
    ⟨by decide, by intro l h; cases h⟩, rfl, rfl, rfl⟩

/-- A rafter that awaits a slot switch, and one that awaits a spar. -/
def awaitsSlot : Rafter := { rafterA with seq := { rafterA.seq with slotReq := true } }
def awaitsSpar : Rafter := { rafterA with seq := { rafterA.seq with waiting := true } }

/-- A rafter that has issued CRS.END. -/
def hasEnded : Rafter := { rafterA with seq := { rafterA.seq with ended := true } }

theorem witness_NothingIssuesWhileHeld :
    (issuer (.nop 0 fr) = some 0 ∧ Resting State.reset 0 ∧ Resting (runs { rafterA with idle := true }) 0 ∧
      Resting (runs rafterA) 96) ∧
    (physOf (runs awaitsSlot) 0 = some 0 ∧ (runs awaitsSlot).rft[0]? = some awaitsSlot ∧
      mayIssue (runs awaitsSlot) awaitsSlot = true ∧ awaitsSlot.seq.slotReq = true) ∧
    (physOf (runs awaitsSpar) 0 = some 0 ∧ (runs awaitsSpar).rft[0]? = some awaitsSpar ∧
      mayIssue (runs awaitsSpar) awaitsSpar = true ∧ awaitsSpar.seq.waiting = true) ∧
    (physOf (runs hasEnded) 0 = some 0 ∧ (runs hasEnded).rft[0]? = some hasEnded ∧
      mayIssue (runs hasEnded) hasEnded = true ∧ hasEnded.seq.ended = true) :=
  ⟨⟨rfl, .inr (by decide +kernel), .inr (by decide +kernel), .inl (by decide +kernel)⟩, ⟨rfl, rfl, by decide, rfl⟩,
    ⟨rfl, rfl, by decide, rfl⟩, ⟨rfl, rfl, by decide, rfl⟩⟩

theorem witness_SparInstructions :
    ((0 : Nat) < 96 ∧ physOf (runs rafterA) 0 = some 0 ∧ (runs rafterA).rft[0]? = some rafterA ∧
      (runs rafterA).trs[(0x0FFF : SparId).toNat / 4096]? = some Truss.reset) ∧
    (Ready (runs rafterA) 0 0 rafterA ∧ Room rafterA 0 [] ∧ AllDone []) ∧
    ((scratchWordAt rafterA 1).isSome = true) :=
  ⟨by decide +kernel, ⟨readyA, roomA 0 (by decide), by intro e h; cases h⟩, by decide⟩

/-- SETSH operands that read through generator 1. -/
def setShOps : SetShOps := { sh := 7, src := true, value := 0, ag := 1 }

/-- A rafter whose active slot 0 has input queue 0 and output queues 0 and 1, of depth 4; output queue 1 is bound to the
own stream engine, and output queue 0 has a credit for its route. -/
def bound : Rafter :=
  { rafterA with
    slotDesc := BitVec.ofNat 32 (1 + 1 * 2 ^ 11 + 2 ^ 14 + 3 * 2 ^ 22) :: List.replicate 7 0
    depth := List.replicate 16 4
    route := [(8, BitVec.ofNat 32 (2 ^ 31)), (9, BitVec.ofNat 32 (2 ^ 31 + 2 ^ 19))]
    oq := { Queue.reset with held := [(0, 1)] } :: List.replicate 7 Queue.reset }

theorem witness_SequencerReadsAndHips :
    (Ready (runs rafterA) 0 0 rafterA ∧ Room rafterA 0 [] ∧ setShOps.src = true ∧
      scratchWordAt rafterA setShOps.ag = some 64) ∧
    (agOf rafterA 5).space ≠ .scratch ∧
    (Ready (runs bound) 0 0 bound ∧ Room bound 0 [] ∧ AllDone [] ∧
      (∀ k, k < 8 → (0x03 : Byte).getLsbD k = true → CanSendHip bound k) ∧
      (∀ k, k < 8 → (hipsDue bound).getLsbD k = true → CanSendHip bound k) ∧ hipsDue bound = 3) :=
  ⟨⟨readyA, roomA 0 (by decide), rfl, by decide⟩, by decide,
    ⟨ready_runs _ rfl rfl rfl rfl rfl, ⟨rfl, by decide⟩, (by intro e h; cases h), by unfold CanSendHip; decide +kernel,
      by unfold CanSendHip; decide +kernel, by decide +kernel⟩⟩

/-- The same with SLOT issued, the switch due, and the input queue's hip token and that of the stream engine's queue
there. -/
def hipTok : Token := mkToken 2 0 0 0 0 false (hipData 0 0)
def switches : Rafter :=
  let q := { Queue.reset with tokens := [hipTok], hipOk := true }
  { bound with
    seq := { rafterA.seq with slotReq := true }
    units := [{ doneEntry with kind := .switch, done := false }] :: List.replicate 9 []
    iq := q :: List.replicate 7 Queue.reset
    oq := Queue.reset :: { Queue.reset with hipOk := true } :: List.replicate 6 Queue.reset }

/-- The same before its tokens have come, and with the stream engine's one at the head. -/
def early : Rafter := { switches with iq := List.replicate 8 Queue.reset }
def seHead : Rafter :=
  { switches with
    oq := Queue.reset :: { Queue.reset with tokens := [hipTok], hipSent := true } :: List.replicate 6 Queue.reset }

theorem witness_SlotSwitchAndHips :
    (physOf (runs switches) 0 = some 0 ∧ (runs switches).rft[0]? = some switches ∧ working (runs switches) = true ∧
      switches.seq.slotReq = true ∧ slotDrained switches = true ∧ overruns switches = [] ∧ hipsReady switches = true ∧
      switches.routine.getLsbD switches.seq.slot.toNat = false) ∧
    rafterA.seq.slotReq = false ∧ slotDrained { switches with units := List.replicate 10 [] } = false ∧
    (overruns early = [] ∧ hipsReady early = false) ∧
    (physOf (runs seHead) 0 = some 0 ∧ (runs seHead).rft[0]? = some seHead ∧ working (runs seHead) = true ∧
      seHead.seq.slotReq = true ∧ seHead.seq.seHips = false ∧ unitQ seHead 1 = [] ∧ seHeads seHead = [1] ∧
      ∀ k ∈ seHeads seHead, hipDiffers seHead k = false) := by
  decide +kernel

/-! ### Steering and draining -/

def steerOps (shp : Shp) : SteerOps :=
  { stu := 3, n := 1, q0 := 1, q1 := 2, q2 := 0, q3 := 0, cq := 0, xq := 5, steps := 4, shp := shp, shw := false, shwi := 0 }

theorem witness_SteeringInstructionsSetAMode :
    Ready (runs rafterA) 0 0 rafterA ∧ Room rafterA (5 + (steerOps .planned).stu.toNat) [] ∧
    rafterA.stu[3]? = some Stu.reset ∧ fr.fire = .none ∧
    (steerOps (.reg 0)).steps.toNat < shapeValue rafterA (.reg 0) 4 ∧ shapeValue rafterA (.reg 1) 4 = 0 ∧
    shapeValue rafterA .planned 4 ≤ 4 ∧ 0 < shapeValue rafterA .planned 4 :=
  ⟨readyA, roomA 8 (by decide), rfl, rfl, by decide, by decide, by decide, by decide⟩

/-- A control token that names the first queue and the data token with SEQ 9. -/
def ctlTok : Token := mkToken 1 0 0 0 0 false (bytesOf 8 (9 * 2 ^ 16))
def dataTok (seq : W16) : Token := mkToken 0 seq 0 0 0 false [1, 2, 3, 4]
def steers (mode : BitVec 3) (seq : W16) (cs : List Token) : Rafter :=
  let u : Stu := { mode := mode, ops := steerOps .planned, left := 4, place := 3, part := 0, later := [] }
  { rafterA with
    stu := List.replicate 3 Stu.reset ++ [u]
    depth := List.replicate 16 4
    iq := [{ Queue.reset with tokens := cs }, { Queue.reset with tokens := [dataTok seq] }] ++
      List.replicate 3 Queue.reset ++ [{ Queue.reset with tokens := [dataTok seq] }] ++ List.replicate 2 Queue.reset }

theorem witness_SteeringSteps :
    (let x := steers 1 9 [ctlTok]
     physOf (runs x) 0 = some 0 ∧ (runs x).rft[0]? = some x ∧ working (runs x) = true ∧
     x.stu[3]? = some { mode := 1, ops := steerOps .planned, left := 4, place := 3, part := 0, later := [] } ∧
     x.iq[0]? = some { Queue.reset with tokens := [ctlTok] } ∧ isControl ctlTok = true ∧
     (steerQueues (steerOps .planned))[ctlSel ctlTok]? = some 1 ∧ (1 : Nat) ≠ (steerOps .planned).cq.toNat ∧
     x.iq[1]? = some { Queue.reset with tokens := [dataTok 9] } ∧ isData (dataTok 9) = true ∧
     tokSeq (dataTok 9).hdr = ctlDseq ctlTok ∧ x.oq[5]? = some Queue.reset ∧ Queue.reset.hipSent = false ∧
     0 < stepRoom x 5) ∧
    (iqOf (steers 2 9 []) 0).tokens = [] ∧
    (let x := steers 2 8 [ctlTok]
     (iqOf x 0).tokens.head? = some ctlTok ∧ (iqOf x 5).tokens.head? = some (dataTok 8) ∧ isData (dataTok 8) = true ∧
     ctlSel ctlTok < (steerQueues (steerOps .planned)).length ∧ tokSeq (dataTok 8).hdr ≠ ctlDseq ctlTok) := by
  decide +kernel

def drained : Queue := { Queue.reset with tokens := [], fired := 1 }
def drainOps : DrainOps := { iq := 1, count := 1, shp := .planned, need := 0 }

theorem witness_DrainConsumes :
    (let x := steers 1 9 []
     Ready (runs x) 0 0 x ∧ Room x 0 [] ∧ x.seq.drain = none ∧
     x.iq[drainOps.iq.toNat]? = some { Queue.reset with tokens := [dataTok 9] } ∧
     shapeValue x .planned 1 ≤ 1 ∧ (∀ t ∈ [dataTok 9], isData t = true) ∧
     KindsFit { x with iq := x.iq.set drainOps.iq.toNat drained }) :=
  ⟨ready_runs _ rfl rfl rfl rfl rfl, ⟨rfl, by decide⟩, rfl, rfl, by decide, by decide +kernel,
    by unfold KindsFit; decide +kernel⟩

/-! ### Streams -/

def streamOps (shp : Shp) (d : Byte) : StreamOps :=
  { sag := 1, dag := 2, sq := false, dq := false, qi := 0, desc := d, shp := shp, dtype := .fp32, rnd := false
    sat := false, iag := 4 }

theorem move (op : StreamOp) (d : Byte) (d0 d1 : Nat) (h : dType (descOf rafterA d) = .fp32 ∧
    dD2 (descOf rafterA d) = 1 ∧ dPadw (descOf rafterA d) = false ∧
    dD0 (descOf rafterA d) + dD1 (descOf rafterA d) * 2 ^ 16 = d0 + d1 * 2 ^ 16 ∧
    0 < d0 ∧ d0 ≤ dD0 (descOf rafterA d) ∧ 0 < d1 ∧ d1 ≤ dD1 (descOf rafterA d) ∧
    streamBoundsOk rafterA (jobOf rafterA op (streamOps .planned d) .pass (d0 + d1 * 2 ^ 16)) (streamOps .planned d) = true) :
    ScratchMove rafterA op (streamOps .planned d) d0 d1 :=
  ⟨⟨h.1, rfl⟩, ⟨rfl, rfl⟩, ⟨rfl, rfl⟩, h.2.1, h.2.2.1, h.2.2.2.1,
    ⟨h.2.2.2.2.1, h.2.2.2.2.2.1, h.2.2.2.2.2.2.1, h.2.2.2.2.2.2.2.1⟩, h.2.2.2.2.2.2.2.2⟩

theorem witness_TransfersCopy :
    Ready (runs rafterA) 0 0 rafterA ∧ Room rafterA 1 [] ∧ AllDone [] ∧ rafterA.jobs = [] ∧
    ScratchMove rafterA .load (streamOps .planned 0) 4 1 ∧ ScratchMove rafterA .store (streamOps .planned 0) 4 1 ∧
    ScratchMove rafterA .xload (streamOps .planned 1) 1 4 ∧
    (∀ op ∈ [StreamOp.load, .store, .xload, .gather, .scatter, .scatterAdd],
      (let d := descOf rafterA 0
       let j := jobOf rafterA op (streamOps .planned 0) .pass (shapeValue rafterA .planned (dD0 d + dD1 d * 2 ^ 16))
       0 < j.d0 ∧ j.d0 ≤ dD0 d ∧ 0 < j.d1 ∧ j.d1 ≤ dD1 d ∧ mxRowOk (dType d) j.d0 = true ∧
       streamBoundsOk rafterA j (streamOps .planned 0) = true)) :=
  ⟨readyA, roomA 1 (by decide), fun e h => by (cases h), rfl, move _ _ _ _ (by decide +kernel),
    move _ _ _ _ (by decide +kernel), move _ _ _ _ (by decide +kernel), by decide +kernel⟩

theorem witness_IndexedTransfersAndShapes :
    (ScratchMove rafterA .gather (streamOps .planned 0) 4 1 ∧ ScratchMove rafterA .scatter (streamOps .planned 0) 4 1 ∧
      ScratchMove rafterA .scatterAdd (streamOps .planned 0) 4 1) ∧
    (let o := streamOps .planned 0
     indexWord rafterA o = 1 ∧
     indexBad (agOf rafterA o.sag) 1 (agAddr rafterA o.sag + 1 * dSrs (descOf rafterA o.desc)) 16 = false ∧
     indexBad (agOf rafterA o.dag) 1 (agAddr rafterA o.dag + 1 * dDrs (descOf rafterA o.desc)) 16 = false) ∧
    dD0 (descOf rafterA 0) < shapeValue rafterA (.reg 0) 0 % 2 ^ 16 ∧ shapeValue rafterA (.reg 1) 0 % 2 ^ 32 = 0 :=
  ⟨⟨move _ _ _ _ (by decide +kernel), move _ _ _ _ (by decide +kernel), move _ _ _ _ (by decide +kernel)⟩,
    by decide +kernel, by decide +kernel, by decide +kernel⟩

def updOps (shp : Shp) : UpdOps := { group := 3, shard := 5, src := .valley, vt0 := 62, vtn := 2, sag := 0, shp := shp }

/-- Tiles 62 and 63 have been written. -/
def tiles : Rafter := { rafterA with dirty := 0xC000000000000000 }

theorem unguarded (x : Rafter) (g : BitVec 8) : (groupAt (runs x) g).guarded = false := rfl

theorem witness_PrefetchAndUpdIssue :
    (Ready (runs rafterA) 0 0 rafterA ∧ Room rafterA 1 [] ∧ rafterA.jobs = [] ∧ rafterA.prefetch.length < 16 ∧
      (agOf rafterA 5).space = .unified ∧ agOk rafterA 5 (agAddr rafterA 5) 1 = true) ∧
    (let x := { rafterA with prefetch := [(7, 2, 0)] }
     physOf (runs x) 0 = some 0 ∧ (runs x).rft[0]? = some x ∧ (runs x).saf.resetReq = none ∧ x.prefetch = [(7, 2, 0)]) ∧
    (Ready (runs tiles) 0 0 tiles ∧ Room tiles 9 [] ∧ (runs tiles).saf.hold = false ∧ (runs tiles).upd.lstop = false ∧
      shapeValue tiles .planned 2 = 2 ∧ NoJobs (unitQ tiles 2) ∧ UpdUnit.reset.jobs = [] ∧
      mayRead tiles (updOps .planned) 2 = true ∧
      (runs tiles).upd.units[receiver (runs tiles) (shEave (shardEntry (runs tiles) 5))]? = some UpdUnit.reset ∧
      (∀ j, j < 2 → tiles.dirty.getLsbD (((62 : BitVec 6).toNat + j) % 64) = true)) ∧
    (agSpanOk rafterA 1 (agAddr rafterA 1)
      (agAddr rafterA 1 + ((4 * shElems (shardEntry (runs rafterA) 5) : Nat) : Int)) = true) ∧
    (shapeValue tiles (.reg 1) 2 = 0 ∧ 0 < shapeValue tiles (.reg 2) 2 ∧ shapeValue tiles (.reg 2) 2 ≤ 2) ∧
    (let held := { runs rafterA with saf := { (runs rafterA).saf with hold := true } }
     let stopped := { runs rafterA with upd := { (runs rafterA).upd with lstop := true } }
     Ready held 0 0 rafterA ∧ held.saf.hold = true ∧ Ready stopped 0 0 rafterA ∧ stopped.saf.hold = false ∧
     stopped.upd.lstop = true) :=
  ⟨⟨readyA, roomA 1 (by decide), rfl, by decide, rfl, by decide⟩, ⟨rfl, rfl, rfl, rfl⟩,
    ⟨ready_runs _ rfl rfl rfl rfl rfl, ⟨rfl, by decide⟩, rfl, rfl, by decide, (by intro e h; cases h), rfl, by decide, rfl,
      by decide⟩, by decide +kernel, by decide,
    ⟨⟨rfl, rfl, by decide, rfl, rfl, rfl⟩, rfl, ⟨rfl, rfl, by decide, rfl, rfl, rfl⟩, rfl, rfl⟩⟩

/-! ### Collectives and the end of a course's work -/

/-- A device of two members along the data axis, with a descriptor of 8,192 FP32 elements, and extent 0 RESIDENT. -/
def pair (x : Rafter) : State :=
  let s := runs x
  { s with
    lnk := { s.lnk with nd := 2, cdesc := [(0, BitVec.ofNat 512 (8192 * 2 ^ 64))] }
    eav := { Eave.reset with hbm := [(resvBase, 1)] } :: List.replicate 7 Eave.reset }

def collOps (shp : Shp) : CollOps := { cdesc := 0, sag := 5, dag := 5, shp := shp, rspar := 0, flag := true }

theorem witness_Collectives :
    (Ready (pair rafterA) 0 0 rafterA ∧ Room rafterA 9 []) ∧
    (let d := cdOf (pair rafterA) 0
     cdCount d = 8192 ∧ shapeValue rafterA .planned (cdCount d) % (4096 * axisSize (pair rafterA).lnk (cdAxis d)) = 0 ∧
     shapeValue rafterA (.reg 1) (cdCount d) = 0 ∧ 2 ≤ axisSize (pair rafterA).lnk (cdAxis d) ∧ cdComp d = 0 ∧
     agSpanOk rafterA 5 (agAddr rafterA 5) (agAddr rafterA 5 + vectorBytes (cdStype d) 8192) = true ∧
     agSpanOk rafterA 5 (agAddr rafterA 5) (agAddr rafterA 5 + 4) = true ∧
     (∀ l ∈ (pair rafterA).lnk.ports, l.staged = []) ∧ (pair rafterA).lnk.insts = [] ∧
      (match (unifiedRead (pair rafterA) none 0 (vectorBytes (cdStype d) 8192)).2 with
      | .ok bs => bs.length | _ => 0) = 32768) ∧
    (let held := { pair rafterA with saf := { (pair rafterA).saf with hold := true } }
     Ready held 0 0 rafterA ∧ held.saf.hold = true) :=
  ⟨⟨⟨rfl, rfl, by decide, rfl, rfl, rfl⟩, roomA 9 (by decide)⟩, by decide +kernel,
    ⟨⟨rfl, rfl, by decide, rfl, rfl, rfl⟩, rfl⟩⟩

/-- A rafter that has executed CRS.END.D in the course. -/
def decided : Rafter := { rafterA with decision := true, seq := { rafterA.seq with decDone := true } }

/-- A rafter whose tensor array holds one instruction. -/
def busy (e : InFlight) : Rafter := { rafterA with units := rafterA.units.set 2 [e] }

/-- Rafter 0 marked for the decision phase, alone and beside another that has still to end its decision work. -/
def marked : Rafter := { rafterA with decision := true }
def inDecision (l : List Rafter) : State :=
  { State.reset with crs := { Crs.reset with running := true, phase := 1 }, rft := l, trs := [Truss.reset] }

theorem witness_CourseWorkEnds :
    (Ready (runs rafterA) 0 0 rafterA ∧ Room rafterA 0 [] ∧ (∀ l ∈ rafterA.units, l = []) ∧ rafterA.decision = false ∧
      rafterA.seq.decDone = false ∧ endWaits rafterA = false ∧ (runs rafterA).saf.queue.length < 224) ∧
    (Ready (runs (busy doneEntry)) 0 0 (busy doneEntry) ∧ Room (busy doneEntry) 0 [] ∧
      ∃ l ∈ (busy doneEntry).units.drop 1, ∃ g ∈ l, g.after = false) ∧
    (Ready (runs decided) 0 0 decided ∧ decided.seq.decDone = true) ∧
    (Ready (inDecision [marked]) 0 0 marked ∧ (∀ l ∈ marked.units, l = []) ∧ marked.seq.decDone = false ∧
      markedDone (inDecision [decided]) = true ∧ (inDecision [marked]).crs.phase = 1 ∧
      decisionInTime (inDecision [marked]) = true) ∧
    (Ready (inDecision [marked, marked]) 0 0 marked ∧ markedDone (inDecision [decided, marked]) = false) :=
  ⟨⟨readyA, roomA 0 (by decide), by decide, rfl, rfl, by decide, by decide⟩,
    ⟨ready_runs _ rfl rfl rfl rfl rfl, ⟨rfl, by decide⟩, [doneEntry], by decide, doneEntry, by decide, rfl⟩,
    ⟨ready_runs _ rfl rfl rfl rfl rfl, rfl⟩,
    ⟨⟨rfl, rfl, by decide, rfl, rfl, rfl⟩, by decide, rfl, by decide +kernel, rfl, by decide +kernel⟩,
    ⟨rfl, rfl, by decide, rfl, rfl, rfl⟩, by decide +kernel⟩

theorem witness_OldestInstructionCompletes :
    (physOf (runs (busy doneEntry)) 0 = some 0 ∧ (runs (busy doneEntry)).rft[0]? = some (busy doneEntry) ∧
      working (runs (busy doneEntry)) = true ∧ ExecUnit.tensor ≠ .stream ∧
      (busy doneEntry).units[unitIndex .tensor]? = some [doneEntry] ∧
      (∀ b, doneEntry.kind ≠ .holds b ∧ doneEntry.kind ≠ .empties b) ∧ doneEntry.kind ≠ .checks ∧
      doneEntry.done = true ∧ doneEntry.acks = 0) ∧
    streamWork (runs (busy doneEntry)) 0 = runs (busy doneEntry) ∧ NothingWaits (busy doneEntry) ∧
    ({ doneEntry with done := false } : InFlight).done = false ∧ ({ doneEntry with acks := 1 } : InFlight).acks ≠ 0 ∧
    ({ doneEntry with kind := .empties true } : InFlight).kind = .empties true :=
  ⟨⟨rfl, rfl, by decide, by decide, rfl, by decide, by decide, rfl, rfl⟩, by decide +kernel,
    ⟨rfl, by decide +kernel, by (intro e h; cases h),
      by (intro e h; rw [show unitQ (busy doneEntry) 2 = [doneEntry] from rfl] at h; cases h <;> first | rfl | contradiction),
      by (intro e h; cases h)⟩, rfl, by decide, rfl⟩

/-! ### The tensor array -/

def tensorOps : TensorOps :=
  { aag := 1, bag := 2, dag := 3, td := 0, atype := .fp32, btype := .fp32, dtype := .fp32, auns := false, buns := false
    ws := false, buf := true, drn := false, dq := false, qi := 0, rnd := false, sat := false, shp := .planned, vt := 63
    clr := true }

def block : WBlock :=
  { btype := .fp32, buns := false, n := 1, k := 1, addr := 0, td := 0, elems := [], scales := [], failed := false }

theorem witness_TldLoadsTheShadow :
    (Ready (runs rafterA) 0 0 rafterA ∧ Room rafterA 2 [] ∧ rafterA.shadow = none ∧
      (let w := shapeValue rafterA .planned (dTshape (descOf rafterA 0))
       shN w = 2 ∧ shK w = 3 ∧ operandOk rafterA 2 .fp32 2 3 (dBstr (descOf rafterA 0)) (dBsoff (descOf rafterA 0))
         (dBsstr (descOf rafterA 0)) = true)) ∧
    (Ready (runs { rafterA with shadow := some block }) 0 0 { rafterA with shadow := some block }) :=
  ⟨⟨readyA, roomA 2 (by decide), rfl, by decide +kernel⟩, ready_runs _ rfl rfl rfl rfl rfl⟩

theorem witness_ProductsFillTheirRegion :
    Ready (runs rafterA) 0 0 rafterA ∧ Room rafterA 2 [] ∧ rafterA.acc[b2n tensorOps.buf]? = some Acc.reset ∧
    Acc.reset.st ≠ 3 ∧ tensorOps.drn = false ∧ takeShadow rafterA tensorOps.ws = rafterA ∧
    (let d := dTshape (descOf rafterA 0)
     productOversize tensorOps d d = false ∧ productExtents rafterA tensorOps d = (2, 2, 3) ∧
     productBoundsOk rafterA tensorOps 2 2 3 = true ∧ productFire fr tensorOps rafterA = none ∧
     readsDue rafterA tensorOps.vt = 0) :=
  ⟨readyA, roomA 2 (by decide), rfl, by decide, rfl, rfl, by decide +kernel⟩

/-- A rafter whose first buffer accumulates. -/
def accumulates : Rafter := { rafterA with acc := [{ Acc.reset with st := 1 }, Acc.reset] }

theorem witness_SelfTestsPassOrAreLasting :
    Ready (runs rafterA) 0 0 rafterA ∧
    (Room rafterA 2 [] ∧ (∀ a ∈ rafterA.acc, a.st ≠ 1 ∧ a.st ≠ 3) ∧ accSound (accOf rafterA true) = true) ∧
    (Ready (runs accumulates) 0 0 accumulates ∧ Room accumulates 2 [] ∧ ∃ a ∈ accumulates.acc, a.st = 1 ∨ a.st = 3) ∧
    (Room rafterA 3 [] ∧ Room rafterA 4 [] ∧ mismatchOf 0x55 .pass = none ∧ mismatchOf 0x56 .pass = none) ∧
    (rafterA.scrubRow[b2n true]? = some 0 ∧ rowXor (accOf rafterA true) 0 = tableGet 0 (accOf rafterA true).rows 0) ∧
    (let x := { rafterA with acc := [Acc.reset, { Acc.reset with rows := [(0, 1)] }] }
     x.scrubRow[b2n true]? = some 0 ∧ rowXor (accOf x true) 0 ≠ tableGet 0 (accOf x true).rows 0) :=
  ⟨readyA, ⟨roomA 2 (by decide), by decide, by decide +kernel⟩,
    ⟨ready_runs _ rfl rfl rfl rfl rfl, ⟨rfl, by decide⟩, ⟨_, List.mem_cons_self, .inl rfl⟩⟩,
    ⟨roomA 3 (by decide), roomA 4 (by decide), rfl, rfl⟩, ⟨rfl, by decide +kernel⟩, by decide +kernel⟩

/-! ### Vectors and rows -/

def vectorOps (n : BitVec 20) : VectorOps :=
  { opa := .stream 1, opb := .imm, opc := .imm, dk := .stream, dst := 2, atype := .fp32, btype := .fp32, dtype := .fp32
    bf := false, rnd := false, sat := false, shp := .planned, count := n, usgn := false, imm := 0x3F800000 }

theorem plain (op : VecOp) (n : BitVec 20) (h : 0 < n.toNat ∧ vecBoundsOk rafterA op (vectorOps n) n.toNat = true) :
    PlainVector rafterA op fr (vectorOps n) n.toNat :=
  ⟨⟨rfl, rfl⟩, ⟨rfl, rfl⟩, ⟨rfl, h.1, Nat.le_refl _⟩, h.2⟩

theorem witness_VectorInstructionsWriteTheirResults :
    Ready (runs rafterA) 0 0 rafterA ∧ Room rafterA 3 [] ∧ (∀ g ∈ ([] : List InFlight), g.kind ≠ .chain) ∧
    (∀ op ∈ [VecOp.add, .sub, .mul, .min, .max, .fma, .abs, .neg, .cvt, .cmpLt, .cmpLe, .cmpEq, .sel, .exp2, .log2, .rcp,
      .sqrt, .rsqrt, .tanh], PlainVector rafterA op fr (vectorOps 4) (4 : BitVec 20).toNat) ∧
    (rafterA.chain = [] ∧ vecCount rafterA (vectorOps 256) = 256 ∧
      (∀ op ∈ [VecOp.add, .qmx, .redSum, .redMax, .foldSum, .foldMax],
        vecBoundsOk rafterA op { vectorOps 256 with dtype := .mxfp8 } 256 = true) ∧
      { fr with chain := true }.chain = true ∧ vecCount rafterA { vectorOps 4 with shp := .reg 1 } = 0) := by
  refine ⟨readyA, roomA 3 (by decide), by decide, fun op h => plain op 4 ⟨by decide, ?_⟩, by decide +kernel⟩
  revert op; decide +kernel

theorem witness_VectorReductionsAndQuantisation :
    Ready (runs rafterA) 0 0 rafterA ∧ Room rafterA 3 [] ∧ (vectorOps 4).bf = false ∧
    (∀ op ∈ [VecOp.redSum, .redMax], PlainVector rafterA op fr (vectorOps 256) (256 : BitVec 20).toNat) ∧
    (∀ op ∈ [VecOp.foldSum, .foldMax], PlainVector rafterA op fr (vectorOps 256) (256 : BitVec 20).toNat) ∧
    (let o := { vectorOps 32 with dtype := .mxfp8 }
     isMx o.dtype = true ∧ shapeValue rafterA o.shp o.count.toNat = 32 ∧ vecBoundsOk rafterA .qmx o 32 = true) := by
  refine ⟨readyA, roomA 3 (by decide), rfl, fun op h => plain op 256 ⟨by decide, ?_⟩,
    fun op h => plain op 256 ⟨by decide, ?_⟩, by decide +kernel⟩
  · revert op; decide +kernel
  · revert op; decide +kernel

theorem witness_VectorSpecialValues :
    isNan (fv 0x7FC00000) = true ∧ (isNeg (fv 0xBF800000) = true ∧ isZero (fv 0xBF800000) = false ∧
      isInf (fv 0xBF800000) = false) := by decide +kernel

def rowOps : RowOps :=
  { xag := 1, dyag := 3, gag := 4, oag := 2, pag := 4, pacc := false, xtype := .fp32, ptype := .fp32, otype := .fp32
    rnd := false, sat := false, shp := .planned, base := 0x3FFF, td := 2, imm := 0x3F800000 }

theorem witness_RowInstructionsOnOneRow :
    Ready (runs rafterA) 0 0 rafterA ∧ Room rafterA 4 [] ∧
    ∀ k ∈ [RowKind.ln, .rms, .smx, .lnB, .rmsB, .smxB], OneRow rafterA k rowOps 4 := by
  refine ⟨readyA, roomA 4 (by decide), fun k h => ⟨by decide +kernel, by decide +kernel, ⟨rfl, rfl⟩, ?_⟩⟩
  revert k; decide +kernel

theorem witness_EmptySoftmaxRows :
    (∀ k, k < 4 → (mulR ((fun _ => 0xFF800000) k) 0x3F800000).1 = 0xFF800000) ∧
    ({ mean := 0, rstd := 0, max := 0xFF800000, sum := 0 } : RowRec).max = 0xFF800000 := by decide +kernel

theorem witness_SpillAndFillMoveRecords :
    (let o := { rowOps with imm := 2 }
     Ready (runs rafterA) 0 0 rafterA ∧ Room rafterA 4 [] ∧ shapeValue rafterA o.shp (field o.imm.toNat 0 15) = 2 ∧
     agAddr rafterA o.xag % 16 = 0 ∧ agSpanOk rafterA o.xag (agAddr rafterA o.xag) (agAddr rafterA o.xag + 32) = true) :=
  ⟨readyA, roomA 4 (by decide), by decide +kernel, by decide +kernel, by decide +kernel⟩

/-! ### Tokens, ports and spars -/

/-- Rafter 0 sends from its output queue 0 to input queue 0 of rafter 1, whose route in slot 0 comes from there. -/
def producer : Rafter :=
  { rafterA with
    route := [(8, 0x80000001)]
    oq := { Queue.reset with tokens := [dataTok 0], sent := 1, seq := 1 } :: List.replicate 7 Queue.reset }

def consumer (ts : List Token) (fired : BitVec 24) : Rafter :=
  { Rafter.reset with
    route := [(0, 0x80000000)]
    depth := List.replicate 16 4
    iq := { Queue.reset with credits := 1, tokens := ts, fired := fired } :: List.replicate 7 Queue.reset }

def linked : State := { runs producer with rft := [producer, consumer [] 0] }

/-- The same with a token that has not been sent, and a token of a kind that the consumer does not take. -/
def unsent : Rafter :=
  { producer with oq := { Queue.reset with tokens := [dataTok 0], seq := 1 } :: List.replicate 7 Queue.reset }

theorem witness_TokensAndCredits :
    (physOf linked 1 = some 1 ∧ linked.rft[1]? = some (consumer [] 0) ∧ working linked = true ∧
      (consumer [] 0).iq[0]? = some { Queue.reset with credits := 1 } ∧ Queue.reset.refused = none ∧
      (consumer [] 0).seq.drain = none ∧ (∀ g ∈ unitQ (consumer [] 0) 0, g.job = none) ∧
      admissionFaults 1 (consumer [] 0) 0 (dataTok 0) true = [] ∧ isHip (dataTok 0) = false ∧
      (tokSe (dataTok 0).hdr = false ∧ KindsFit (consumer [dataTok 0] 0)) ∧
      admissionFaults 1 (consumer [] 0) 0 (dataTok 1) true = [0x31] ∧ exhausted linked (rafterUnit 1) = false) ∧
    (isHip hipTok = true ∧ admissionFaults 1 (consumer [] 0) 0 hipTok true = []) ∧
    (producer.oq[0]? = some { Queue.reset with tokens := [dataTok 0], sent := 1, seq := 1 } ∧ oqToSe producer 0 = false ∧
      tokSeq (dataTok 0).hdr = 0) ∧
    (producer.seq.hips = none ∧ (∀ g ∈ unitQ producer 0, g.job = none ∧ g.kind ≠ .hips) ∧
      creditFrom linked 0 producer 0 = some (1, 0, 1) ∧ (0 : Nat) ≠ 1 ∧
      tableGet 0 (oqOf producer 0).epochs 1 = inEpoch (consumer [] 0) 0 ∧
      (oqOf producer 0).tokens.length = (oqOf producer 0).sent) ∧
    (let s := { linked with rft := [unsent, consumer [] 0] }
     creditFrom s 0 unsent 0 = some (1, 0, 1) ∧ 1 = routeKey (outRoute unsent 0) ∧
     (oqOf unsent 0).tokens.drop (oqOf unsent 0).sent = [dataTok 0] ∧ isData (dataTok 0) = true) ∧
    (let y := consumer [hipTok] 0
     let z := consumer [hipTok] 1
     let w := { y with seq := { y.seq with drain := some (0, 1) } }
     reservedOn y 0 = none ∧ hipCount hipTok = 0 ∧ y.iq[0]? = some { Queue.reset with credits := 1, tokens := [hipTok] } ∧
     reservedOn z 0 = none ∧ hipCount hipTok ≠ 1 ∧ reservedOn w 0 = some 0) := by
  unfold KindsFit; decide +kernel

def loftReq (port : BitVec 4) : LoftReq :=
  { port := port, addr := 0x17FFE00, write := port.toNat % 2 == 1, data := [1] }

theorem witness_PortsServeRequests :
    rafterA.spReads = [] ∧ rafterA.spWrites = [] ∧
    (let s := runs rafterA
     let b := bankOf (loftReq 12).addr
     s.trs[0]? = some Truss.reset ∧ working s = true ∧ tableGet [] Truss.reset.bankWait b = [] ∧ b < 16 ∧
     portRequests s 0 (loftReq 12).port.toNat = true ∧ portRequests s 0 (loftReq 13).port.toNat = true ∧
     (loftReq 12).addr.toNat < 0x1800000 ∧ b < Truss.reset.bankPtr.length) := by
  decide +kernel

/-- A spar table whose spar 4095 stands at 3, with one operation at its first input. -/
def sparMsg (op : SparOp) (t : W16) (v : W32) : SparMsg := { src := rafterUnit 0, tag := 0, op := op, index := 4095, t := t, v := v }
def sparTable (m : SparMsg) : Truss :=
  { Truss.reset with
    spars := [(4095, { count := 3, phase := false, rest := 0 })]
    inputs := [m] :: List.replicate 6 [] }

theorem witness_SparTablesApplyOperations :
    (let m := sparMsg .signalAdd 0 5
     let s := { runs rafterA with trs := [sparTable m] }
     s.trs[0]? = some (sparTable m) ∧ nextInput (sparTable m) = some 0 ∧ (sparTable m).inputs[0]? = some [m] ∧
     unitKind m.src = 0 ∧ (rafterOf s (unitInst m.src)).seq.resent = [] ∧ (sparTable m).waits = []) ∧
    (let e := sparEntry (sparTable (sparMsg .read 0 0)) 4095
     e.count.toNat + (0xFFFFFFFC : W32).toNat < 2 ^ 32 ∧ 2 ^ 32 ≤ e.count.toNat + (0xFFFFFFFD : W32).toNat ∧
     e.count + 1 ≠ (5 : W16).zeroExtend 32 ∧ e.count + 1 = (4 : W16).zeroExtend 32 ∧ (3 : W32) ≤ e.count ∧ e.count = 3 ∧
     e.count < 4) := by
  decide +kernel

def waitRep : SparRep :=
  { dest := rafterUnit 0, tag := 0, spar := 0, op := .waitGe, v := 0, count := 7, phase := false, ovf := false }
def replyEntry : InFlight := { doneEntry with kind := .reply, done := false }
def asked (a : SparPurpose) : Rafter :=
  { rafterA with seq := { rafterA.seq with asks := [a], waiting := a == .wait }, units := rafterA.units.set 0 [replyEntry] }

theorem witness_SparRepliesReachTheRafter :
    ∀ a ∈ [SparPurpose.wait, .pollGe 7 (some 64), .pollEq 8 none],
      (let s := { runs (asked a) with trs := [{ Truss.reset with replies := [waitRep] }] }
       s.trs[0]? = some { Truss.reset with replies := [waitRep] } ∧ waitRep.ovf = false ∧ waitRep.dest = rafterUnit 0 ∧
       physOf s 0 = some 0 ∧ s.rft[0]? = some (asked a) ∧ (asked a).seq.asks = [a] ∧
       (asked a).units[0]? = some [replyEntry] ∧ replyEntry.kind = .reply ∧ replyEntry.job = none ∧ replyEntry.acks = 0) := by
  decide +kernel

/-! ### The mesh -/

/-- A flit without payload whose sideband is `side`, with good parity. -/
def flitOf (side : Nat) : Flit := { data := 0, side := BitVec.ofNat 128 side, par := flitParity 0 (BitVec.ofNat 128 side) }

/-- A one-flit message to the truss of router 0, one to that of router 1, and a spar operation to that of router 0. -/
def flit : Flit := flitOf (2 ^ 11)
def flit1 : Flit := flitOf (1 + 2 ^ 11)
def sparFlit : Flit := flitOf (7 * 2 ^ 7 + 2 ^ 11)

def buffered (k : Nat) (fl : Flit) : Truss := { Truss.reset with bufs := [(k, [fl])] }
def replays : Truss := { Truss.reset with replay := [(40 + bufKey 0 7, { refused := true, flits := [flit] })] }

theorem witness_FlitsMoveAndAreReplayed :
    (let s := runs rafterA
     s.trs[0]? = some Truss.reset ∧ injectable s 0 0 7 flit = true ∧ tableGet [] Truss.reset.inject (bufKey 0 7) = [] ∧
     (∀ k, k < 8 → tableGet [] Truss.reset.outbound (8 * k + 7) = []) ∧
     tableGet Replay.reset Truss.reset.replay (40 + bufKey 0 7) = Replay.reset ∧ flitOk flit 0 = true ∧
     misrouted 0 flit = false ∧ (bufOf Truss.reset (bufKey (routeFlit 0 flit) 7)).length < 48 ∧ flitOk flit 1 = false) ∧
    (let z := buffered (bufKey 2 7) flit1
     let s := { runs rafterA with trs := [z, Truss.reset] }
     s.trs[1]? = some Truss.reset ∧ attached 1 4 = false ∧ neighbour 1 4 = some 0 ∧ s.trs[0]? = some z ∧
     tableGet Replay.reset z.replay (bufKey (opposite 4) 7) = Replay.reset ∧ bufOf z (bufKey (opposite 4) 7) = [flit1] ∧
     flitOk flit1 0 = true ∧ misrouted 1 flit1 = false ∧ (bufOf Truss.reset (bufKey (routeFlit 1 flit1) 7)).length < 48) ∧
    (let x := buffered (bufKey 0 7) sparFlit
     let s := { runs rafterA with trs := [x] }
     s.trs[0]? = some x ∧ tableGet Replay.reset x.replay (bufKey 0 7) = Replay.reset ∧ bufOf x (bufKey 0 7) = [sparFlit] ∧
     flitOk sparFlit 0 = true ∧ controlFlit sparFlit = true ∧ flitType sparFlit = 7) ∧
    (let s := { runs rafterA with trs := [replays] }
     let w := { router := 0, key := bufKey 0 7, inj := true : Sender }
     s.trs[0]? = some replays ∧ senderOf 0 0 7 false = some w ∧ (replayOf s w).refused = true ∧
     (replayOf s w).flits = [flit] ∧ misrouted 0 flit = false ∧
     (bufOf replays (bufKey (routeFlit 0 flit) 7)).length < 48 ∧ exhausted s (routerUnit 0) = false) := by
  decide +kernel

def readPend : ReadPend := { src := rafterUnit 0, tag := 1, rgen := 0, addr := 0x40, left := 4, got := [] }
def ackPend : AckPend := { dst := rafterUnit 0, tag := 1, rgen := 0 }
def awaitsAck : Rafter := { rafterA with units := rafterA.units.set 1 [{ doneEntry with tag := 1, acks := 1 }] }

theorem witness_MeshMessagesAndRidgeAccesses :
    (let s := runs rafterA
     s.saf.resetReq = none ∧ (0x1FFFFFF : W64).toNat < 0x20000000 ∧ (0x17FFFFF : W64).toNat % 2 ^ 25 < 0x1800000 ∧ s.reads = [] ∧
     (0x17FFFFF : W64).toNat % 2 ^ 25 + [(1 : Byte)].length ≤ 0x1800000 ∧ s.trs[(0x17FFFFF : W64).toNat / 2 ^ 25]? = some Truss.reset) ∧
    (let s := { runs rafterA with reads := [readPend] }
     readPend.addr ≤ (0x40 : W64).toNat ∧ [(1 : Byte), 2, 3, 4].length ≤ readPend.left ∧
     replyCurrent s (rafterUnit 0) 1 0 = true) ∧
    (0xFF : Byte) ≠ State.reset.crs.resetGen ∧
    (let s := { runs awaitsAck with acks := [ackPend] }
     physOf s 0 = some 0 ∧ s.rft[0]? = some awaitsAck ∧ ackPend.rgen = s.crs.resetGen ∧
     (1 : W16).toNat / 256 = awaitsAck.wgen.toNat ∧ awaitsAck.units[1]? = some [{ doneEntry with tag := 1, acks := 1 }]) ∧
    (wakesDie (regAt { State.reset with pwr := { Power.reset with stage := 1 } } (0x2004000 : BitVec 26).toNat) = true ∧ (0x2004000 : BitVec 26).toNat % 4 = 0) ∧
    (let s := { runs rafterA with pwr := { Power.reset with stage := 1 } }
     s.trs[0]? = some Truss.reset ∧ s.pwr.stage ≠ 0) ∧
    ({ State.reset with ridgeAsked := [(0x2004000, 7, 0)] } : State).ridgeAsked = [(0x2004000, 7, 0)] := by
  decide +kernel

def late (p : BitVec 20) : Rafter := { rafterA with progLimit := 9, progress := p }

theorem witness_ProgressLimit :
    (physOf (runs (late 8)) 0 = some 0 ∧ (runs (late 8)).rft[0]? = some (late 8) ∧
      (late 8).progress.toNat < (late 8).progLimit.toNat) ∧
    (physOf (runs (late 9)) 0 = some 0 ∧ (runs (late 9)).rft[0]? = some (late 9) ∧ working (runs (late 9)) = true ∧
      (late 9).hold = false ∧ (late 9).idle = false ∧ (late 9).progLimit ≠ 0 ∧
      (late 9).progLimit.toNat ≤ (late 9).progress.toNat ∧ (late 9).recur = [] ∧ resetIsLasting (runs (late 9)) = false) := by
  decide +kernel

/-! ### Host commands and programs -/

/-- An image that declares nothing. -/
def image : Image :=
  { wellSized := true, topology := [], d := 0, period := 0, decisionCycles := 0, bodyCycles := 0, rafters := [], spars := []
    inWins := [], outWins := [], maxSess := 0, quota := 0, residentBytes := 0, servingTokens := 0
    pubs := [], vboard := none, hboard := none, gtab := none, stab := none, groupTab := [], shardTab := [], rings := []
    programs := [], cdescs := [], repdesc := none, expmap := none, sysGrants := [], budgets := [], sched := none
    ctrBoard := none, ctrMask := 0 }

/-- An image with an input window, a session window and a publish set. -/
def serving : Image :=
  { image with
    inWins := [{ win := 1, addr := 0, size := 64, copyArea := 0 }]
    outWins := [{ win := 63, kind := .session, addr := 0, size := 64, pubset := none }]
    maxSess := 2
    pubs := [{ set := 15, groups := [0], copies := [] }]
    ctrMask := 3 }

/-- Rings in use. A device in stage Full with no program running, and the same with an image loaded. -/
def hostReady : Hst := { Hst.reset with crEn := true, crLog2 := 6, crPhase := true, cqPhase := true }
def idles : State := { State.reset with pwr := { Power.reset with stage := 2 }, hst := hostReady }
def loads (img : Image) : State := { idles with prog := { Prog.reset with loaded := true, img := some img } }

theorem attends_idles : Attends idles := ⟨by decide, rfl, rfl, rfl, by decide, by decide⟩
theorem attends_loads (img : Image) : Attends (loads img) :=
  ⟨attends_idles.stage, rfl, rfl, rfl, attends_idles.ring, attends_idles.room⟩

def openSession : Session := { num := 1, iw := 1, ow := 63, course := 0 }

theorem witness_HostCommands :
    (Attends idles ∧ Attends (loads serving) ∧ ringInUse State.reset = false) ∧
    (openOk (loads serving) 1 1 63 = true ∧ openOk (loads serving) 2 1 63 = false) ∧
    (let s := { loads serving with hst := { hostReady with sessions := [openSession] } }
     s.pwr.stage = 2 ∧ (∃ x ∈ s.hst.sessions, x.num = 1) ∧ (∀ x ∈ s.hst.sessions, x.num ≠ 2)) ∧
    (malformed (.winBind 0 63 16 0 0) = false ∧ (outWin (loads serving) 63).isSome = true ∧ outWin (loads serving) 62 = none) ∧
    ((pubImg (loads serving) 15).isSome = true ∧ (loads serving).hst.pubs[15]? = some PubSet.reset ∧ PubSet.reset.perm = none ∧
      PubSet.reset.stageStep.toNat ≤ (0 : W64).toNat ∧ pubImg (loads serving) 14 = none) ∧
    (let v := { PubSet.reset with stageStep := 5 }
     (4 : W64).toNat < v.stageStep.toNat) ∧
    (0xFFFFFF : W32).toNat < 2 ^ 24 ∧
    (encodeCmd (.pwrTol 0 0x1000000) ≠ none ∧ malformed (.pwrTol 0 0x1000000) = true) ∧
    (let s := { runs rafterA with pwr := { Power.reset with stage := 1 } }
     s.pwr.stage ≠ 0 ∧ s.saf.hwSafe = false ∧ s.crs.running = true) ∧
    State.reset.pwr.stage = 0 := by
  refine ⟨⟨attends_idles, attends_loads _, ?_⟩, ?_⟩ <;> decide +kernel

theorem witness_PortsFencesAndStops :
    Attends idles ∧ Attends (loads image) ∧
    ((1 : Byte).toNat < 2 ∧ (1 : Byte).toNat < idles.cxl.length ∧ idles.tier.running = [] ∧ idles.tier.seals = []) ∧
    ((7 : Byte).toNat < 8 ∧ (7 : Byte).toNat < idles.lnk.ports.length ∧ idles.lnk.insts = []) ∧
    (∀ v ∈ (loads image).hst.pubs, v.perm = none) ∧ (loads image).prog.loaded = true ∧ (loads image).progNext = none ∧
    idles.prog.loaded = false := by
  refine ⟨attends_idles, attends_loads _, ?_⟩; decide +kernel

/-- The ring holds one NOP, or one entry of an unknown operation. -/
def ringOf (m : Mem) : State := { idles with hst := { hostReady with mem := m } }
def nopWord : Nat := 0x100
def badWord : Nat := 0x1FF

theorem witness_ProgramsLoadAndStart :
    (Attends idles ∧ malformed (.progLoad 0 0x1000 0x40000000 false) = false ∧ loadAdmitted idles false = true ∧
      loadAdmitted (loads image) false = false) ∧
    idles.hst.loading = none ∧
    (let j := { tag := 0, addr := 0x1000, len := 0x3000, reduced := false : LoadJob }
     let s := { idles with hst := { hostReady with loading := some j } }
     s.hst.loading = some j ∧ s.crs.running = false ∧ s.saf.hwSafe = false ∧ s.prog.loaded = false ∧
     s.saf.inForce.all fenceable = true ∧
     { s with saf := { s.saf with inForce := [(routerUnit 0, 0x70)] } }.saf.inForce.all fenceable = false) ∧
    (Attends (loads image) ∧ (loads image).progNext = none ∧ (loads image).prog.loaded = true ∧
      (loads image).prog.started = false ∧ settingsOk (loads image) (loads image).crs.minPeriod = true ∧
      (loads image).crs.source ≠ 2) ∧
    (validEntries (ringOf [(1, 1)]) (min 64 (cqFree (ringOf [(1, 1)]))) 0 true = [nopWord] ∧
      parseEntry nopWord = some (.cmdNop 0) ∧
      validEntries (ringOf [(0, 0xFF), (1, 1)]) (min 64 (cqFree (ringOf [(0, 0xFF), (1, 1)]))) 0 true = [badWord] ∧
      parseEntry badWord = none) ∧
    (runs rafterA).crs.running = true ∧ (idles.crs.running = false ∧ idles.pwr.stage ≠ 0 ∧ idles.saf.hwSafe = false) := by
  refine ⟨⟨attends_idles, ?_⟩, ?_, ?_, ⟨attends_loads _, ?_⟩, ?_⟩ <;> decide +kernel

/-! ### Memory tiers -/

/-- Stage Full, with the tier-map entry of the last extent of the first set in the given form. -/
def extent (e : Nat) : State :=
  { idles with eav := { Eave.reset with hbm := memPutWord [] (entryOffset 0) 16 e } :: List.replicate 7 Eave.reset }

def allocOps (first count : W32) : TierAllocOps :=
  { tag := 1, first := first, count := count, ro := false, pin := false, width := 0, port := false, stack := 7, owner := 15 }

/-- The extent that an allocation finds no frame for. -/
def allocRefuses (o : TierAllocOps) (xs : List (BitVec 19)) (s : State) : Option (BitVec 19) :=
  match allocAll o xs s with
  | .inl _ => none
  | .inr x => some x

/-- Stage Full, and no owner may hold a frame. -/
def noFrames : State := { idles with tier := { Tier.reset with hLimit := List.replicate 16 0 } }

theorem witness_TierCommandsTakeEffect :
    (Attends idles ∧ idles.pwr.stage = 2 ∧ idles.eav.length = 8) ∧
    (malformed (.tierAlloc (allocOps 0 1)) = false ∧
      (extentsOf (allocOps 0 1).first.toNat (allocOps 0 1).count.toNat).find? (extentTaken (extent stResident)) = some 0) ∧
    ((allocOps 0x7FFFF 1).first.toNat = (0x7FFFF : BitVec 19).toNat ∧ malformed (.tierAlloc (allocOps 0x7FFFF 1)) = false ∧
      extentTaken idles 0x7FFFF = false ∧ freeFrame idles 7 = some 0 ∧
      framesUsed idles 15 < (idles.tier.hLimit.getD 15 0).toNat) ∧
    (let o := allocOps 0x7FFFF 1
     let xs := extentsOf o.first.toNat o.count.toNat
     let start := fun (s : State) =>
       let w := wake (hitHost (reserveMany s 1) 0x3C2 1)
       { w with tier := { w.tier with allocs := w.tier.allocs ++ [{ tag := o.tag, left := [], entries := [] }] } }
     o.count ≠ 0 ∧ xs.find? (extentTaken (start idles)) = none ∧ allocRefuses o xs (start idles) = none ∧
     allocRefuses o xs (start noFrames) = some 0x7FFFF) ∧
    (let o := { tag := 1, first := 0, count := 2 : TierOps }
     malformed (.tierSeal o) = false ∧ malformed (.tierPin o true) = false ∧ malformed (.tierFree o) = false ∧
     (extent stOpen).tier.seals = [] ∧ entState (tierEntry (extent stOpen) 0) = stOpen ∧
     isMapped (extent stOpen) 0 = true ∧ isMapped (extent stOpen) 1 = false) := by
  refine ⟨⟨attends_idles, ?_⟩, ?_⟩ <;> decide +kernel

/-- A CXL port in service whose first home holds a block of zeros. -/
def port0 : CxlPort :=
  { CxlPort.reset with
    serve := true, up := true, units := 64
    dev := memPutWord [] (homeDir 0) 8 (dirEntry 1 0 0 0x98F94189) }

/-- The CRC's steps over zeros, each taken before the next. -/
def strictFold : Nat → Nat → Nat
  | 0, c => c
  | k + 1, 0 => strictFold k (crcStep 0 0)
  | k + 1, c + 1 => strictFold k (crcStep (c + 1) 0)

theorem strictFold_eq (k c : Nat) : strictFold k c = (List.replicate k (0 : Byte)).foldl crcStep c := by
  induction k generalizing c with
  | zero => rfl
  | succ k ih => cases c <;> simp [strictFold, List.replicate_succ, ih]

/-- CRC-32C of a block of zeros (a value of the CRC's own definition, R419). -/
theorem test_crc_zeros : crc32c (List.replicate 4096 0) = 0x98F94189 := by
  unfold crc32c
  rw [← strictFold_eq]
  decide +kernel

theorem test_zero_block : readBlock port0 0 0 0 = .inr (List.replicate 4096 0) := by
  have h : memWord port0.dev (homeDir 0 + 8 * 0) 8 = dirEntry 1 0 0 0x98F94189 := by decide +kernel
  have h0 : field (dirEntry 1 0 0 0x98F94189) 0 2 = 1 := by decide +kernel
  have h1 : field (dirEntry 1 0 0 0x98F94189) 2 6 = 0 := by decide +kernel
  have h2 : field (dirEntry 1 0 0 0x98F94189) 26 6 = 0 := by decide +kernel
  have h3 : BitVec.ofNat 32 (field (dirEntry 1 0 0 0x98F94189) 32 32) = 0x98F94189 := by decide +kernel
  have hc := test_crc_zeros
  simp only [readBlock, h, decodeBlock, h0, h1, h2, h3]
  generalize List.replicate 4096 (0 : Byte) = z at hc ⊢
  simp [hc]

def extentWith (e : Nat) : State := { extent e with cxl := [port0, CxlPort.reset] }

theorem witness_ExtentsInTheTiers :
    (let j := { tag := 1, left := [0], entries := [(0, 1)] : AllocJob }
     let s := { idles with tier := { Tier.reset with allocs := [j] } }
     s.crs.running = false ∧ s.saf.hwSafe = false ∧ s.eav.length = 8 ∧ s.tier.allocs = [j] ∧ entFrame (1 : W128).toNat < 2240 ∧
     s.tier.allocs.find? (fun j => j.left.contains 0) = some j ∧ j.entries.find? (fun e => e.1 = 0) = some (0, 1) ∧
     (∀ k ∈ idles.tier.allocs, (0 : BitVec 19) ∉ k.left)) ∧
    (let s := extentWith stSealing
     entState (tierEntry s 0) = stSealing ∧ (cxlAt s (entPort (tierEntry s 0))).serve = true ∧
     (cxlAt s (entPort (tierEntry s 0))).up = true ∧ s.cxl.length = 2) ∧
    exhausted idles (eaveUnit 0) = false ∧
    (let x := { rafterA with prefetch := [(0, 0, 0)] }
     let s := { extentWith stHomed with rft := [x] }
     physOf s 0 = some 0 ∧ s.rft[0]? = some x ∧ x.jobs = [] ∧ s.saf.resetReq = none ∧
     entState (tierEntry s 0) = stHomed ∧ s.tier.queue.length < 1024) ∧
    (let r := { extent := 0, phase := 1, delay := 0, count := 0, hold := 0 : SchedRec }
     let s := { extentWith stHomed with
       tier := { Tier.reset with schedRecs := [r], schedEn := true, schedCycle := 2 }
       crs := { Crs.reset with running := true, course := 5 } }
     s.tier.schedRecs[0]? = some r ∧ working s = true ∧ s.crs.course.toNat % s.tier.schedCycle.toNat = r.phase.toNat ∧
     s.crs.t0 + 100 * r.delay.toNat ≤ s.now ∧ 0 ∉ s.tier.issued ∧ entState (tierEntry s 0) = stHomed) ∧
    (let s := { extentWith stHomed with tier := { Tier.reset with queue := [{ extent := 0, sched := false }] } }
     let e := tierEntry s 0
     (cxlAt s (entPort e)).serve = true ∧ (cxlAt s (entPort e)).up = true ∧ runningOn s (entPort e) < 2 ∧
     freeFrame s (entStack e) = some 0 ∧ framesUsed s (entOwner e) < (s.tier.hLimit.getD (entOwner e) 0).toNat ∧
     s.tier.queue.find? (startable s) = some { extent := 0, sched := false } ∧
     (takeFrame { s with tier := { s.tier with queue := [] } } (entStack e) false (entOwner e)).map (·.1) = some 0) ∧
    (let pr := { extent := 0, port := false, done := 0 : Promo }
     let s := { extentWith stPromoting with tier := { Tier.reset with running := [pr] } }
     s.tier.running.find? (fun r => r.extent = 0 ∧ r.port = false) = some pr ∧
     s.tier.running.find? (fun r => r.extent = 0) = some pr ∧
     cxlAt s (b2n false) = port0 ∧ entWidth (tierEntry s 0) = 0 ∧ entHome (tierEntry s 0) = 0) ∧
    (let pr := { extent := 0, port := false, done := BitVec.allOnes 4096 : Promo }
     pr.done = BitVec.allOnes 4096 ∧ ({ pr with done := 0 } : Promo).done ≠ BitVec.allOnes 4096) ∧
    (let s := { extentWith stBoth with crs := { Crs.reset with course := 1 } }
     evictable s (tierEntry s 0) = true ∧ evictable (extentWith stBoth) (tierEntry (extentWith stBoth) 0) = false) ∧
    ((extentWith 0).cxl[b2n false]? = some port0 ∧ port0.up = true ∧ (extentWith 0).cxl[b2n true]? = some CxlPort.reset ∧
      CxlPort.reset.up = false) ∧
    ({ State.reset with pwr := { Power.reset with pwrgood := true } } : State).pwr.pwrgood = true := by
  decide +kernel

theorem witness_ThatchedBlocksReadBack : (List.replicate 4096 (1 : Byte)).length = 4096 ∧ 0x3FFFF < 2 ^ 18 := by
  decide +kernel

def xferOps (byRank : Bool) : LinkXferOps :=
  { tag := 2, first := 0xFFFFF, count := 1, content := 1, byRank := byRank, rank := 0, addr := 0 }

def exportRec (good : Bool) : ExportRec :=
  { crcOk := good, digestOk := true, content := 1, typ := .fp32, tensor := 0, ndim := 0, dims := [0, 0, 0, 0]
    start := [0, 0, 0, 0], extent := [0, 0, 0, 0], shard := 0, data := [1, 2, 3, 4] }

/-- Extent 0 RESIDENT, with the shard table at 4096, whose shard 0 has one element, and the export map behind it. -/
def mapped (x : XferJob) (stopped : Bool) : State :=
  { loads { image with expmap := some 8192, stab := some 4096 } with
    eav := { Eave.reset with hbm := [(4100, 1), (4104, 1), (resvBase, 1)] } :: List.replicate 7 Eave.reset
    upd := { Upd.reset with lstop := stopped }
    hst := { Hst.reset with xfers := [x] } }

/-- The master of shard 0, exported to address 64 or imported. -/
def masterOps (byRank : Bool) : LinkXferOps :=
  { tag := 2, first := 0, count := 1, content := 2, byRank := byRank, rank := 0, addr := 64 }

theorem witness_ExportsAndImports :
    (Attends (loads image) ∧ (loads image).pwr.stage = 2 ∧ shardRangeBad (xferOps false) = false ∧ expMap (loads image) = none ∧
      (loads image).upd.lstop = false) ∧
    (Attends (loads { image with expmap := some 0 }) ∧ expMap (loads { image with expmap := some 0 }) ≠ none) ∧
    (∀ j ∈ idles.hst.xfers, j.imp = true ∨ j.o.tag ≠ 2) ∧ (∀ j ∈ idles.hst.xfers, j.imp = false) ∧
    (let j := { o := masterOps false, imp := false, failed := false : XferJob }
     let s := mapped j false
     let r := exportAll (itemsOf j.o.first.toNat j.o.count.toNat j.o.content) { s with hst := { s.hst with xfers := [] } }
     s.hst.xfers = [j] ∧ s.crs.running = false ∧ s.saf.hwSafe = false ∧ s.upd.lstop = false ∧ j.o.byRank = false ∧
     r.2.2.2 = none ∧ r.2.2.1.isEmpty = false ∧ (unitWrite r.1 (engineOf r.1 0) j.o.addr.toNat r.2.2.1).2 = true) ∧
    (let j := { o := masterOps true, imp := true, failed := false : XferJob }
     let s := mapped j true
     let e := mapEntry { s with hst := { s.hst with xfers := [] } } 0
     s.hst.xfers = [j] ∧ s.upd.lstop = true ∧ j.failed = false ∧ { j with failed := true }.failed = true ∧ j.o.byRank = true ∧ recordOk e.1 j.o e.2 (exportRec false) = false ∧
     recordOk e.1 j.o e.2 (exportRec true) = true ∧
     (unitWrite e.1 (engineOf e.1 0) (contentOf e.1 0 1).2.1 [1, 2, 3, 4]).2 = true ∧
     (itemsOf j.o.first.toNat j.o.count.toNat j.o.content).length = 1) ∧
    ({ xferOps false with count := 0 } : LinkXferOps).count = 0 := by
  refine ⟨⟨attends_loads _, ?_⟩, ⟨attends_loads _, ?_⟩, ?_⟩ <;> decide +kernel

/-! ### The course -/

/-- A program in the decision phase whose bound of 100 ticks has passed, and one past its close point; rafters as given. -/
def deciding : State :=
  { runs rafterA with
    crs := { Crs.reset with running := true, phase := 1, decBound := 100, next := 1000000 }
    now := 101 }
def closes (x : Rafter) (spars : Table SparEntry) : State :=
  { runs x with
    crs := { Crs.reset with running := true, phase := 2, next := 4001, course := 1 }
    now := 1
    rft := List.replicate 96 x
    trs := [{ Truss.reset with spars := spars }] }
def idleRafter : Rafter := { Rafter.reset with idle := true, seq := { Seq.reset with endedAt := some 0 } }

theorem witness_CourseEvents :
    exhausted deciding ridgeUnit = false ∧
    (deciding.crs.phase = 1 ∧ deciding.saf.resetReq = none ∧ deciding.crs.rerun = false ∧
      deciding.crs.t0 + deciding.crs.decBound.toNat < deciding.now ∧ deciding.crs.reranFlag = false ∧
      deciding.crs.delayed = false ∧ ¬ deciding.crs.t0 + deciding.crs.decBound.toNat + 5000 ≤ deciding.now) ∧
    (let s := closes idleRafter []
     s.crs.closed = false ∧ s.crs.next ≤ s.now + 4000 ∧ s.crs.abandoned = false ∧ s.saf.hwSafe = false ∧
     firstUnfinished s = none ∧ firstAway s = none) ∧
    (firstUnfinished (closes Rafter.reset []) ≠ none ∧ (closes Rafter.reset []).crs.lastCourseFault = none ∧
      (0 : W64) + 1 = (closes Rafter.reset []).crs.course) ∧
    ({ Crs.reset with reranFlag := true, lastCourseFault := some 0 }.reranFlag = true) ∧
    (let s := closes idleRafter [(0, { count := 1, phase := false, rest := 0 })]
     firstUnfinished s = none ∧ firstAway s ≠ none) ∧
    (let s := { deciding with crs := { deciding.crs with rerun := true }, now := 5100 }
     s.crs.phase = 1 ∧ s.crs.t0 + s.crs.decBound.toNat + 5000 ≤ s.now ∧ s.crs.rerun = true) ∧
    (let c := { Crs.reset with source := 1, starting := true, next := 5 }
     c.source = 1 ∧ c.extNext = none ∧ c.next ≤ 5) ∧
    (let c := { Crs.reset with source := 1, running := true, next := 1000 }
     (99 : W16) < 100 ∧ (100 : W16) ≤ 100 ∧ c.holdover = false ∧ c.rejoin = false ∧ 800 + 200 ≤ c.next ∧ c.next ≤ 800 + 200 ∧ 799 + 200 < c.next ∧
     c.next + 200 < 1201 ∧ extInstant { State.reset with crs := c } = none) ∧
    (let c := { Crs.reset with source := 1, running := true, holdover := true, lastExt := some 7 }
     c.starting = false ∧ c.rejoin = false ∧ c.lastExt = some 7) ∧
    (let s := { State.reset with pkg := { Pkg.reset with courseOut := some 0 }, now := 100 }
     s.pkg.courseOut = some 0 ∧ 0 + 100 ≤ s.now) := by
  decide +kernel

/-- The boundary sequence is due, and a course may start. -/
def atBoundary : State :=
  { loads image with
    crs := { Crs.reset with running := true, phase := 3, next := 1000, closed := true, slotDone := false }
    prog := { Prog.reset with loaded := true, started := true } }
def atInstant : State :=
  { atBoundary with crs := { atBoundary.crs with slotDone := true, next := 0 } }

theorem witness_BoundariesAndCourses :
    (working atBoundary = true ∧ atBoundary.crs.slotDone = false ∧ atBoundary.crs.next ≤ atBoundary.now + 1000 ∧
      atBoundary.crs.defer = [] ∧ atBoundary.pwr.fullDue = none ∧ atBoundary.crs.haltStop = false ∧
      atBoundary.hst.takeover = none ∧ atBoundary.crs.stepped = none ∧ atBoundary.prog.started = true ∧
      atBoundary.prog.img = none ∧ atBoundary.pwr.stage = 2 ∧ atBoundary.eav.length = 8) ∧
    working State.reset = false ∧
    (atBoundary.now < atBoundary.crs.next ∧ atBoundary.crs.source = 0) ∧
    (atInstant.saf.resetReq = none ∧ atInstant.saf.hwSafe = false ∧ atInstant.saf.inForce = [] ∧ atInstant.crs.source = 0 ∧
      atInstant.crs.lastExt = none ∧ atInstant.crs.next ≤ atInstant.now ∧ atInstant.rft.length = 96 ∧
      atInstant.crs.starting = false ∧ atInstant.crs.running = true ∧ atInstant.crs.slotDone = true ∧
      atInstant.hst.fetched = [] ∧ atInstant.crs.heldSets = [] ∧ atInstant.crs.slotEnd ≤ atInstant.crs.next ∧
      (0 : BitVec 64).getLsbD 0 = false ∧ instantOf atInstant = some 0 ∧
      (∀ p ∈ positions atInstant, (rafterAt atInstant p).routine = 0)) ∧
    (let s := { atInstant with crs := { atInstant.crs with decBound := 100 }, rft := atInstant.rft.set 0 marked }
     s.crs.decBound ≠ 0 ∧ (∃ p ∈ positions s, (rafterAt s p).decision = true) ∧ s.rft.length = 96 ∧
     (∀ p ∈ positions s, (rafterAt s p).routine = 0)) ∧
    ({ Crs.reset with starting := true } : Crs).starting = true := by
  decide +kernel

/-! ### Parameter update -/

def request (src : UpdSrc) (entry : Option (List Byte)) : UpdReq :=
  { rafter := none, inst := none, group := 0, shard := 0, src := src, vals := [], entry := entry, wgen := 0, tag := 0
    served := false }

/-- Receiving unit `k` with a request or a job. -/
def receiving (k : Nat) (v : UpdUnit) : State :=
  { runs rafterA with upd := { Upd.reset with units := Upd.reset.units.set k v } }

theorem receives (k : Nat) (u : UnitId) (v : UpdUnit) (h : updIndex u = some k) (hk : k < 16) :
    Receives (receiving k v) u k v :=
  ⟨h, rfl, by simp [receiving, Upd.reset, hk], rfl⟩

/-- The tables of groups and shards in extent 0, RESIDENT: group 0 has a control word, which is read at address 0. -/
def controlled (v : UpdUnit) : State :=
  { receiving 0 v with
    prog := { Prog.reset with loaded := true, started := true, img := some { image with gtab := some 0, stab := some 4096 } }
    eav := { Eave.reset with hbm := [(2, 4), (resvBase, 1)] } :: List.replicate 7 Eave.reset }

/-- The groups of a unit whose group 0 has a guard. -/
def guardedGroups : Table Group := [(0, { Group.reset with guarded := true, guard := 5 })]

theorem witness_UpdateStages :
    (let v := { UpdUnit.reset with queue := [request .hbm none] }
     Receives (receiving 0 v) (eaveUnit 0) 0 v ∧ Receives (receiving 1 v) (eaveUnit 1) 1 v ∧
     Receives (receiving 15 UpdUnit.reset) (linkUnit 7) 15 UpdUnit.reset) ∧
    (let j := newJob (request .hbm none) 5
     let v := { UpdUnit.reset with jobs := [j] }
     let s := { receiving 0 v with upd := { (receiving 0 v).upd with groups := guardedGroups } }
     Receives s (eaveUnit 0) 0 v ∧ j.stage = 5 ∧ guardDone (takeUnitReplies s 0) 0 j.req = false) ∧
    (let r := request .hbm none
     let v := { UpdUnit.reset with queue := [r] }
     let first := fun (k : Nat) =>
       let s0 := setUu (receiving k v) k UpdUnit.reset
       startGroup { s0 with upd := { s0.upd with taken := s0.upd.taken ++ [r.shard] } } r.group
     Unguarded (receiving 0 v) v ∧
     r.wgen = unitWgen (receiving 0 v) (eaveUnit 0) ∧ r.shard ∉ (receiving 0 v).upd.taken ∧
     (groupAt (receiving 0 v) 0).st = 0 ∧ (readTables (first 0) 0 r).2 = true ∧ (readTables (first 1) 1 r).2 = true ∧
     entriesOk (first 0) 0 r = true ∧ entriesOk (first 1) 1 r = false ∧
     gPart (groupEntry (first 0) 0) = false ∧ gCtl (groupEntry (first 0) 0) = false ∧
     (request .valley none).vals.length = shElems (shardEntry (first 0) 0) ∧
     (unitWrite (first 0) 0 (shGrad (shardEntry (first 0) 0))
       (bytesOfWords (gradVals (shardEntry (first 0) 0) (request .valley none)))).2 = true ∧
     (unitRead (first 0) 0 (shGrad (shardEntry (first 0) 0)) (4 * shElems (shardEntry (first 0) 0))).2 = some []) ∧
    (let j := newJob (request .hbm none) 2
     let v := { UpdUnit.reset with jobs := [j] }
     let s := receiving 0 v
     let w := controlWord (bytesOf 8 0x3F800000)
     let d := decideShard s 0 j w.2
     Unguarded s v ∧ j.stage = 2 ∧ j.req.inst = none ∧ (readTables s 0 j.req).2 = true ∧
     gCtl (groupEntry s 0) = false ∧ d.2.groupSkip = false ∧ (runStage5 d.1 0 d.2 w.1).2 = true ∧
     { j with groupSkip := true }.groupSkip = true) ∧
    (let j := newJob (request .hbm none) 2
     let v := { UpdUnit.reset with jobs := [j], waits := [{ spar := 0, need := 1, done := true, since := 0, guard := false }] }
     let s := controlled v
     Receives s (eaveUnit 0) 0 v ∧ (readTables s 0 j.req).2 = true ∧ gCtl (groupEntry s 0) = true ∧
     waitDone s 0 (gCtlSpar (groupEntry s 0)) = true ∧
     (unitRead (readTables s 0 j.req).1 0 (gCtlAddr (groupEntry s 0)) 8).2 = some [0, 0, 4, 0, 0, 0, 0, 0]) ∧
    (let j := { newJob (request .hbm (some [])) 5 with accepted := true }
     let own := { newJob (request .hbm none) 5 with accepted := true }
     let s := receiving 0 { UpdUnit.reset with jobs := [j] }
     j.stage = 5 ∧ j.accepted = true ∧ j.groupSkip = false ∧ (groupAt s 0).st ≠ 3 ∧ s.eav.length = 8 ∧
     j.req.entry ≠ none ∧ j.req.shard ∉ s.upd.taken ∧ own.req.entry = none ∧ repDesc s = none ∧
     gAgree (groupEntry s 0) = false ∧ s.lnk.digest.running = false ∧ (ringBytes s 0 j).2 = some [] ∧
     (ringBytes s 0 own).2 = some [] ∧
     (unitWrite s 0 (entryAddr s 0 (shardEntry s 0) (nextHead (groupAt s 0))) []).2 = true) ∧
    ((1 : Byte) ≠ unitWgen (receiving 0 UpdUnit.reset) (eaveUnit 0) ∧ (0 : BitVec 20) ∈ [(0 : BitVec 20)]) := by
  refine ⟨⟨receives 0 _ _ (by decide) (by decide), receives 1 _ _ (by decide) (by decide),
    receives 15 _ _ (by decide) (by decide)⟩, ⟨⟨by decide, rfl, rfl, rfl⟩, rfl, by decide +kernel⟩,
    ⟨(by intro r h; rfl), by decide +kernel⟩, ⟨(by intro r h; rfl), by decide +kernel⟩,
    ⟨⟨by decide, rfl, rfl, rfl⟩, by decide +kernel⟩, ?_⟩
  decide +kernel

/-- Group 0 agrees over its one shard, whose flag is there; the group table is at the start of the unified range. -/
def agreeing : State :=
  { runs rafterA with
    prog := { Prog.reset with loaded := true, started := true, img := some { image with gtab := some 0 } }
    eav := { Eave.reset with hbm := [(2, 1), (8, 1), (resvBase, 1)] } :: List.replicate 7 Eave.reset
    upd := { Upd.reset with groups := [(0, { Group.reset with flags := [(0, true)] })] } }

def agreedInst : Inst :=
  { xfer := 0, course := 0, op := 3, cdesc := 0, group := [], me := 0, n := 1, dag := 0, rspar := 0, own := [], acc := []
    bufs := [], left := 0, relay := 0, summed := false, got := [], gleft := 0, accepts := 0, done := true, flag := true
    start := 0, agree := some 0, came := [] }

theorem witness_AgreementAndStaging :
    (working agreeing = true ∧ gAgree (groupEntry agreeing 0) = true ∧ (groupAt agreeing 0).reduceAt = none ∧
      (groupAt agreeing 0).result = none ∧ flagsComplete agreeing 0 = true ∧ flagsComplete agreeing 1 = false) ∧
    (let s := { agreeing with lnk := { Lnk.reset with insts := [agreedInst] } }
     s.lnk.insts.find? (fun i => i.agree == some 0 && i.done) = some agreedInst ∧ (groupAt s 0).timedOut = false ∧
     (groupAt s 0).result = none) ∧ (∀ i ∈ agreeing.lnk.insts, i.agree ≠ some 0 ∨ i.done = false) ∧
    (let s := { agreeing with upd := { Upd.reset with groups := [(0, { Group.reset with reduceAt := some 0 })] } }
     (groupAt s 0).reduceAt = some 0 ∧ (groupAt s 0).result = none ∧ 0 + 100 * gAgTo (groupEntry s 0) ≤ s.now) ∧
    (let v := { PubSet.reset with staging := true }
     let s := { loads serving with hst := { Hst.reset with pubs := Hst.reset.pubs.set 15 v } }
     s.hst.pubs[15]? = some v ∧ (pubImg s 15).isSome = true ∧ v.staging = true ∧ v.perm = none ∧ v.left = [] ∧
     s.hst.pubs[14]? = some PubSet.reset ∧ pubImg s 14 = none) := by
  decide +kernel

/-! ### Links -/

def linkConn : Conn := { Conn.reset with isOpen := true }
def linkPort (c : Conn) : LnkPort := { LnkPort.reset with up := true, serve := true, peers := [(3, 3)], conns := [(3, c)] }
def linkState (c : Conn) : State :=
  { runs rafterA with lnk := { Lnk.reset with udp := 1, ports := List.replicate 7 LnkPort.reset ++ [linkPort c] } }
def ixMsg (psn apsn : W32) : IxMsg :=
  { last := true, retx := false, src := 3, psn := psn, apsn := apsn, xfer := 0, rgen := 0, wgen := 0, course := 0, offset := 0
    payload := [], crcOk := true, addrOk := true }

/-- A payload too large for the staging area. -/
def bigMsg : IxMsg := { ixMsg 0 0 with payload := List.replicate (2 ^ 23 + 1) 0 }

/-- The link state with further facts about links and the host. -/
def linkWith (f : Lnk → Lnk) : State := { linkState linkConn with lnk := f (linkState linkConn).lnk }

theorem inOrder (f : Lnk → Lnk) (m : IxMsg) (h : (f (linkState linkConn).lnk).ports = (linkState linkConn).lnk.ports)
    (h2 : portReady (linkWith f) 7 = true) (hs : m.src = 3) (hg : m.crcOk = true ∧ m.addrOk = true) (hp : m.psn = 0) :
    InOrder (linkWith f) 7 (linkPort linkConn) linkConn m :=
  ⟨by rw [linkWith, h]; rfl, h2, by rw [hs]; decide +kernel, hg, by rw [hs]; decide +kernel, rfl, rfl, by rw [hp]; rfl,
    by decide +kernel⟩

theorem witness_MessagesInOrder :
    (InOrder (linkWith id) 7 (linkPort linkConn) linkConn (ixMsg 0 0) ∧
      mustStage (linkWith id) (ixMsg 0 0) = true ∧ stagedBytes (linkPort linkConn) + 0 ≤ 2 ^ 23 ∧
      isStale (linkWith id) (ixMsg 0 0) = false ∧ started (linkWith id) (ixMsg 0 0) = false ∧
      (linkWith id).saf.hold = false ∧ (ixMsg 0 0).xfer.getLsbD 1 = false ∧
      (linkWith id).lnk.digest.kinds = [] ∧ (linkWith id).lnk.insts = [] ∧ expMap (linkWith id) = none) ∧
    (InOrder (linkWith id) 7 (linkPort linkConn) linkConn bigMsg ∧ mustStage (linkWith id) bigMsg = true ∧
      2 ^ 23 < stagedBytes (linkPort linkConn) + bigMsg.payload.length) ∧
    (let s := linkWith (fun l => { l with ended := [(0, 0)] })
     InOrder s 7 (linkPort linkConn) linkConn (ixMsg 0 0) ∧ isStale s (ixMsg 0 0) = true) ∧
    (let s := linkWith (fun l => { l with insts := [agreedInst] })
     InOrder s 7 (linkPort linkConn) linkConn (ixMsg 0 0) ∧ isStale s (ixMsg 0 0) = false ∧ started s (ixMsg 0 0) = true) ∧
    (let s := { linkWith id with
       prog := { Prog.reset with loaded := true, started := true, img := some { image with repdesc := some 0, expmap := some 0 } } }
     isRing s (ixMsg 0 0) = true ∧ isStale s (ixMsg 0 0) = false ∧ started s (ixMsg 0 0) = false ∧ expMap s ≠ none) ∧
    (let s := { linkWith id with hst := { Hst.reset with xfers := [{ o := { masterOps true with rank := 3 }, imp := true, failed := false }] } }
     importing s { ixMsg 0 0 with xfer := 0xFFFF } = true ∧ isRing s { ixMsg 0 0 with xfer := 0xFFFF } = false) ∧
    (let s := { linkWith id with saf := { (linkWith id).saf with hold := true } }
     s.saf.hold = true ∧ mustStage s (ixMsg 0 0) = true) :=
  ⟨⟨inOrder _ _ rfl (by decide +kernel) rfl ⟨rfl, rfl⟩ rfl, by decide +kernel⟩,
    ⟨inOrder _ _ rfl (by decide +kernel) rfl ⟨rfl, rfl⟩ rfl, by decide +kernel, by
      rw [show bigMsg.payload.length = 2 ^ 23 + 1 from List.length_replicate, show stagedBytes (linkPort linkConn) = 0 from rfl]
      decide⟩,
    ⟨inOrder _ _ rfl (by decide +kernel) rfl ⟨rfl, rfl⟩ rfl, by decide +kernel⟩,
    ⟨inOrder _ _ rfl (by decide +kernel) rfl ⟨rfl, rfl⟩ rfl, by decide +kernel⟩, by decide +kernel⟩

def keptMsg : LinkMsg :=
  { typ := 0, dst := 3, last := true, retx := false, psn := 5, apsn := 0, xfer := 0, rgen := 0, wgen := 0, course := 0
    offset := 0, payload := [], sentAt := 0 }
def keptConn : Conn := { linkConn with kept := [keptMsg], ackFrom := some 0, badPsn := some 9 }

theorem witness_ConnectionsAcknowledgeAndOpen :
    (let s := linkState keptConn
     let p := linkPort keptConn
     s.lnk.ports[7]? = some p ∧ portReady s 7 = true ∧ peerValid p 3 = true ∧ connAt p 3 = keptConn ∧
     keptConn.waiting = [] ∧ (6 : W32) = keptMsg.psn + 1 ∧ keptConn.ackFrom = some 0 ∧ keptConn.badPsn = some 9 ∧
     keptConn.timeouts + 1 < p.retry.toNat ∧ ({ keptConn with timeouts := 7 } : Conn).timeouts + 1 = p.retry.toNat ∧
     keptMsg.sentAt + 100 * p.rto.toNat ≤ 2000 ∧ peerValid p 4 = false) ∧
    (let s := linkState linkConn
     connAt (linkPort linkConn) 3 = linkConn ∧ linkConn.kept = [] ∧ (1 : W32) ≠ linkConn.rx ∧
     ((1 : W32) - linkConn.rx).toNat < 2 ^ 31 ∧ linkConn.nak = false ∧ answerCurrent s 7 (ixMsg 0 0) = true ∧
     answerCurrent s 7 { ixMsg 0 0 with wgen := 1 } = false ∧ linkConn.ackFrom = none) ∧
    portReady State.reset 7 = false := by
  decide +kernel

theorem witness_LinkEvents :
    (let s := linkState linkConn
     s.lnk.ports[7]? = some (linkPort linkConn) ∧ (linkPort linkConn).up = true ∧ s.lnk.insts = [] ∧ s.crs.running = true ∧
     (linkPort linkConn).conns = [((3 : BitVec 10).toNat, linkConn)]) ∧
    (State.reset.crs.running = false ∧ LnkPort.reset.peerHold = [] ∧ LnkPort.reset.conns = [] ∧ LnkPort.reset.up = false) ∧
    (let l := { Lnk.reset with ptpEn := true, ptpPort := 7, ptpGood := 15 }
     let s := { State.reset with lnk := l }
     let m := { domain := 0, trans := 0, offset := 250, time := 5 : PtpSync }
     ptpMine s 7 m = true ∧ ptpMine s 6 m = false ∧ l.ptpEn = true ∧ (250 : BitVec 24).toInt.natAbs ≤ 250 ∧ 16 ≤ l.ptpGood + 1 ∧ 250 < (251 : BitVec 24).toInt.natAbs ∧
     1000 < (1001 : BitVec 24).toInt.natAbs) ∧
    (let i := { agreedInst with done := false }
     i.done = false ∧ i.start + 100 * Lnk.reset.collTo.toNat ≤ 2000000) ∧
    (let s := { State.reset with lnk := { Lnk.reset with digest := { Lnk.reset.digest with running := true } } }
     s.lnk.digest.running = true ∧ (passDigests s).2 = some []) := by
  decide +kernel

/-! ### Diagnostics and recovery -/

def oneRecord : GutterRec :=
  { course := 0, cycle := 0, unit := ridgeUnit, cls := .event, code := 0xD6, w0 := 0, w1 := 0, w2 := 0 }

theorem witness_GutterScrubsAndSelfTests :
    (let s := { idles with saf := { Safety.reset with queue := [oneRecord], dropped := 1 } }
     s.saf.queue = [oneRecord] ∧ 0 < s.saf.dropped ∧ ([] : List GutterRec).length < 224 ∧ s.pwr.stage = 2 ∧ s.eav.length = 8 ∧
     ({ Hst.reset with msixMask := 0 } : Hst).msixMask.getLsbD 2 = false) ∧
    (∀ t0, idles.saf.lastVec2 = some t0 → t0 + 1000 ≤ idles.now) ∧
    ({ Safety.reset with lastVec2 := some 0 }.lastVec2 = some 0) ∧
    (testDue idles (rafterUnit 95) = true ∧ rafterUnit 0 ∈ testUnits idles ∧ rafterUnit 0 ∉ idles.saf.swept ∧
      testDue (runs rafterA) (rafterUnit 0) = false) ∧
    (scrubOwner .scratch (rafterUnit 95) = true ∧ physOf idles 95 = some 95 ∧ idles.rft[95]? = some Rafter.reset ∧
      scrubOwner .spar (trussUnit 15) = true ∧ idles.trs[unitInst (trussUnit 15)]? = some Truss.reset ∧
      scrubOwner .hbm (eaveUnit 7) = true ∧ scrubOwner .ridge ridgeUnit = true) ∧
    (let s := { idles with saf := { Safety.reset with swept := testUnits idles } }
     testDue s (rafterUnit 0) = true ∧ ∀ v ∈ testUnits s, v = rafterUnit 0 ∨ v ∈ s.saf.swept) := by
  refine ⟨?_, ?_, ?_, ?_, ?_, ?_, fun v h => .inr h⟩ <;> decide +kernel

theorem witness_RidgeLosesControl :
    State.reset.pwr.pwrgood = false ∧
    ({ State.reset with pwr := { Power.reset with pwrgood := true } } : State).pwr.pwrgood = true := ⟨rfl, rfl⟩

def resetReq (phase : BitVec 2) : ResetReq :=
  { trigger := oneRecord, seq := 0, lasting := false, phase := phase, raised := 0 }
def resets (phase : BitVec 2) : State :=
  { State.reset with
    crs := { Crs.reset with running := true, phase := phase }
    saf := { Safety.reset with resetReq := some (resetReq phase) } }

/-- An image whose rafter 0 is marked for the decision phase. -/
def decisionRafter : RafterImg :=
  { rafter := 0, entry := 0, decision := true, serve := false, progLimit := 0, depths := [], slots := [], descs := []
    lats := [], valley := [], reads := [] }
def decisionImage : Image := { image with rafters := [decisionRafter] }

theorem witness_WarmResets :
    (∀ ph ∈ [(1 : BitVec 2), 2, 3], (resets ph).saf.resetReq = some (resetReq ph) ∧ (resets ph).crs.running = true ∧
      (resets ph).saf.hwSafe = false ∧ (resets ph).hst.waiting = [] ∧ (resets ph).rft.length = 96) ∧
    (0 ∈ positions State.reset ∧ ∃ q, decisionImage.rafters.find? (fun r => r.rafter = logicalOf State.reset 0) = some q ∧
      q.decision = true ∧ ∀ r ∈ decisionImage.rafters, ∀ c ∈ r.slots, c.routine = none) ∧
    State.reset.saf.resetReq = none :=
  ⟨by decide +kernel, ⟨by decide +kernel, ⟨decisionRafter, by decide +kernel, rfl, by decide +kernel⟩⟩, rfl⟩

/-! ### Power and host accesses -/

/-- A flash directory that reads, with its CRC (the CRC's own value). -/
def flashDir : FlashDir :=
  let d := { magic := 0x534B4644, slotA := 0x1000, slotB := 0x2000, rsOff := 0, rsLen := 0, flags := 0, crc := 0 : FlashDir }
  { d with crc := crc32c (dirBytes d) }

theorem witness_BringUpAndPowerLoss :
    State.reset.pwr.pwrgood = false ∧ State.reset.pkg.perst = false ∧
    (let s := { State.reset with
       pwr := { Power.reset with pwrgood := true, boot := true }
       pkg := { Pkg.reset with perst := true }
       sec := { Sec.reset with burn := some (63, 5) } }
     s.pwr.pwrgood = true ∧ s.pkg.perst = true ∧ s.pwr.dead = false ∧ s.pwr.boot = true ∧ s.sec.burn = some (63, 5) ∧
     63 < s.sec.fuses.ctrs.length ∧ ctrValue s 63 ≤ 5) ∧
    (let s := { idles with pwr := { Power.reset with stage := 1 } }
     s.pwr.stage = 1 ∧ s.saf.hwSafe = false ∧ s.pwr.fullDue = none ∧ s.pwr.mtFail = 0 ∧ s.eav.length = 8 ∧
     s.crs.running = false ∧ s.cxl[0]? = some CxlPort.reset ∧ (0x7F : Byte).getLsbD 7 = false) ∧
    (dirValid flashDir = true ∧ dirValid { flashDir with magic := 0 } = false) ∧ (runs rafterA).crs.running = true := by
  decide +kernel

def calmSample (proj10 : W16) (temp : Byte) : GovSample :=
  { avg := 500, ms1 := 500, proj10 := proj10, proj1 := 500, failsAtFloor := false, temps := List.replicate 28 temp
    valid := BitVec.allOnes 28 }

theorem witness_PowerStatesAndGovernor :
    (let s := { idles with now := 100000 }
     s.pwr.stage ≠ 0 ∧ s.saf.hwSafe = false ∧ s.crs.running = false ∧ s.crs.starting = false ∧ s.pwr.st = 0 ∧
     s.pwr.lastUse + 100000 ≤ s.now) ∧
    (let s := { idles with
       pwr := { Power.reset with pwrgood := true, skip := 1, aclk := 0, floor := 3 }
       pkg := { Pkg.reset with perst := true }
       now := 10000 }
     hostUp s = true ∧ hostUp State.reset = false ∧ s.pwr.pwrgood = true ∧ maxSkip s = 8 ∧
     s.pwr.limit.toNat < (calmSample 601 40).proj10.toNat ∧ (calmSample 570 40).proj10.toNat + 30 ≤ s.pwr.limit.toNat ∧
     s.pwr.limit.toNat < (calmSample 571 40).proj10.toNat + 30 ∧ s.pwr.skipAt + 10000 ≤ s.now ∧
     (hottest { s with pwr := { s.pwr with temps := (calmSample 500 104).temps, tempValid := BitVec.allOnes 28 } }).2.toInt = 104 ∧
     (hottest { s with pwr := { s.pwr with temps := (calmSample 500 105).temps, tempValid := BitVec.allOnes 28 } }).2.toInt = 105) ∧
    ({ Power.reset with st := 4 } : Power).st = 4 ∧ ({ Power.reset with st := 3 } : Power).st ≠ 4 := by
  decide +kernel

/-- A device whose host port is up, in stage Full. -/
def upHost : State :=
  { idles with
    pwr := { Power.reset with stage := 2, pwrgood := true }
    pkg := { Pkg.reset with perst := true } }

theorem reached_upHost : Reached upHost := ⟨by decide, rfl⟩
theorem awake_upHost : Awake upHost := { up := by decide, calm := rfl, works := rfl, state := by decide }

theorem witness_HostAccesses :
    (Reached upHost ∧ Awake upHost) ∧
    (hostUp State.reset = false ∧ hostUp upHost = true) ∧
    ((0 : BitVec 26).toNat % 4 = 0 ∧ wakesDie (regAt upHost 0) = false ∧ upHost.lnk.ports[7]? = some LnkPort.reset ∧
      (2 : BitVec 26).toNat % (4 : BitVec 4).toNat ≠ 0) ∧
    (let s := { upHost with prog := { Prog.reset with loaded := true, reduced := true } }
     s.prog.loaded = true ∧ s.prog.reduced = true ∧ (0x3FFFFF : BitVec 40).toNat < 0x400000) ∧
    (let s := { upHost with eav := { Eave.reset with hbm := [(resvBase, 1)] } :: List.replicate 7 Eave.reset }
     s.hst.bridgeFence ≠ 3 ∧ (0xFFFFFF : BitVec 40).toNat < s.hst.barSize * 2 ^ 30 - 2 ^ 33 ∧ s.prog.reduced = false ∧ s.eav.length = 8 ∧
     (s.hst.winBase.toNat + 0xFFFFFF) / 2 ^ 24 = (0 : BitVec 19).toNat ∧ entFrame (tierEntry s 0) < 2240 ∧
     0xFFFFFF % 2 ^ 24 + (1 : W16).toNat ≤ 2 ^ 24 ∧ entState (tierEntry s 0) = stResident) ∧
    (let off := BitVec.ofNat 40 (256 * 2 ^ 30 - 2 ^ 33 + 2 ^ 30 * 7 + 0xFFFFF)
     8 ≤ upHost.hst.barSize ∧ off.toNat = upHost.hst.barSize * 2 ^ 30 - 2 ^ 33 + 2 ^ 30 * 7 + 0xFFFFF ∧
     0xFFFFF + (1 : W16).toNat ≤ 0x100000) ∧
    ({ upHost with saf := { Safety.reset with hwSafe := true } }.saf.hwSafe = true) ∧ exhausted upHost hostUnit = false :=
  ⟨⟨reached_upHost, awake_upHost⟩, by decide +kernel⟩

theorem witness_CourseAndHostRegisters :
    Reached upHost ∧ upHost.pwr.stage ≠ 0 ∧
    ((9999 : W32).toNat < 10000 ∧ 10000000 < (10000001 : W32).toNat ∧ upHost.crs.minPeriod.toNat ≤ (10000 : W32).toNat ∧
      upHost.crs.running = false ∧ upHost.crs.starting = false ∧ upHost.crs.heldSets = [] ∧
      upHost.crs.period.toNat ≤ (1000000 : W32).toNat ∧ (999999 : W32).toNat < upHost.crs.period.toNat) ∧
    (upHost.prog.loaded = false ∧ 6 ≤ (0x80000006 : W32).toNat % 32 ∧ (0x80000010 : W32).toNat % 32 ≤ 16 ∧
      (∀ p ∈ positions upHost, (rafterAt upHost p).prefetch = [])) ∧
    (let s := { upHost with hst := hostReady }
     s.hst.crLog2.toNat ≤ 16 ∧ s.hst.cqTail.toNat < ringSize s ∧ (63 : W32).toNat < ringSize s) :=
  ⟨reached_upHost, by decide +kernel⟩

theorem witness_CounterAndSecurityRegisters :
    Reached upHost ∧ upHost.pwr.stage ≠ 0 ∧
    (upHost.rft.length = 96 ∧ upHost.trs.length = 16 ∧ upHost.eav.length = 8 ∧ upHost.lnk.ports.length = 8 ∧
      upHost.cxl.length = 2 ∧ ctrAt upHost 0 = some Ctr.reset ∧ ctrAt upHost 1047 = some Ctr.reset ∧
      eventListed 1047 (field (0x3C00001 : W32).toNat 16 10) = true ∧ ctrEnabled upHost 1047 Ctr.reset = false) ∧
    (let s := { upHost with lnk := upHost.lnk, hst := { upHost.hst with ctr := { Ctr.reset with cfg := 1 } :: upHost.hst.ctr.tail } }
     ctrAt s 1040 = some { Ctr.reset with cfg := 1 } ∧ ctrEnabled s 1040 { Ctr.reset with cfg := 1 } = true) ∧
    (let s := { upHost with sec := { Sec.reset with fwSvn := 3 } }
     s.sec.burn = none ∧ ctrValue s 0 < 3 ∧ guardedSvn s 0 = some 3 ∧ field (0x80000300 : W32).toNat 8 7 = 3 ∧
     (0x80000300 : W32).getLsbD 31 = true) ∧
    (upHost.prog.loaded = false ∧ upHost.sec.fuses.owned.getLsbD 3 = false) :=
  ⟨reached_upHost, by decide +kernel⟩

theorem witness_SecurityAndBoardManagement :
    State.reset.sec.burn = none ∧
    (let s := { upHost with sec := { Sec.reset with burn := some (63, 5), attGo := true, dbgGo := true } }
     s.sec.burn = some (63, 5) ∧ s.saf.hwSafe = false ∧ 63 < s.sec.fuses.ctrs.length ∧ s.sec.attGo = true ∧
     s.sec.nonce.length = 8 ∧ s.sec.fuses.ctrs.length = 64 ∧ s.sec.dbgGo = true ∧ hostUp s = true ∧ s.pwr.stage ≠ 0) ∧
    (smbUp upHost = true ∧ smbUp State.reset = false ∧ ({ Pkg.reset with alertLow := true } : Pkg).alertLow = true) := by
  decide +kernel

/-! ### The whole machine -/

theorem witness_InstructionWordsRoundTrip : (steerOps .planned).n ≠ 0 := by decide

theorem witness_HostCommandEntriesRoundTrip : encodeCmd (.publishPermit 0x0123 0 false 27) ≠ none := by decide +kernel

theorem witness_StepKeepsFences : FencesUsable State.reset ∧ ∃ t, step State.reset = .next t := ⟨by unfold FencesUsable; decide, _, rfl⟩

/-! ### Words of the spec -/

/-- The LOAD of the worked example of chapter 6. -/
theorem test_word_load : decodeOcnen 0 0x800030122500B8180000000000000000 = some (.load 0
    { fire := .none, chain := false, cspar := 0x3012 }
    { sag := 2, dag := 5, sq := false, dq := false, qi := 0, desc := 0x17, shp := .planned, dtype := .e4m3, rnd := false
      sat := false, iag := 0 } .pass) := by decide +kernel

/-- The TMM of Table 7.10. -/
theorem test_word_tmm : decodeOcnen 0 0xA4003013346213311822000000000000 = some (.tmm 0
    { fire := .none, chain := false, cspar := 0x3013 }
    { aag := 3, bag := 4, dag := 6, td := 0x21, atype := .e4m3, btype := .e4m3, dtype := .bf16, auns := false, buns := false
      ws := false, buf := true, drn := true, dq := false, qi := 0, rnd := false, sat := true, shp := .reg 0, vt := 0
      clr := false } .pass) := by decide +kernel

/-- The V.MUL of chapter 7's SiLU chain. -/
theorem test_word_vmul : decodeOcnen 0 0xC021FFFF4810101000080000_3F000000 = some (.vMul 0 { fire := .none, chain := true, cspar := 0xFFFF }
    { opa := .stream 2, opb := .imm, opc := .none, dk := .pass, dst := 0, atype := .bf16, btype := .fp32, dtype := .fp32
      bf := false, rnd := false, sat := false, shp := .planned, count := 262144, usgn := false, imm := 0x3F000000 } .pass) := by
  decide +kernel

/-- The LOOP of chapter 10. -/
theorem test_word_loop : decodeOcnen 0 0x0400FFFFC0A980000180000000000000 = some (.loop 0
    { fire := .none, chain := false, cspar := 0xFFFF } { lc := 6, endIdx := 21, shp := .reg 2, count := 3 }) := by
  decide +kernel

/-- The PUBLISH.PERMIT of chapter 14: bytes 0 to 3 are 09 01 23 01 with PHASE in byte 1, and byte 0x10 is 0x1B. -/
theorem test_entry_permit : decodeCmd (0x01230009 + 0x1B * 2 ^ 128) = some (.publishPermit 0x0123 0 false 27) ∧
    parseEntry (0x01230109 + 0x1B * 2 ^ 128) = some (.publishPermit 0x0123 0 false 27) := by decide +kernel

/-! ### Ill-formed commands -/

theorem test_refused_loads : wellFormed (.load 0 fr { streamOps .planned 0 with iag := 0, rnd := true } .pass) = false ∧
    wellFormed (.store 0 fr { streamOps .planned 0 with iag := 0, dq := true, dag := 0 } .pass) = false ∧
    wellFormed (.load 0 fr (streamOps .planned 0) .pass) = false ∧
    wellFormed (.load 0 fr { streamOps .planned 0 with iag := 0 } .pass) = true := by decide +kernel

theorem test_refused_frames : wellFormed (.nop 0 { fr with fire := .inp }) = false ∧
    wellFormed (.nop 0 { fr with chain := true }) = false ∧ wellFormed (.hip 0 fr 0) = false ∧
    wellFormed (.signalAdd 0 fr 0 0) = false ∧ wellFormed (.arrive 0 fr 0 0) = false ∧
    wellFormed (.setSh 0 fr { setShOps with value := 1 } .pass) = false ∧
    wellFormed (.drain 0 { fr with fire := .inp } drainOps) = false ∧ wellFormed (.nop 0 fr) = true := by decide +kernel

theorem test_refused_engines : wellFormed (.steerSelect 0 fr { steerOps .planned with n := 0 }) = false ∧
    wellFormed (.upd 0 fr { updOps .planned with vt0 := 63 } .pass) = false ∧
    wellFormed (.tld 0 fr tensorOps .pass) = false ∧
    wellFormed (.tmm 0 fr { tensorOps with btype := .int8 } .pass) = false ∧
    wellFormed (.vAdd 0 fr (vectorOps 0) .pass) = false ∧
    wellFormed (.rnLn 0 fr { rowOps with pag := 1, dyag := 1 } .pass) = false ∧
    wellFormed (.rnSpill 0 fr rowOps .pass) = false ∧ wellFormed (.collFr 0 fr { collOps (.reg 0) with sag := 0 }) = false := by
  decide +kernel

theorem test_refused_host_commands : wellFormed (.progLoad 0 1 0 false) = false ∧
    wellFormed (.progLoad 0 0 0x40000001 false) = false ∧ wellFormed (.winBind 0 0 1 0 0) = false ∧
    wellFormed (.winBind 0 0 0 1 0) = false ∧ wellFormed (.tierAlloc { allocOps 0 1 with width := 3 }) = false ∧
    wellFormed (.tierAlloc { allocOps 0 1 with stack := 8 }) = false ∧
    wellFormed (.tierAlloc { allocOps 0 1 with owner := 16 }) = false ∧
    wellFormed (.tierSeal { tag := 0, first := 0x7FFFF, count := 2 }) = false ∧
    wellFormed (.linkExport { xferOps false with count := 2 }) = false ∧ wellFormed (.portService 0 true 2 true) = false ∧
    wellFormed (.portService 0 false 8 true) = false ∧ wellFormed (.pwrTol 0 0x1000000) = false ∧
    wellFormed (.tierAlloc (allocOps 0x7FFFF 1)) = true := by decide +kernel

end Sys2Proof.Tests
end

section
/-!
PROOFS. Softmax rows whose elements are all −∞ (R190): the running maximum of such a row never leaves its start −∞,
neither along a lane nor in the fold of the lanes (R181).
-/

namespace Sys2Proof.Machine

/-! ### Row folds that stay at their start value (R181) -/

/-- The partial of a lane stays at a start value that every element of the row keeps. -/
theorem rowLane_fst_of_fixed {len : Nat} {g : Nat → W32 → W32 × Nat} {a : W32}
    (hg : ∀ k, k < len → (g k a).1 = a) (m k : Nat) : (rowLane len g m k a).1 = a := by
  induction m generalizing k with
  | zero => rfl
  | succ m ih =>
    by_cases hk : k < len
    · simp only [rowLane, if_pos hk, hg k hk, ih]
    · simp only [rowLane, if_neg hk]

/-- The fold of 2ⁿ lanes that all hold a value which two lanes fold back to leaves that value alone. -/
theorem foldLanes_replicate_fst {max : Bool} {a : W32} (ha : (foldOp max a a).1 = a) (n : Nat) :
    (foldLanes max n (2 ^ n / 2) (List.replicate (2 ^ n) a)).1 = [a] := by
  induction n with
  | zero => rfl
  | succ n ih =>
    have half : 2 ^ (n + 1) / 2 = 2 ^ n := by omega
    have firstStep : (List.range (2 ^ n)).map (fun p => (foldOp max ((List.replicate (2 ^ (n + 1)) a).getD p 0)
        ((List.replicate (2 ^ (n + 1)) a).getD (p + 2 ^ n) 0)).1) = List.replicate (2 ^ n) a := by
      refine List.eq_replicate_iff.2 ⟨by rw [List.length_map, List.length_range], fun b hb => ?_⟩
      obtain ⟨p, hp, rfl⟩ := List.mem_map.1 hb
      have hp : p < 2 ^ n := List.mem_range.1 hp
      have lower : p < 2 ^ (n + 1) := by omega
      have upper : p + 2 ^ n < 2 ^ (n + 1) := by omega
      simp only [List.getD_eq_getElem?_getD, List.getElem?_replicate, if_pos lower, if_pos upper, Option.getD_some, ha]
    simp only [foldLanes, half, List.map_map, Function.comp_def, firstStep, ih]

/-- A row sum or maximum is its start value when every element, and the fold of two lanes, keeps that value. -/
theorem rowFold_fst_of_fixed {max : Bool} {len : Nat} {a : W32} {g : Nat → W32 → W32 × Nat}
    (ha : (foldOp max a a).1 = a) (hg : ∀ k, k < len → (g k a).1 = a) : (rowFold max len a g).1 = a := by
  have lanes : (List.range 128).map (fun p => (rowLane len g (len / 128 + 1) p a).1) = List.replicate 128 a :=
    List.eq_replicate_iff.2 ⟨by rw [List.length_map, List.length_range], fun b hb => by
      obtain ⟨p, -, rfl⟩ := List.mem_map.1 hb
      exact rowLane_fst_of_fixed hg _ p⟩
  have folded : (foldLanes max 7 64 (List.replicate 128 a)).1 = [a] := foldLanes_replicate_fst ha 7
  simp only [rowFold, List.map_map, Function.comp_def, lanes, folded, List.getD_cons_zero]

/-! ### Softmax rows (R190) -/

/-- The larger of −∞ and −∞ is −∞. -/
theorem pickV_negInf : pickV false negInf negInf = negInf := by decide

/-- The maximum of a softmax row whose scaled elements are all −∞ is −∞. -/
theorem rowMax_negInf {len : Nat} {x : Nat → W32} {alpha : W32} (hx : ∀ k, k < len → (mulR (x k) alpha).1 = negInf) :
    (rowFold true len negInf (fun k p => (pickV false p (mulR (x k) alpha).1, (mulR (x k) alpha).2))).1 = negInf := by
  refine rowFold_fst_of_fixed ?_ (fun k hk => ?_)
  · simp only [foldOp, if_true, pickV_negInf]
  · simp only [hx k hk, pickV_negInf]

/-- EMPTY_ROW added to any flags is among them. -/
theorem or_vfEmptyRow_and (flags : Nat) : (flags ||| vfEmptyRow) &&& vfEmptyRow = vfEmptyRow := by
  refine Nat.eq_of_testBit_eq fun i => ?_
  rw [Nat.testBit_and, Nat.testBit_or, Bool.and_eq_right_iff_imp, Bool.or_eq_true]
  exact Or.inr

/-- RN.SMX of a row whose maximum is −∞: zeros, the record of an empty row, and EMPTY_ROW beside the flags of the
products. -/
theorem rowSmx_of_empty {len : Nat} {x : Nat → W32} {alpha : W32} (hx : ∀ k, k < len → (mulR (x k) alpha).1 = negInf) :
    ∃ flags, rowSmx len x alpha =
      (List.replicate len 0, { mean := 0, rstd := 0, max := negInf, sum := 0 }, flags ||| vfEmptyRow) :=
  ⟨_, if_pos (rowMax_negInf hx)⟩

/-- RN.SMX.B of a row whose record holds MAX −∞: zeros and no flags. -/
theorem rowSmxB_of_empty (len : Nat) (x dy : Nat → W32) (alpha : W32) {r : RowRec} (hr : r.max = negInf) :
    rowSmxB len x dy alpha r = (List.replicate len 0, 0) := by
  rw [rowSmxB, if_pos hr]

/-- Settles O25: the maximum of the row stays −∞, so RN.SMX takes its branch for an empty row; RN.SMX.B takes its own
by the record's MAX. -/
theorem emptySoftmaxRows : Obligations.EmptySoftmaxRows := by
  unfold Obligations.EmptySoftmaxRows
  refine ⟨fun len x alpha hx => ?_, fun len x dy alpha r hr => ?_⟩
  · obtain ⟨flags, hrow⟩ := rowSmx_of_empty hx
    rw [hrow]
    exact ⟨rfl, rfl, or_vfEmptyRow_and flags⟩
  · rw [rowSmxB_of_empty len x dy alpha hr]

end Sys2Proof.Machine
end

section
/-!
PROOFS. The sequencer's instructions that begin as they enter its queue (R204): SETSH from the scratchpad (R222), and the
hip tokens of HIP and SLOT (R116 to R119, R217, R218), which go out one output queue after another, lowest first.
-/

namespace Sys2Proof.Machine

/-! ### The sequencer's queue once its last instruction has begun -/

theorem unitQ_zero {x : Rafter} {us : List (List InFlight)} {l : List InFlight} (hx : x.units = us.set 0 l)
    (hl : 0 < us.length) : unitQ x 0 = l := by
  simp [unitQ, hx, List.getD_eq_getElem?_getD, hl]

/-- Nothing is to begin where the last instruction has begun and every earlier one has finished. -/
theorem nextJob_append_begun {q : List InFlight} (hq : AllDone q) {e : InFlight} (hj : e.job = none) (i : Nat) :
    nextJob (q ++ [e]) i = none := by
  induction q generalizing i with
  | nil => by_cases hd : e.done <;> simp [nextJob, hd, hj]
  | cons a q ih =>
    have ha : a.done = true := hq a (by simp)
    simp [nextJob, ha, ih (fun b hb => hq b (by simp [hb]))]

theorem startJobs_of_nextJob_none {s : State} {n : RafterId} {p : Nat} (hp : physOf s n = some p)
    (h : nextJob (unitQ (rafterAt s p) 0) 0 = none) (k : Nat) : startJobs k s n = s := by
  cases k with
  | zero => rfl
  | succ k => simp [startJobs, hp, h]

theorem begun_last {x : Rafter} {us : List (List InFlight)} {q : List InFlight} {e : InFlight}
    (hx : x.units = us.set 0 (q ++ [e])) (hl : 0 < us.length) (done : Bool) :
    begun x 0 q.length e done =
      { x with units := us.set 0 (q ++ [{ e with job := none, done := done }]), progress := 0 } := by
  simp [begun, setUnitQ, unitQ_zero hx hl, hx]

/-- Finishing an instruction again that has finished changes nothing. -/
theorem finish_done {e : InFlight} (hd : e.done = true) : { e with done := true } = e := by
  obtain ⟨⟩ := e
  cases hd
  rfl

/-- Of a queue whose earlier instructions have finished, only the last can be finished. -/
theorem finishKind_last {x : Rafter} {us : List (List InFlight)} {q : List InFlight} {e : InFlight}
    (hx : x.units = us.set 0 (q ++ [e])) (hl : 0 < us.length) (hq : AllDone q) (k : Await) :
    finishKind x 0 k =
      { x with units := us.set 0 (q ++ [if e.kind = k ∧ e.job = none then { e with done := true } else e]) } := by
  have hkeep : q.map (fun e => if e.kind = k ∧ e.job = none then { e with done := true } else e) = q := by
    refine (List.map_congr_left fun a ha => ?_).trans (List.map_id q)
    rw [finish_done (hq a ha), ite_self, id]
  simp only [finishKind, setUnitQ, unitQ_zero hx hl, hx, List.map_append, hkeep, List.map_cons, List.map_nil,
    List.set_set]

/-! ### Tokens and masks -/

theorem tokKind_mkHeader {kind : Nat} (hk : kind < 4) (len : Nat) (seq : W16) (epoch : BitVec 4) (src : UnitId)
    (srcq : Nat) (se : Bool) : tokKind (mkHeader kind len seq epoch src srcq se) = kind := by
  simp only [tokKind, mkHeader, field, BitVec.toNat_ofNat, Nat.shiftRight_zero]
  omega

@[simp] theorem isData_hip (seq : W16) (epoch : BitVec 4) (src : UnitId) (srcq : Nat) (se : Bool) (data : List Byte) :
    isData (mkToken 2 seq epoch src srcq se data) = false := by
  simp [isData, mkToken, tokKind_mkHeader]

/-- A sum of distinct powers of two below 2ⁿ has exactly their bits. -/
theorem testBit_powerSum (f : Nat → Bool) (n : Nat) :
    let a := (List.range n).foldl (fun a q => if f q then a + 2 ^ q else a) 0
    a < 2 ^ n ∧ ∀ k, k < n → a.testBit k = f k := by
  induction n with
  | zero => simp
  | succ n ih =>
    obtain ⟨hlt, hbits⟩ := ih
    simp only [List.range_succ, List.foldl_append, List.foldl_cons, List.foldl_nil]
    generalize (List.range n).foldl (fun a q => if f q then a + 2 ^ q else a) 0 = a at hlt hbits ⊢
    have hpow : 2 ^ (n + 1) = 2 ^ n * 2 := by rw [Nat.pow_succ]
    cases hf : f n with
    | false =>
      simp only [Bool.false_eq_true, if_false]
      refine ⟨by omega, fun k hk => ?_⟩
      rcases Nat.lt_succ_iff_lt_or_eq.1 hk with hk | rfl
      · exact hbits k hk
      · rw [hf, Nat.testBit_lt_two_pow hlt]
    | true =>
      simp only [if_true, Nat.add_comm a]
      refine ⟨by omega, fun k hk => ?_⟩
      rcases Nat.lt_succ_iff_lt_or_eq.1 hk with hk | rfl
      · rw [Nat.testBit_two_pow_add_gt hk, hbits k hk]
      · rw [Nat.testBit_two_pow_add_eq, Nat.testBit_lt_two_pow hlt, hf]; rfl

/-- The hip tokens due are those of the active output queues that have sent none in the slot. -/
theorem getLsbD_hipsDue (x : Rafter) {k : Nat} (hk : k < 8) :
    (hipsDue x).getLsbD k = (descOq (slotDescOf x x.seq.slot) k && !(oqOf x k).hipSent) := by
  simp only [hipsDue, BitVec.getLsbD_ofNat, hk, decide_true, Bool.true_and]
  exact (testBit_powerSum _ 8).2 k hk

theorem lowestOf_eq_none {mask : Byte} : lowestOf mask = none ↔ ∀ k, k < 8 → mask.getLsbD k = false := by
  simp [lowestOf]

theorem lowestOf_eq_some {mask : Byte} {q : Nat} :
    lowestOf mask = some q ↔ q < 8 ∧ mask.getLsbD q = true ∧ ∀ k, k < q → mask.getLsbD k = false := by
  simp only [lowestOf, List.find?_range_eq_some, List.mem_range, Bool.not_eq_true', and_left_comm]

theorem getLsbD_without (mask : Byte) (q k : Nat) (hk : k < 8) :
    (mask &&& ~~~(1#8 <<< q)).getLsbD k = (mask.getLsbD k && decide (k ≠ q)) := by
  have hbit : (decide (k < q) || !decide (k - q = 0)) = !decide (k = q) := by
    grind
  simp [hk, hbit]

/-! ### Sending what an output queue holds (R101, R115, R119) -/

/-- An output queue once it has sent everything that it holds: its firing counter has risen by the data tokens among what
was still to send. -/
def allSent (o : Queue) (held : Table Nat) : Queue :=
  { o with
    sent := o.tokens.length
    held := held
    fired := o.fired + BitVec.ofNat 24 ((o.tokens.drop o.sent).filter isData).length }

theorem allSent_of_nothing {o : Queue} (h : o.sent = o.tokens.length) : allSent o o.held = o := by
  have hnone : ((o.tokens.drop o.sent).filter isData).length = 0 := by simp [h]
  rw [allSent, hnone, ← h]
  simp

/-- An output queue once it has sent its next token `t` on the route `k`. -/
def nextSent (k : Nat) (o : Queue) (t : Token) : Queue :=
  { o with
    sent := o.sent + 1
    held := tablePut 0 o.held k (if isHip t then 0 else tableGet 0 o.held k - 1)
    fired := if isData t then o.fired + 1 else o.fired }

theorem pumpQueue_of_credit {k : Nat} {o : Queue} (h : o.sent < o.tokens.length) (hc : tableGet 0 o.held k ≠ 0)
    (m : Nat) : pumpQueue k (m + 1) o = pumpQueue k m (nextSent k o o.tokens[o.sent]) := by
  simp [pumpQueue, hc, h, nextSent]

theorem allSent_nextSent {o : Queue} (h : o.sent < o.tokens.length) (k : Nat) (held : Table Nat) :
    allSent (nextSent k o o.tokens[o.sent]) held = allSent o held := by
  simp only [allSent, nextSent, List.drop_eq_getElem_cons h, List.filter_cons]
  split
  · simp only [List.length_cons, Nat.add_comm _ 1, BitVec.ofNat_add, ← BitVec.add_assoc]
    rfl
  · rfl

/-- A queue with a credit for each token that it has still to send, none but the last of which is a hip token, sends them
all. -/
theorem pumpQueue_sends (k m : Nat) (o : Queue) (hm : o.tokens.length - o.sent ≤ m) (hsent : o.sent ≤ o.tokens.length)
    (hhip : ∀ t ∈ (o.tokens.drop o.sent).dropLast, isHip t = false)
    (hheld : o.tokens.length - o.sent ≤ tableGet 0 o.held k) : ∃ h, pumpQueue k m o = allSent o h := by
  induction m generalizing o with
  | zero => exact ⟨o.held, (allSent_of_nothing (o := o) (by omega)).symm⟩
  | succ m ih =>
    by_cases hend : o.sent = o.tokens.length
    · exact ⟨o.held, by simp [pumpQueue, hend, allSent_of_nothing hend]⟩
    have hlt : o.sent < o.tokens.length := by omega
    have hrest : (o.tokens.drop (o.sent + 1)).length = o.tokens.length - (o.sent + 1) := List.length_drop
    rw [List.drop_eq_getElem_cons hlt] at hhip
    have hhip' : ∀ t ∈ (o.tokens.drop (o.sent + 1)).dropLast, isHip t = false := fun t ht => by
      have hne : o.tokens.drop (o.sent + 1) ≠ [] := fun hnil => by simp [hnil] at ht
      rw [List.dropLast_cons_of_ne_nil hne] at hhip
      exact hhip t (List.mem_cons_of_mem _ ht)
    have hheld' : o.tokens.length - (o.sent + 1) ≤ tableGet 0 (nextSent k o o.tokens[o.sent]).held k := by
      simp only [nextSent, tableGet_tablePut, if_true]
      by_cases hnil : o.tokens.drop (o.sent + 1) = []
      · rw [hnil, List.length_nil] at hrest
        omega
      · rw [hhip o.tokens[o.sent] (List.dropLast_cons_of_ne_nil hnil ▸ List.mem_cons_self)]
        simp only [Bool.false_eq_true, if_false]
        omega
    obtain ⟨held, hall⟩ := ih (nextSent k o o.tokens[o.sent]) (by simp only [nextSent]; omega)
      (by simp only [nextSent]; omega) hhip' hheld'
    exact ⟨held, by rw [pumpQueue_of_credit hlt (by omega), hall, allSent_nextSent hlt]⟩

/-! ### The hip token of one output queue (R116 to R119) -/

/-- Output queue `q` with its hip token at the end, not yet sent. -/
def withHip (n : RafterId) (x : Rafter) (q : Nat) : Queue :=
  { oqOf x q with
    tokens := (oqOf x q).tokens ++ [mkToken 2 (oqOf x q).seq (outEpoch x q) (rafterUnit n) q false
      (hipData (hipTotal (oqOf x q)) x.seq.slot)]
    seq := 0
    epochs := tablePut 0 (oqOf x q).epochs (routeKey (outRoute x q)) (outEpoch x q + 1)
    hipSent := true }

/-- Output queue `q` after its hip token has entered it: the own stream engine is at hand, and on another route it sends as
far as its credits reach. -/
def afterHip (n : RafterId) (x : Rafter) (q : Nat) : Queue :=
  if oqToSe x q then { withHip n x q with sent := (withHip n x q).tokens.length }
  else pump (routeKey (outRoute x q)) (withHip n x q)

theorem pushHip_eq (n : RafterId) (x : Rafter) (q : Nat) :
    pushHip n x q = hitRafter (setOq x q (afterHip n x q)) 0x51 ((afterHip n x q).sent - (oqOf x q).sent) := by
  simp only [pushHip, pushOut, afterHip, withHip, outEpoch, decide_true, if_true, Bool.or_true]
  rfl

/-- What stands in the queue before its hip token is sent has the credits for it and for the hip token. -/
theorem pump_withHip (n : RafterId) {x : Rafter} {q : Nat} (h : CanSendHip x q) (hse : oqToSe x q = false) :
    ∃ held, pump (routeKey (outRoute x q)) (withHip n x q) = allSent (withHip n x q) held := by
  obtain ⟨-, -, hsent, hroute⟩ := h
  obtain ⟨hdata, hcredits⟩ := hroute.resolve_left (by simp [hse])
  refine pumpQueue_sends _ _ _ (Nat.sub_le _ _) ?_ ?_ ?_
  · simp only [withHip, List.length_append]
    omega
  · simp only [withHip, List.drop_append_of_le_length hsent, List.dropLast_concat]
    exact hdata
  · simpa only [withHip, List.length_append, List.length_singleton] using hcredits

theorem afterHip_sentHip (n : RafterId) {x : Rafter} {q : Nat} (h : CanSendHip x q) :
    SentHip n x q (oqOf x q) (afterHip n x q) := by
  have hepoch : tableGet 0 (withHip n x q).epochs (routeKey (outRoute x q)) = outEpoch x q + 1 := by
    simp only [withHip, tableGet_tablePut, if_true]
  cases hse : oqToSe x q with
  | true =>
    rw [afterHip, if_pos hse]
    exact ⟨rfl, rfl, rfl, rfl, hepoch, fun h => by simp [hse] at h⟩
  | false =>
    obtain ⟨held, hall⟩ := pump_withHip n h hse
    obtain ⟨-, -, hsent, -⟩ := h
    rw [afterHip, if_neg (by simp [hse]), hall]
    refine ⟨rfl, rfl, rfl, rfl, hepoch, fun _ => ?_⟩
    simp only [allSent, withHip, hipTotal, List.drop_append_of_le_length hsent, List.filter_append, List.filter_cons,
      isData_hip, List.filter_nil, List.append_nil, Bool.false_eq_true, if_false]

/-! ### What an output queue's hip token depends on -/

/-- Output queue `k` of rafter `y` is that of rafter `x`, with the same routes and the same reservations. -/
structure SameOutput (x y : Rafter) (k : Nat) : Prop where
  slot : y.seq.slot = x.seq.slot
  route : y.route = x.route
  depth : y.depth = x.depth
  steering : y.stu = x.stu
  products : unitQ y 2 = unitQ x 2
  queue : oqOf y k = oqOf x k

theorem SameOutput.outRoute {x y : Rafter} {k : Nat} (h : SameOutput x y k) :
    Machine.outRoute y k = Machine.outRoute x k := by
  simp only [Machine.outRoute, routeOf, h.slot, h.route]

theorem SameOutput.canSendHip {x y : Rafter} {k : Nat} (h : SameOutput x y k) : CanSendHip y k ↔ CanSendHip x k := by
  simp only [CanSendHip, oqFree, stepRoom, productResv, steerResv, depthOf, oqToSe, h.outRoute, h.depth, h.steering,
    h.products, h.queue]

theorem SameOutput.sentHip {x y : Rafter} {k : Nat} (h : SameOutput x y k) (n : RafterId) (v w : Queue) :
    SentHip n y k v w ↔ SentHip n x k v w := by
  simp only [SentHip, outEpoch, oqToSe, h.outRoute, h.queue, h.slot]

/-! ### Hip tokens in ascending queue order (R218) -/

/-- Rafter `x` after output queue `q`, the lowest of `mask`, has sent its hip token. -/
def afterLowest (n : RafterId) (x : Rafter) (mask : Byte) (q : Nat) : Rafter :=
  { pushHip n x q with
    seq := { x.seq with hips := some (mask &&& ~~~(1#8 <<< q), false) }
    progress := 0 }

theorem oqOf_of_getElem? {x : Rafter} {k : Nat} {v : Queue} (h : x.oq[k]? = some v) : oqOf x k = v := by
  simp [oqOf, List.getD_eq_getElem?_getD, h]

theorem oqOf_set (x : Rafter) (q : Nat) (v : Queue) (k : Nat) :
    oqOf (setOq x q v) k = if k = q ∧ q < x.oq.length then v else oqOf x k := by
  simp only [oqOf, setOq, List.getD_eq_getElem?_getD, List.getElem?_set]
  by_cases hk : q = k
  · subst hk
    by_cases hlt : q < x.oq.length <;> simp [hlt]
  · simp [hk, Ne.symm hk]

theorem hipUnsent_of_sent {o : Queue} (h : o.sent = o.tokens.length) : hipUnsent o = false := by
  simp [hipUnsent, h]

theorem hipUnsent_pushHip (n : RafterId) {x : Rafter} {q : Nat} (h : CanSendHip x q) :
    hipUnsent (oqOf (pushHip n x q) q) = false := by
  obtain ⟨-, hsent, -⟩ := afterHip_sentHip n h
  rw [pushHip_eq]
  show hipUnsent (oqOf (setOq x q (afterHip n x q)) q) = false
  rw [oqOf_set]
  split
  · exact hipUnsent_of_sent hsent
  · next hlt =>
    have hnone : x.oq[q]? = none := by simpa using hlt
    rw [oqOf, List.getD_eq_getElem?_getD, hnone]
    rfl

theorem sendHips_none {n : RafterId} {x : Rafter} {mask : Byte} (hips : x.seq.hips = some (mask, false))
    (hq : lowestOf mask = none) (k : Nat) :
    sendHips n (k + 1) x = { x with seq := { x.seq with hips := none } } := by
  simp [sendHips, hips, hq]

theorem sendHips_enters {n : RafterId} {x : Rafter} {mask : Byte} {q : Nat} (hips : x.seq.hips = some (mask, false))
    (hq : lowestOf mask = some q) (hnew : (oqOf x q).hipSent = false) (hroom : 0 < oqFree x q) (k : Nat) :
    sendHips n (k + 1) x = sendHips n k { pushHip n x q with
      seq := { (pushHip n x q).seq with hips := some (mask, true) }, progress := 0 } := by
  simp [sendHips, hips, hq, hnew, Nat.ne_of_gt hroom]

theorem sendHips_entered {n : RafterId} {x : Rafter} {mask : Byte} {q : Nat} (hips : x.seq.hips = some (mask, true))
    (hq : lowestOf mask = some q) (hgone : hipUnsent (oqOf x q) = false) (k : Nat) :
    sendHips n (k + 1) x =
      sendHips n k { x with seq := { x.seq with hips := some (mask &&& ~~~(1#8 <<< q), false) } } := by
  simp [sendHips, hips, hq, hgone]

theorem sendHips_lowest {n : RafterId} {x : Rafter} {mask : Byte} {q : Nat} (hips : x.seq.hips = some (mask, false))
    (hq : lowestOf mask = some q) (h : CanSendHip x q) (k : Nat) :
    sendHips n (k + 2) x = sendHips n k (afterLowest n x mask q) := by
  have hgone := hipUnsent_pushHip n h
  obtain ⟨hnew, hroom, -, -⟩ := h
  refine (sendHips_enters hips hq hnew hroom (k + 1)).trans (sendHips_entered rfl hq ?_ k)
  exact hgone

/-- `y` is rafter `x` after its output queues in `mask` have each sent their hip token and the others have stayed. -/
structure HipsSent (n : RafterId) (x : Rafter) (mask : Byte) (y : Rafter) : Prop where
  frame : y = { x with oq := y.oq, seq := { x.seq with hips := none }, progress := 0, ctr := y.ctr }
  length : y.oq.length = x.oq.length
  queues : ∀ k v w, k < 8 → x.oq[k]? = some v → y.oq[k]? = some w →
    if mask.getLsbD k then SentHip n x k v w else w = v

theorem afterLowest_sameOutput (n : RafterId) (x : Rafter) (mask : Byte) {q k : Nat} (hk : k ≠ q) :
    SameOutput x (afterLowest n x mask q) k where
  slot := rfl
  route := rfl
  depth := rfl
  steering := rfl
  products := rfl
  queue := by
    have h : oqOf (afterLowest n x mask q) k = oqOf (setOq x q (afterHip n x q)) k := by
      rw [afterLowest, pushHip_eq]; rfl
    rw [h, oqOf_set, if_neg (fun hq => hk hq.1)]

theorem afterLowest_oq (n : RafterId) (x : Rafter) (mask : Byte) (q : Nat) :
    (afterLowest n x mask q).oq = x.oq.set q (afterHip n x q) := by
  rw [afterLowest, pushHip_eq]; rfl

/-- Once the lowest queue of the mask has sent its hip token, those of the rest remain. -/
theorem HipsSent.of_afterLowest {n : RafterId} {x y : Rafter} {mask : Byte} {q : Nat}
    (hq : lowestOf mask = some q) (hcan : CanSendHip x q)
    (h : HipsSent n (afterLowest n x mask q) (mask &&& ~~~(1#8 <<< q)) y) : HipsSent n x mask y := by
  obtain ⟨frame, length, queues⟩ := h
  have frame : y = { x with oq := y.oq, seq := { x.seq with hips := none }, progress := 0, ctr := y.ctr } := by
    rw [afterLowest, pushHip_eq] at frame
    exact frame
  refine ⟨frame, by rw [length, afterLowest_oq, List.length_set], fun k v w hk hv hw => ?_⟩
  rw [afterLowest_oq] at queues
  by_cases hkq : k = q
  · subst hkq
    have hlt := (List.getElem?_eq_some_iff.1 hv).1
    have hsame := queues k _ w hk (List.getElem?_set_self hlt) hw
    rw [getLsbD_without mask k k hk] at hsame
    have hw' : w = afterHip n x k := by simpa using hsame
    obtain ⟨-, hbit, -⟩ := lowestOf_eq_some.1 hq
    rw [hbit, if_pos rfl, hw', ← oqOf_of_getElem? hv]
    exact afterHip_sentHip n hcan
  · have hrest := queues k v w hk (by rw [List.getElem?_set_ne (Ne.symm hkq), hv]) hw
    rw [getLsbD_without mask q k hk, (afterLowest_sameOutput n x mask hkq).sentHip] at hrest
    simpa [hkq] using hrest

theorem hipsSent_of_lowestOf_none {n : RafterId} {x : Rafter} {mask : Byte} (hprogress : x.progress = 0)
    (hq : lowestOf mask = none) : HipsSent n x mask { x with seq := { x.seq with hips := none } } where
  frame := by rw [← hprogress]
  length := rfl
  queues k v w hk hv hw := by
    rw [lowestOf_eq_none.1 hq k hk, if_neg Bool.false_ne_true]
    exact Option.some.inj (hw.symm.trans hv)

/-- Every output queue of the mask that can send its hip token does so: each takes two rounds, and the queues of the mask are
among the last `m` of the eight. -/
theorem sendHips_hipsSent (n : RafterId) (m : Nat) (x : Rafter) (mask : Byte)
    (hips : x.seq.hips = some (mask, false)) (hprogress : x.progress = 0)
    (hlast : ∀ k, k < 8 → mask.getLsbD k = true → 8 ≤ k + m)
    (hcan : ∀ k, k < 8 → mask.getLsbD k = true → CanSendHip x k) :
    HipsSent n x mask (sendHips n (2 * m + 1) x) := by
  induction m generalizing x mask with
  | zero =>
    have hq : lowestOf mask = none := lowestOf_eq_none.2 fun k hk =>
      Bool.eq_false_iff.2 fun hbit => absurd (hlast k hk hbit) (by omega)
    rw [sendHips_none hips hq]
    exact hipsSent_of_lowestOf_none hprogress hq
  | succ m ih =>
    cases hq : lowestOf mask with
    | none =>
      rw [sendHips_none hips hq]
      exact hipsSent_of_lowestOf_none hprogress hq
    | some q =>
      obtain ⟨hq8, hbit, hbelow⟩ := lowestOf_eq_some.1 hq
      have hrest : ∀ k, k < 8 → (mask &&& ~~~(1#8 <<< q)).getLsbD k = true → mask.getLsbD k = true ∧ k ≠ q :=
        fun k hk h => by simpa [getLsbD_without mask q k hk] using h
      have hsent := hcan q hq8 hbit
      refine HipsSent.of_afterLowest hq hsent ?_
      rw [show 2 * (m + 1) + 1 = 2 * m + 1 + 2 from rfl, sendHips_lowest hips hq hsent]
      refine ih (afterLowest n x mask q) _ rfl rfl (fun k hk h => ?_) (fun k hk h => ?_)
      · obtain ⟨hk', hne⟩ := hrest k hk h
        have hge : q ≤ k := Nat.le_of_not_lt fun hlt => Bool.false_ne_true ((hbelow k hlt).symm.trans hk')
        have := hlast q hq8 hbit
        omega
      · obtain ⟨hk', hne⟩ := hrest k hk h
        exact (afterLowest_sameOutput n x mask hne).canSendHip.2 (hcan k hk hk')

/-! ### Instructions that begin as they enter the sequencer's queue (R204) -/

/-- An instruction behind finished ones begins at once, and nothing else of the queue does. -/
theorem enqueue_leaves {s : State} {n : RafterId} {p : Nat} {x y z : Rafter} {q : List InFlight} {e : InFlight}
    (h : Ready s n p x) (hr : Room x 0 q) (hq : AllDone q) (f : Frame) (kind : Await) (j : UnitJob) (place : Nat)
    (hu : y.units = x.units)
    (hjob : let e := { flight f kind false with job := some j, place := place }
      doJob (setRafter s p { y with units := x.units.set 0 (q ++ [e]) }) n p q.length e j = setRafter s p z)
    (hz : z.units = x.units.set 0 (q ++ [e])) (he : e.job = none) :
    enqueue s n p f kind j place y = setRafter s p z := by
  have hl : 0 < x.units.length := (List.getElem?_eq_some_iff.1 hr.1).1
  rw [enqueue_begins h hr hq f kind j place hu]
  simp only at hjob ⊢
  rw [hjob]
  refine startJobs_of_nextJob_none (s := setRafter s p z) h.place ?_ 3
  rw [rafterAt_setRafter h.state, unitQ_zero hz hl, nextJob_append_begun hq he]

theorem doJob_setSh_pass {s : State} {p : Nat} {x : Rafter} (h : s.rft[p]? = some x) (y : Rafter) (n : RafterId)
    (i : Nat) (e : InFlight) (k : BitVec 3) (a : Nat) :
    doJob (setRafter s p y) n p i e (.setSh k a .pass) =
      setRafter s p (begun (setSh y k (BitVec.ofNat 32 (memWord y.scratch a 4))) 0 i e true) := by
  simp only [doJob, rafterCheck, rafterCheckWith, UnitCheck.pass, List.foldl_nil, if_true, rafterAt_setRafter h,
    setRafter_setRafter]

theorem doJob_hip {s : State} {p : Nat} {x : Rafter} (h : s.rft[p]? = some x) (y : Rafter) (n : RafterId)
    (i : Nat) (e : InFlight) (mask : Byte) :
    doJob (setRafter s p y) n p i e (.hip mask) =
      hipsStep (setRafter s p (owesHips (begun y 0 i e false) mask)) n := by
  simp only [doJob, rafterAt_setRafter h, setRafter_setRafter]

theorem doJob_slot {s : State} {p : Nat} {x : Rafter} (h : s.rft[p]? = some x) (y : Rafter) (n : RafterId)
    (i : Nat) (e : InFlight) :
    doJob (setRafter s p y) n p i e .slot =
      hipsStep (setRafter s p (owesHips (begun y 0 i e false) (hipsDue y))) n := by
  simp only [doJob, rafterAt_setRafter h, setRafter_setRafter]

/-- HIP or SLOT has sent its last hip token. -/
theorem hipsStep_sent {s : State} {n : RafterId} {p : Nat} {x : Rafter} (hp : physOf s n = some p)
    (h : s.rft[p]? = some x) (y : Rafter) (hsent : (sendHips n 17 y).seq.hips = none) :
    hipsStep (setRafter s p y) n = setRafter s p (finishKind (sendHips n 17 y) 0 .hips) := by
  simp only [hipsStep, physOf_setRafter, hp, rafterAt_setRafter h, hipsBlocked, hsent, setRafter_setRafter, if_true]

/-- HIP, and SLOT, behind finished instructions, on queues that can all send their hip tokens: they send them at once, and
HIP has finished. -/
theorem enqueue_hips {s : State} {n : RafterId} {p : Nat} {x : Rafter} {q : List InFlight} (h : Ready s n p x)
    (hr : Room x 0 q) (hq : AllDone q) (f : Frame) (kind : Await) (j : UnitJob) (place : Nat) {sq : Seq} {c : List Ctr}
    {mask : Byte} (hslot : sq.slot = x.seq.slot)
    (hcan : ∀ k, k < 8 → mask.getLsbD k = true → CanSendHip x k)
    (hjob : ∀ us i e, let y := { x with seq := sq, units := us, progress := 0, ctr := c }
      doJob (setRafter s p y) n p i e j = hipsStep (setRafter s p (owesHips (begun y 0 i e false) mask)) n) :
    ∃ z, enqueue s n p f kind j place { x with seq := sq, progress := 0, ctr := c } = setRafter s p z ∧
      z = { x with
        oq := z.oq
        units := x.units.set 0 (q ++ [{ flight f kind (decide (kind = .hips)) with place := place }])
        seq := { sq with hips := none }, progress := 0, ctr := z.ctr } ∧
      z.oq.length = x.oq.length ∧
      ∀ k v w, k < 8 → x.oq[k]? = some v → z.oq[k]? = some w →
        if mask.getLsbD k then SentHip n x k v w else w = v := by
  have hl : 0 < x.units.length := (List.getElem?_eq_some_iff.1 hr.1).1
  let e : InFlight := { flight f kind false with place := place }
  let e' : InFlight := { flight f kind (decide (kind = .hips)) with place := place }
  let y : Rafter := { x with
    seq := { sq with hips := some (mask, false) }, units := x.units.set 0 (q ++ [e]), progress := 0, ctr := c }
  have hsame : ∀ k, SameOutput x y k := fun k =>
    { slot := hslot, route := rfl, depth := rfl, steering := rfl, queue := rfl
      products := by simp [y, unitQ, List.getD_eq_getElem?_getD] }
  have hsent : HipsSent n y mask (sendHips n 17 y) := sendHips_hipsSent n 8 y mask rfl rfl (fun k _ _ => by omega)
    (fun k hk hbit => (hsame k).canSendHip.2 (hcan k hk hbit))
  have hstep := hipsStep_sent h.place h.state y
  generalize sendHips n 17 y = z at hsent hstep
  obtain ⟨frame, length, queues⟩ := hsent
  have hunits : z.units = x.units.set 0 (q ++ [e]) := by rw [frame]
  have hhips : z.seq.hips = none := by rw [frame]
  have hfinish : finishKind z 0 .hips = { z with units := x.units.set 0 (q ++ [e']) } := by
    rw [finishKind_last hunits hl hq]
    by_cases hk : kind = .hips <;> simp [e, e', flight, hk]
  refine ⟨finishKind z 0 .hips, ?_, ?_, ?_, ?_⟩
  · refine enqueue_leaves h hr hq f kind j place rfl ?_ (by rw [hfinish]) rfl
    simp only
    rw [hjob, begun_last rfl hl]
    exact hstep hhips
  · rw [hfinish]
    exact congrArg (fun r : Rafter => { r with units := x.units.set 0 (q ++ [e']) }) frame
  · rw [hfinish]
    exact length
  · intro k v w hk hv hw
    rw [hfinish] at hw
    rw [← (hsame k).sentHip]
    exact queues k v w hk hv hw

/-! ### SETSH, HIP and SLOT (R116, R217, R218, R222) -/

theorem scratchWordAt_eq_none {x : Rafter} {g : BitVec 4} (h : (agOf x g).space ≠ .scratch ∨ agAddr x g % 4 ≠ 0) :
    scratchWordAt x g = none := by
  rcases h with h | h <;> simp [scratchWordAt, h]

theorem setSh_scratch {s : State} {n : RafterId} {p : Nat} {x : Rafter} {q : List InFlight} {f : Frame} {o : SetShOps}
    {a : Nat} (h : Ready s n p x) (hr : Room x 0 q) (hq : AllDone q) (hsrc : o.src = true)
    (ha : scratchWordAt x o.ag = some a) :
    ∃ y e, FallsThrough x y ∧ IsDone f e ∧
      exec (.setSh n f o .pass) s = .next (setRafter s p { y with
        units := x.units.set 0 (q ++ [e])
        seq := { y.seq with sh := x.seq.sh.set o.sh.toNat (BitVec.ofNat 32 (memWord x.scratch a 4)) } }) := by
  have hl : 0 < x.units.length := (List.getElem?_eq_some_iff.1 hr.1).1
  let e : InFlight := { flight f .none true with place := x.seq.idx }
  refine ⟨advanced x, e, advanced_fallsThrough x, ⟨rfl, rfl, rfl, rfl⟩, ?_⟩
  simp only [exec, execSetSh, setShEffect, hsrc, if_true, issue_posted (fire := noFire) h hr rfl, ha]
  congr 1
  refine enqueue_leaves (e := e) h hr hq f .none _ _ rfl ?_ rfl rfl
  simp only
  rw [doJob_setSh_pass h.state, begun_last rfl hl]
  rfl

theorem setSh_boundFault {s : State} {n : RafterId} {p : Nat} {x : Rafter} {q : List InFlight} {o : SetShOps}
    (h : Ready s n p x) (hr : Room x 0 q) (hsrc : o.src = true)
    (hbad : (agOf x o.ag).space ≠ .scratch ∨ agAddr x o.ag % 4 ≠ 0) (f : Frame) (hw : UnitCheck) :
    exec (.setSh n f o hw) s = .next (boundFault s n) := by
  simp only [exec, execSetSh, setShEffect, hsrc, if_true, issue_posted (fire := noFire) h hr rfl,
    scratchWordAt_eq_none hbad]

theorem setSh_value {s : State} {n : RafterId} {p : Nat} {x : Rafter} {o : SetShOps} (h : Ready s n p x)
    (hsrc : o.src = false) (f : Frame) (hw : UnitCheck) :
    ∃ y, FallsThrough x y ∧ exec (.setSh n f o hw) s = .next (Completed s n p f { y with
      seq := { y.seq with sh := x.seq.sh.set o.sh.toNat o.value } }) := by
  refine ⟨advanced x, advanced_fallsThrough x, ?_⟩
  simp only [exec, execSetSh, setShEffect, hsrc, Bool.false_eq_true, if_false, issue_direct (fire := noFire) h rfl]
  rfl

theorem hip_sends {s : State} {n : RafterId} {p : Nat} {x : Rafter} {q : List InFlight} (h : Ready s n p x)
    (hr : Room x 0 q) (hq : AllDone q) (f : Frame) {mask : Byte}
    (hcan : ∀ k, k < 8 → mask.getLsbD k = true → CanSendHip x k) :
    ∃ y z e, exec (.hip n f mask) s = .next (setRafter s p y) ∧ FallsThrough x z ∧ IsDone f e ∧
      y.seq = { z.seq with hips := none } ∧ y.units = x.units.set 0 (q ++ [e]) ∧
      y.iq = x.iq ∧ y.scratch = x.scratch ∧ y.oq.length = x.oq.length ∧
      (∀ k v w, k < 8 → x.oq[k]? = some v → y.oq[k]? = some w →
        if mask.getLsbD k then SentHip n x k v w else w = v) := by
  obtain ⟨y, hrun, frame, length, queues⟩ := enqueue_hips h hr hq f .hips (.hip mask) x.seq.idx
    (sq := (advanced x).seq) (c := (advanced x).ctr) rfl hcan (fun us i e => doJob_hip h.state _ n i e mask)
  refine ⟨y, advanced x, { flight f .hips true with place := x.seq.idx }, ?_, advanced_fallsThrough x,
    ⟨rfl, rfl, rfl, rfl⟩, by rw [frame], by rw [frame]; rfl, by rw [frame], by rw [frame], length, queues⟩
  simp only [exec, execHip, hipEffect, issue_posted (fire := noFire) h hr rfl]
  exact congrArg Host.Outcome.next hrun

theorem slot_sends {s : State} {n : RafterId} {p : Nat} {x : Rafter} {q : List InFlight} (h : Ready s n p x)
    (hr : Room x 0 q) (hq : AllDone q) (f : Frame)
    (hcan : ∀ k, k < 8 → (hipsDue x).getLsbD k = true → CanSendHip x k) :
    ∃ y e, exec (.slot n f) s = .next (setRafter s p y) ∧ IsWaiting f .switch e ∧
      y.seq = { x.seq with slotReq := true, seHips := false, stall := 6, hips := none } ∧
      y.units = x.units.set 0 (q ++ [e]) ∧ y.iq = x.iq ∧ y.scratch = x.scratch ∧ y.progress = 0 ∧
      (∀ k v w, k < 8 → x.oq[k]? = some v → y.oq[k]? = some w →
        if descOq (slotDescOf x x.seq.slot) k && !v.hipSent then SentHip n x k v w else w = v) := by
  obtain ⟨y, hrun, frame, -, queues⟩ := enqueue_hips h hr hq f .switch .slot x.seq.idx
    (sq := { x.seq with slotReq := true, seHips := false, stall := 6 }) (c := hitCtrs x.ctr 2 1) rfl hcan
    (fun us i e => doJob_slot h.state _ n i e)
  refine ⟨y, { flight f .switch false with place := x.seq.idx }, ?_, ⟨rfl, rfl, rfl, rfl⟩, by rw [frame],
    by rw [frame]; rfl, by rw [frame], by rw [frame], by rw [frame], fun k v w hk hv hw => ?_⟩
  · simp only [exec, execSlot, slotEffect, issue_posted (fire := noFire) h hr rfl]
    exact congrArg Host.Outcome.next hrun
  · have hqueue := oqOf_of_getElem? hv
    rw [← hqueue, ← getLsbD_hipsDue x hk, hqueue]
    exact queues k v w hk hv hw

/-- Settles O7: SETSH, HIP and SLOT each begin as they enter the sequencer's queue behind finished instructions; hip tokens
go out in ascending queue order, by induction on the queues still to come, none of which depends on another's. -/
theorem sequencerReadsAndHips : Obligations.SequencerReadsAndHips := by
  unfold Obligations.SequencerReadsAndHips
  refine ⟨fun s n p x q f o h hr hq hsrc => ⟨fun a ha => setSh_scratch h hr hq hsrc ha, fun hbad hw =>
      setSh_boundFault h hr hsrc hbad f hw⟩,
    fun s n p x f o hw h hsrc => setSh_value h hsrc f hw,
    fun s n p x q f mask h hr hq hcan => hip_sends h hr hq f hcan,
    fun s n p x q f h hr hq hcan => slot_sends h hr hq f hcan⟩

end Sys2Proof.Machine
end
